-- ==== Sys2Proof/Word.lean ====
section
/-! DEFINITION. The bit-vector words of the FH-960: 64-bit scalar words, 32-bit lane words, bytes.
Memory cells are keyed by plain natural numbers. -/
namespace Sys2Proof

/-- A 64-bit word: scalar registers, instruction words, virtual addresses (R14, R56). -/
abbrev Word := BitVec 64

/-- A 32-bit lane value of one vector register, or a lane mask (R14). -/
abbrev Lane := BitVec 32

/-- One byte of memory, or one E8M0 scale (R11, R42). -/
abbrev Byte := BitVec 8

end Sys2Proof
end

