-- ==== Sys2Proof/Config.lean ====
section
/-! DEFINITION. What the implementation fixes and what the spec leaves open: the figures of R1 the model uses,
and the free values, opaque constants of which nothing can be proved. -/
namespace Sys2Proof.Config

/-- Lanes per group (R1, R2). -/
def lanes : Nat := 32

/-- Group slots per quadrant (R1). -/
def slotsPerQuad : Nat := 16

/-- Bank rows of a quadrant, per bank (R19). -/
def bankRows : Nat := 256

/-- Bytes of a core's stash (R1). -/
def stashBytes : Nat := 524288

/-- Clocks of a µs at the full clock rate (R1, R11). -/
def clocksPerUs : Nat := 1500

/-- A free value for a choice the spec leaves open, by the running number of the choice (log entry 3). -/
opaque freeNat : Nat → Nat

/-- The binary32 value Q of a quick special-function form (R8, R119), by opcode and operand (sign, odd significand, exponent of
two): fixed for a device model within the form's bound and otherwise not stated (log entry 4). -/
opaque quickForm : Nat → Bool → Nat → Int → BitVec 32

/-- The index that stochastic rounding uses for a lane slot without a thread (R46, R48), by the group's number in its grid, LTIME and
lane: not stated, and under DET = 1 a function of what R5 holds fixed (log entry 6). -/
opaque emptyLane : Nat → Nat → Nat → Nat

/-- A row of a declared matrix group that had ended before the stream began, under DET = 1, by quadrant, register and lane: not stated,
and a function of what R5 holds fixed (log entry 45). -/
opaque endedRow : Nat → Nat → Nat → BitVec 32

/-- The MAC of a log record under a partition's log key (R396, R429): the key is random (log entry 5). -/
opaque mac : Nat → List (BitVec 64) → BitVec 64

/-- A byte of a line whose partition key has been erased (R430), by address and alarm count (log entry 5). -/
opaque erasedByte : Nat → Nat → BitVec 8

/-- The part and stepping of the device model, bits 63:40 of word 1 of an anchor record (R400; log entry 101). -/
opaque partStepping : BitVec 24

/-- Whether an image's signature is accepted at bring-up (R433; log entry 101), by image address. -/
opaque imageAccepted : BitVec 64 → Bool

/-- The fused value of the device-debug unlock (R433; log entry 101). -/
opaque fusedToken : BitVec 56

/-- Payload bytes of an attestation response (R431; log entry 7), by request code, argument and byte index. -/
opaque attestByte : Nat → Nat → Nat → BitVec 8

/-- A BRSTAT error code of a failed bring-up step (R433; log entry 78), by step. -/
opaque bringUpError : Nat → BitVec 8

/-- The digest of a partition's graph memory in an anchor record (R400; log entry 68), over the words of its node records. -/
opaque graphDigest : List (BitVec 64) → BitVec 64

/-- Bytes that one spilled staging slot takes of the staging area (R275), which the spec does not give (log entry 34). -/
opaque stagedBytes : Nat

end Sys2Proof.Config
end

