-- ==== Sys2Proof/Syntax.lean ====
section
/-! DEFINITION. The steps of the FH-960: one constructor per row of the opcode table. The first 212
constructors are instruction words (F, P, I and S forms, R56); the others are the events of the part, each
whole and indivisible, which have no encoding (spec/95_what_each_step_holds.md). Operands keep the layouts of
R58, R61 to R64, R66, R70 and R72; which of a layout's fields an instruction uses is in WellFormed. -/
namespace Sys2Proof

/-- Layout A of the F-form (R58, R61): register operands with permutes, RND, SAT, XF and hold bits. -/
structure OpA where
  pred : BitVec 3
  fmt : BitVec 3
  d : BitVec 10
  a : BitVec 10
  ap : BitVec 3
  b : BitVec 10
  bp : BitVec 3
  rnd : BitVec 3
  sat : BitVec 1
  xf : BitVec 6
  ha : BitVec 1
  hb : BitVec 1
  deriving DecidableEq, Repr

/-- Layout C of the F-form (R61): a third register operand in place of RND, SAT and XF. -/
structure OpC where
  pred : BitVec 3
  fmt : BitVec 3
  d : BitVec 10
  a : BitVec 10
  ap : BitVec 3
  b : BitVec 10
  bp : BitVec 3
  c : BitVec 10
  ha : BitVec 1
  hb : BitVec 1
  deriving DecidableEq, Repr

/-- Layout M of the F-form (R62): memory and atomic instructions. -/
structure OpM where
  pred : BitVec 3
  fmt : BitVec 3
  d : BitVec 10
  a : BitVec 10
  disp : BitVec 6
  sb : BitVec 6
  scl : BitVec 3
  wid : BitVec 3
  uc : BitVec 4
  dz : BitVec 1
  sco : BitVec 3
  ord : BitVec 2
  deriving DecidableEq, Repr

/-- Layout E of the F-form (R63): engine instructions. -/
structure OpE where
  pred : BitVec 3
  fmt : BitVec 3
  d : BitVec 10
  a : BitVec 10
  sb1 : BitVec 6
  sb2 : BitVec 6
  num : BitVec 6
  sco : BitVec 3
  md : BitVec 3
  deriving DecidableEq, Repr

/-- Layout Q of the F-form (R64): words of a matrix stream. -/
structure OpQ where
  fmt : BitVec 3
  tgt : BitVec 10
  brow : BitVec 10
  arow : BitVec 13
  fb : BitVec 3
  deriving DecidableEq, Repr

/-- The I-form (R70). -/
structure OpI where
  pred : BitVec 3
  fmt : BitVec 3
  d : BitVec 10
  sr : BitVec 1
  rnd : BitVec 3
  sat : BitVec 1
  imm : BitVec 32
  deriving DecidableEq, Repr

/-- The S-form (R72). -/
structure OpS where
  cond : BitVec 3
  sd : BitVec 6
  sa : BitVec 6
  sb : BitVec 6
  isel : BitVec 1
  imm : BitVec 32
  deriving DecidableEq, Repr

/-- One half of a P-form word (R66). -/
structure Half where
  op : BitVec 6
  d : BitVec 10
  a : BitVec 10
  ap : BitVec 3
  fmt : BitVec 2
  deriving DecidableEq, Repr

/-- Who sends a register access of the device-register range (R159, R321). -/
inductive Sender where
  | companion
  | group (vf : Nat)
  deriving DecidableEq, Repr

/-- Which barrier a completion names (R193): a team barrier, a cluster barrier, a grid barrier. -/
inductive BarRef where
  | team (team n : Nat)
  | cluster (cluster : Nat)
  | grid (vf slot node : Nat)
  deriving DecidableEq, Repr

/-- Which fault ring (R312, R321, R415): a VF's, a partition's host ring, a partition's debug ring. -/
inductive RingRef where
  | vf (vf : Nat)
  | host (part : Nat)
  | debug (part : Nat)
  deriving DecidableEq, Repr

/-- A fabric message (R374, R376): destination word, kind, source fields, 16 payload words. -/
structure Msg where
  dst : BitVec 64
  kind : BitVec 2
  srcDev : BitVec 13
  srcPart : BitVec 4
  srcVf : BitVec 8
  clust : BitVec 48
  team : BitVec 4
  grp : BitVec 4
  seq : BitVec 32
  payload : List (BitVec 32)
  deriving DecidableEq, Repr

/-- The steps of the part, one constructor per row of spec/opcode_table.json. -/
inductive Instr where
  -- vector floating point
  | fadd (o : OpA) | fsub (o : OpA) | fmul (o : OpA)
  | faddImm (o : OpI) | fsubImm (o : OpI) | fmulImm (o : OpI)
  | fma (o : OpC) | fms (o : OpC) | fnma (o : OpC)
  | fmin (o : OpA) | fmax (o : OpA) | fminImm (o : OpI) | fmaxImm (o : OpI)
  | fabs (o : OpA) | fneg (o : OpA)
  | fcmpEq (o : OpA) | fcmpLt (o : OpA) | fcmpLe (o : OpA) | fcmpUn (o : OpA)
  | fsel (o : OpA) | fcvt (o : OpA) | frnd (o : OpA) | fsqrt (o : OpA) | fdiv (o : OpA)
  | fexp2q (o : OpA) | fexp2r (o : OpA) | flog2q (o : OpA) | flog2r (o : OpA)
  | fsinpq (o : OpA) | fsinpr (o : OpA) | fcospq (o : OpA) | fcospr (o : OpA)
  | ftanhq (o : OpA) | ftanhr (o : OpA) | frcpq (o : OpA) | frcpr (o : OpA)
  | frsqq (o : OpA) | frsqr (o : OpA) | fpack (o : OpA) | funpack (o : OpA)
  -- vector integer
  | iadd (o : OpA) | isub (o : OpA) | imul (o : OpA) | imulh (o : OpA) | imad (o : OpC)
  | iand (o : OpA) | ior (o : OpA) | ixor (o : OpA) | inot (o : OpA)
  | ishl (o : OpA) | ishr (o : OpA) | isra (o : OpA)
  | imin (o : OpA) | imax (o : OpA) | iminu (o : OpA) | imaxu (o : OpA)
  | iabs (o : OpA) | ineg (o : OpA) | ipopc (o : OpA) | iclz (o : OpA) | ibrev (o : OpA)
  | isel (o : OpA)
  | icmpEq (o : OpA) | icmpNe (o : OpA) | icmpLt (o : OpA) | icmpLe (o : OpA)
  | icmpLtu (o : OpA) | icmpLeu (o : OpA)
  | iaddImm (o : OpI) | isubImm (o : OpI) | imulImm (o : OpI)
  | iandImm (o : OpI) | iorImm (o : OpI) | ixorImm (o : OpI)
  | ishlImm (o : OpI) | ishrImm (o : OpI) | israImm (o : OpI)
  | iminImm (o : OpI) | imaxImm (o : OpI) | iminuImm (o : OpI) | imaxuImm (o : OpI)
  | vli (o : OpI)
  | pair (hi lo : Half)
  -- lane moves, identity, predicates, scale, index and permute registers, format table
  | vmov (o : OpA) | vperm (o : OpA) | vredx (o : OpA) | vscan (o : OpA) | vlane (o : OpA) | vput (o : OpA)
  | pand (o : OpA) | por (o : OpA) | pxor (o : OpA) | pnot (o : OpA) | pmov (o : OpA)
  | pany (o : OpA) | pall (o : OpA) | ppopc (o : OpA) | pfirst (o : OpA)
  | zset (o : OpA) | zget (o : OpA) | zmov (o : OpA)
  | xset (o : OpA) | xsetImm (o : OpI) | xidx (o : OpA) | xinc (o : OpA) | xget (o : OpA)
  | kset (o : OpI) | fmtset (o : OpI) | fmtget (o : OpA)
  -- memory
  | vldG (o : OpM) | vstG (o : OpM) | vldS (o : OpM) | vstS (o : OpM) | vgath (o : OpM) | vscat (o : OpM)
  | stmap (o : OpM) | stunmap (o : OpM) | stflush (o : OpM) | stinv (o : OpM)
  | mboxPut (o : OpM) | mboxGet (o : OpM) | fence (o : OpM)
  | vatomAdd (o : OpM) | vatomMin (o : OpM) | vatomMax (o : OpM) | vatomAnd (o : OpM) | vatomOr (o : OpM)
  | vatomXor (o : OpM) | vatomXchg (o : OpM) | vatomCas (o : OpM)
  | vredAdd (o : OpM) | vredMin (o : OpM) | vredMax (o : OpM) | vredAnd (o : OpM) | vredOr (o : OpM)
  | vredXor (o : OpM)
  -- barriers and engines
  | barT (o : OpA) | barC (o : OpA) | barG (o : OpA)
  | cpy (o : OpE) | cpyWany (o : OpE) | cpyWall (o : OpE) | cpyFfr (o : OpE) | cpyCancel (o : OpE)
  | comb (o : OpE) | mxgo (o : OpE) | accRd (o : OpE) | accWr (o : OpE) | accZero (o : OpE)
  | fsend (o : OpE) | fsendS (o : OpE) | frecv (o : OpE) | dlinkStat (o : OpE) | dlinkTurn (o : OpI)
  -- matrix stream
  | mxMma (o : OpQ) | mxZero (o : OpQ) | mxBar (o : OpQ) | mxFmt (o : OpQ) | mxEnd (o : OpQ)
  -- divergent control, ends, handlers
  | vbr (o : OpI) | vjoin (o : OpA) | vexit (o : OpA) | yield (o : OpA) | exit (o : OpA) | rtt (o : OpA)
  | ckpt (o : OpA) | sigMark (o : OpA) | halt (o : OpA) | wait (o : OpI) | reform (o : OpI)
  | trap (o : OpI) | brk (o : OpI)
  -- scalar
  | sadd (o : OpS) | ssub (o : OpS) | smul (o : OpS) | smulh (o : OpS) | sdiv (o : OpS) | srem (o : OpS)
  | sand (o : OpS) | sor (o : OpS) | sxor (o : OpS) | sshl (o : OpS) | sshr (o : OpS) | ssra (o : OpS)
  | smin (o : OpS) | smax (o : OpS) | sminu (o : OpS) | smaxu (o : OpS) | sclz (o : OpS) | spopc (o : OpS)
  | sext (o : OpS) | sins (o : OpS) | ssel (o : OpS) | smov (o : OpS) | sli (o : OpS) | slih (o : OpS)
  | scmpEq (o : OpS) | scmpNe (o : OpS) | scmpLt (o : OpS) | scmpLe (o : OpS) | scmpLtu (o : OpS)
  | scmpLeu (o : OpS) | cand (o : OpS) | cor (o : OpS) | cnot (o : OpS)
  | bra (o : OpS) | bcc (o : OpS) | call (o : OpS) | ret (o : OpS) | jr (o : OpS) | loop (o : OpS)
  | sldB (o : OpS) | sldH (o : OpS) | sldW (o : OpS) | sldD (o : OpS)
  | sstB (o : OpS) | sstH (o : OpS) | sstW (o : OpS) | sstD (o : OpS)
  | spop (o : OpS) | srd (o : OpS) | swr (o : OpS)
  -- events: memory system
  | tlbiComplete (vf : Nat)
  | loadDataReturn (g op : Nat) (outcome : Nat)
  | storePerformed (g op : Nat) (outcome : Nat)
  | stashFill (core row : Nat)
  | rowRecall (line : Nat)
  | sliceSweep (leaf slice : Nat)
  | patrolScrub (line : Nat) (errors : Nat)
  | containmentEvent (part : Nat) (pa level path : Nat)
  -- events: traps and debug
  | handlerEntry (g : Nat)
  | fatalTrap (g : Nat)
  | replayableFault (g : Nat)
  | faultRecordPost (ring : RingRef)
  | faultReplay (g : Nat)
  | freplay (ring : RingRef) (value : BitVec 64)
  | debugEvent (g : Nat)
  | dbgres (part : Nat) (value : BitVec 64)
  | dbgdatWrite (part : Nat) (value : BitVec 64)
  | dbgunlk (part : Nat) (value : BitVec 64)
  | dbgtok (part : Nat) (value : BitVec 64)
  -- events: scheduler
  | trig (vf : Nat) (value : BitVec 64)
  | gload (vf : Nat) (value : BitVec 64)
  | launchStart (vf slot : Nat)
  | dispatchStep
  | eventWaitPoll (vf slot node : Nat)
  | kernelComplete (vf slot node : Nat)
  | launchComplete (vf slot : Nat)
  | clusterRetire (cluster : Nat)
  | barrierComplete (b : BarRef)
  | binDraw (bin : Nat)
  | reformDraw (team quad : Nat)
  -- events: engines
  | copyComplete (g tag pieces : Nat)
  | copyCancelStop (g tag pieces : Nat)
  | spineChunkSelect (engine : Nat)
  | spineChunkComplete (engine : Nat) (error : Nat)
  | budgetRefill (vf cls bytes : Nat)
  | remoteCopyAck (vf slot node chunk : Nat) (ok : Bool)
  | streamFetch (team : Nat) (error : Bool)
  | mxStepComplete (team source : Nat)
  | streamFault (team : Nat)
  -- events: pre-emption and partitions
  | preemption (cluster : Nat)
  | atckTimeout (g : Nat)
  | spill (cluster : Nat)
  | clusterRestore (cluster : Nat)
  | pmodeWrite (part : Nat) (value : BitVec 64)
  | applyCmd (part : Nat)
  | partitionHalt (part : Nat) (value : BitVec 64)
  | resume (part : Nat) (value : BitVec 64)
  | discard (part : Nat) (value : BitVec 64)
  | deadlinePost (part : Nat) (value : BitVec 64)
  | deadlineSwitch (part : Nat)
  | evictionReport (part : Nat)
  | ps2inv (part : Nat) (value : BitVec 64)
  | stage2InvalComplete (part : Nat)
  -- events: links and fabric
  | turnWindow
  | bundleTurnEnd (leaf : Nat)
  | fabricArrival (m : Msg)
  | nackReceive (vf dev part mbx reason : Nat)
  | fabricAccept (g op : Nat)
  | portDown (port : Nat)
  | mailboxEnable (vf mbx : Nat) (value : BitVec 64)
  | linkRetry (failures : Nat)
  | linkRetrain (ok : Bool)
  | companionAccess (pa : Nat) (bytes : Nat) (data : Option Nat)
  | wiunoSnoop (line : Nat) (exclusive : Bool)
  -- events: record and replay
  | signatureBoundary (team : Nat)
  | logStall (part : Nat)
  | anchor (part n : Nat)
  | anchdone (part n : Nat)
  | replay (part n : Nat)
  | abort (part : Nat)
  | replayLoaded (part : Nat)
  | replayHoldRelease (g op : Nat)
  | heldAccessTimeout (g : Nat)
  | rfmTimeout (g : Nat)
  | arrTimeout (g : Nat)
  | replayBreakpoint (part : Nat)
  | endOfLog (part : Nat)
  -- events: observation, security, bring-up
  | pcSample (core quad : Nat)
  | glitchSensor
  | getVersion | getCapabilities
  | negotiateAlgorithms (asym hash : Nat)
  | getDigests
  | getCertificate (certSlot : Nat)
  | challenge (certSlot : Nat) (nonce : Nat)
  | getMeasurements (index : Nat)
  | load (value : BitVec 64)
  | fabrst
  | dbgkey (value : BitVec 64)
  | powerGood
  | powerWindow (milliwatts : Nat)
  | thermalSensor (celsius : Nat)
  | registerWrite (sender : Sender) (pa : Nat) (value : BitVec 64)
  | remoteCopyWrite (srcDev vf : Nat) (addr : BitVec 64) (data : List (BitVec 8))
  | transitForward (dev cls : Nat)
  | fuseSenseCheck
  | powerOff
  | bringUpStepDone (error : Nat)
  deriving DecidableEq, Repr

end Sys2Proof
end

