-- ==== Sys2Proof/Machine/State.lean ====
section
/-! DEFINITION. The state of the part as plain data: groups and their trap registers, teams and matrix
sequencers, clusters, the registers of virtual functions and partitions, memory, stash, cache metadata,
translation buffers, records of the scope and conflict checkers, engines, links, fabric, logs, the device
block; the reasons a step can stop; the state after reset. -/
namespace Sys2Proof.Machine

/-- A sparse map from natural keys: keys strictly rising, no entry equal to the map's default value. -/
abbrev Sparse (α : Type) := List (Nat × α)

/-- An entry of the divergence stack (R143). -/
structure DivEntry where
  isPath : Bool
  pc : Word
  mask : Lane
  deriving DecidableEq, Repr

/-- A trap as raised: cause group, code and detail, the lowest failing lane, whether asynchronous (R302 to
R304), the address of the trapping word, and the decoded registers of a refused word (R310). -/
structure TrapReq where
  grp : Nat
  code : Nat
  detail : BitVec 96
  lane : Option Nat := none
  async : Bool := false
  pc : Word := 0
  dec : List Word := []
  deriving DecidableEq, Repr

/-- The trap registers of one handler level (R305). -/
structure TrapRegs where
  cause : BitVec 32
  det0 : BitVec 32
  det1 : BitVec 32
  det2 : BitVec 32
  pc : Word
  mask : Lane
  scr : List Word
  deriving DecidableEq, Repr

/-- What a group waits for, beyond the stalls of its next word. -/
inductive Wait where
  /-- ready to issue its next word -/
  | run
  /-- arrived at barrier 0 to 15, 16 (`bar.c`) or 17 (`bar.g`) (R192) -/
  | bar (n : Nat)
  /-- waits under R311 for a replay command naming the fault; none while its record is not posted -/
  | fault (ring : RingRef) (fid : Option Nat)
  /-- stopped under R418 with its event number; none while its record is not posted -/
  | debug (event : Option Nat)
  /-- stopped after `ckpt`, or where it stands, under a HALT with ATCK (R330) -/
  | stopped
  /-- ended by `exit` or `vexit`; the slot waits for its counters (R149) -/
  | ended
  deriving DecidableEq, Repr

/-- One lane's part of a memory operation: its address, size and data captured at issue. -/
structure Part where
  lane : Nat
  va : Nat
  addr : Nat
  size : Nat
  data : List Byte := []
  swap : List Byte := []
  reg : Nat := 0
  /-- its page is of uncached type, or its address lies in companion-processor memory under a log -/
  unc : Bool := false
  deriving DecidableEq, Repr

/-- The reducing operations of R256 and R258, and the value-returning-only forms. -/
inductive RmwOp where
  | add | min | max | and | or | xor | xchg | cas
  deriving DecidableEq, Repr

/-- What a pending memory operation does when it performs (R221). -/
inductive OpKind where
  | load
  | store
  | rmw (op : RmwOp)
  | red (op : RmwOp)
  | mboxPut (c : Nat)
  | mboxGet (c : Nat)
  | sload (s : Nat)
  | frecv (c mb : Nat)
  | fsend (m : Msg)
  deriving DecidableEq, Repr

/-- Where an access goes: physical memory, a stash byte (R197), or the device-register range (R195). -/
inductive Space where
  | mem | stash | device
  deriving DecidableEq, Repr

/-- A memory operation issued and not yet performed (R150, R223). -/
structure MemOp where
  id : Nat
  inst : Nat
  kind : OpKind
  space : Space
  parts : List Part
  ord : BitVec 2 := 0
  sco : BitVec 3 := 0
  uc : BitVec 4 := 0
  dz : Bool := false
  elem : Nat := 0
  /-- it has a step-5 check of R243 and that check has not passed -/
  unchecked : Bool := false
  pc : Word := 0
  ltime : Word := 0
  /-- registers and lanes that a younger word has written since: what this operation returns there is discarded by
  the write-sequence tag (R23) -/
  lost : List (Nat × Nat) := []
  /-- how many waiting `vput` it stands behind in the forward queue (R28) -/
  behind : Nat := 0
  /-- lines that an earlier element of its instruction has requested (R208, R219) -/
  again : List Nat := []
  /-- the operation numbers from here on follow a `wait` with ld = 0 or st = 0 that follows this read-modify-write (R226);
  0 for none -/
  waited : Nat := 0
  /-- the number of its request among those that entered the networks (R205); none before it enters -/
  sent : Option Nat := none
  /-- the ns at which an `frecv` was issued (R410) -/
  since : Nat := 0
  deriving DecidableEq, Repr

/-- The failure of an access kept until its consumer (R317): the registers and lanes it would have written and no word has written
since, by key and lane; whether STCNT counted it; whether a drain that consumes nothing has waited for it. -/
structure FailRec where
  regs : List (Nat × Nat)
  isStore : Bool
  trap : TrapReq
  drained : Bool := false
  deriving DecidableEq, Repr

/-- A hold latch (R21). -/
structure Latch where
  reg : Nat
  perm : BitVec 3
  kval : BitVec 16
  values : List Lane
  deriving DecidableEq, Repr

/-- Selectors of the context registers and the image RLENT0 to RLENT4 being written (R342). -/
structure CtxSel where
  dv : Nat
  bar : Nat
  fmt : Nat
  rl : Nat
  acc : Nat
  image : List Word
  deriving DecidableEq, Repr

/-- The comparators of R416. -/
structure Comparators where
  ibp : List Word
  wplo : List Word
  wphi : List Word
  deriving DecidableEq, Repr

/-- The counts of R237. -/
structure Counts where
  tb : Nat
  cb : Nat
  gb : Nat
  rf : Nat
  deriving DecidableEq, Repr

/-- Identity and placement of a group (R155 to R158, R169). -/
structure Ident where
  key : Nat
  /-- index of its slot within the team (R396) -/
  tidx : Nat
  vf : Nat
  cluster : Nat
  team : Nat
  grpid : Nat
  core : Nat
  quad : Nat
  slot : Nat
  claim : Nat
  rowOff : Nat
  cls : Nat
  age : Nat
  passed : Nat
  deriving DecidableEq, Repr

/-- The registers of a group (R14); v, x are keyed by 32 × register + lane, p, s, z by register. -/
structure Regs where
  v : Sparse Lane
  x : Sparse Lane
  p : Sparse Lane
  z : Sparse (BitVec 128)
  s : Sparse Word
  c : BitVec 8
  k0 : BitVec 16
  k1 : BitVec 16
  deriving DecidableEq, Repr

/-- The trap and handler state of a group (R302, R305). -/
structure TrapState where
  usr : TrapRegs
  sys : TrapRegs
  utvec : Word
  utdeleg : Word
  lvl : BitVec 2
  plvl : BitVec 2
  udepth : BitVec 5
  sdepth : BitVec 5
  tdec : List Word
  entry : Option TrapReq
  async : List TrapReq
  deriving DecidableEq, Repr

/-- Words of one retired instruction still to be mixed into the group's digests (R396); `inst` names a load
whose data has not returned. -/
structure DigItem where
  inst : Option Nat
  r : List Word
  m : List Word
  deriving DecidableEq, Repr

/-- One group (R14) with everything it has in flight. -/
structure Group where
  id : Ident
  live : Lane
  mask : Lane
  origin : Sparse Nat
  regs : Regs
  pc : Word
  /-- the sixteen slots of the divergence stack, bottom first; those from `dvDepth` up are not on the stack -/
  dv : List DivEntry
  dvDepth : Nat
  fflags : BitVec 5
  seed : Word
  agelim : BitVec 16
  ltime : Word
  enacc : Word
  /-- the part of ENACC that is in the team's energy record already (R189) -/
  enBanked : Word
  pidx : BitVec 4
  pidxPc : Word
  view : List (BitVec 32)
  fmtPend : List (Nat × BitVec 32)
  tagBusy : Word
  tagDone : Word
  tagFlt : Word
  latchA : Option Latch
  latchB : Option Latch
  rq : List Lane
  /-- forward-queue words held back: for each `vput` that waits for a slot of the return queue (the entries of `rq`
  beyond 16), itself and the vector words queued behind it, and how many of them are memory-class (R28, R29) -/
  fqHeld : List (Nat × Nat)
  /-- vector words that have entered the forward queue since it was last known to be empty (R17, R28) -/
  fqSince : Nat
  trap : TrapState
  sel : CtxSel
  wait : Wait
  ops : List MemOp
  nextInst : Nat
  failed : List FailRec
  counts : Counts
  cmp : Comparators
  exempt : Bool
  dbgpc : Word
  replays : Nat
  /-- its word issues again after a replayable fault (R311, R406) -/
  again : Bool
  dig : List DigItem
  /-- matrix operations with numbers below this are observed complete (R230, R286) -/
  mxSeen : Nat
  deriving DecidableEq, Repr

/-- A thread filed by `reform`, with the registers it keeps and its filing group as it stood (R176, R188,
R189). -/
structure Filed where
  lane : Nat
  origin : Nat
  pc : Word
  set : Nat
  quad : Nat
  time : Nat
  donor : Group
  deriving DecidableEq, Repr

/-- A sorting bin of a quadrant (R176): one team and one key. -/
structure Bin where
  id : Nat
  core : Nat
  quad : Nat
  team : Nat
  key : Word
  ready : Bool
  threads : List Filed
  deriving DecidableEq, Repr

/-- A new group that found no vacant slot (R177), or threads that found no bin (R176). -/
structure Drawn where
  quad : Nat
  key : Word
  threads : List Filed
  deriving DecidableEq, Repr

/-- A matrix operation in flight (R289); B is held as read at its issue under the interlock of R291. -/
structure MxOp where
  id : Nat
  isZero : Bool
  tile : Nat
  fa : BitVec 32
  fb : BitVec 32
  arow : Nat
  brow : Nat
  steps : Nat
  done : Nat
  lockEntry : Nat
  b : List (List Lane)
  pc : Word
  deriving DecidableEq, Repr

/-- The matrix sequencer of a team (R285 to R293). -/
structure Sequencer where
  run : Bool
  flt : Bool
  mxpc : Word
  fcode : Nat
  barw : Option Nat
  owner : Nat
  start : Word
  view : List (BitVec 32)
  pend : List (Nat × BitVec 32)
  flight : List MxOp
  counts : Counts
  word : Option Word
  fault : Option Nat
  faultPost : Option TrapReq
  /-- LTIME of the owner's `mxgo` -/
  went : Nat
  deriving DecidableEq, Repr

/-- An event of a signature (R396, R397): the team slot index of its group (the VF for a spine event), the LTIME of
its word, the low word field A, and the further words. -/
structure LogEvent where
  code : Nat
  grp : Nat
  time : Word
  a : BitVec 32
  more : List Word
  deriving DecidableEq, Repr

/-- The open signature of a team at its core's collator (R394, R396): start counts and digests of its groups by slot
index, its events, the PCORE at its start. In REPLAY the events are those of the log not yet met. -/
structure Signature where
  sign : Nat
  starts : List (Nat × Word)
  rdig : List (Nat × Word)
  mdig : List (Nat × Word)
  events : List LogEvent
  pcore : Nat
  mark : Bool
  deriving DecidableEq, Repr

/-- The states of a stash row (R198). -/
inductive RowState where
  | p | i | v | d
  deriving DecidableEq, Repr

/-- The mapping of a stash row (R198 to R201): line number, guest page, dirty mask, the checked mark of R343. -/
structure Row where
  st : RowState
  line : Nat
  gpa : Nat
  dirty : BitVec 128
  checked : Bool
  deriving DecidableEq, Repr

/-- A valid range-lock entry of a core, 0 to 63 copy, 64 to 71 matrix (R274), with the VF of its group. -/
structure LockEntry where
  core : Nat
  idx : Nat
  vf : Nat
  dlo : Word
  dhi : Word
  slo : Word
  shi : Word
  quad : Nat
  slot : Nat
  tag : Nat
  nosrc : Bool
  dsp : Bool
  ssp : Bool
  /-- core whose stash holds the destination and the source, for stash ranges -/
  dcore : Nat
  score : Nat
  kind : Bool
  deriving DecidableEq, Repr

/-- A unit that a spill moves (R328): a group by its team slot index, a run of 32 stash rows, a tile by quadrant × 8 + number. -/
inductive SpillUnit where
  | group (i : Nat)
  | run (i : Nat)
  | tile (n : Nat)
  deriving DecidableEq, Repr

/-- A team (R155, R156): its claims, format table, barrier arrivals (bit g = group g, bit 16 the sequencer,
for barriers 0 to 17), reform state, sequencer, collator. -/
structure Team where
  key : Nat
  cluster : Nat
  num : Nat
  core : Nat
  ngroups : Nat
  claim : Nat
  stashBase : Nat
  stashRows : Nat
  tiles : List (List Nat)
  mx : List Nat
  table : List (BitVec 32)
  arrive : List (BitVec 17)
  /-- vacated slots: quadrant, slot, team slot index, row offset -/
  vacant : List (Nat × Nat × Nat × Nat)
  filed : List Filed
  drawn : List Drawn
  seqr : Sequencer
  sig : Signature
  enacc : Word
  retired : Nat
  /-- what a spill has moved to the save area (R328): stash rows with their bytes and mappings, tile values and step counts
  by quadrant × 8 + tile, range-lock entries -/
  saved : List (Nat × (List Byte × Row))
  savedTiles : List (Nat × BitVec 40)
  savedSteps : List (Nat × BitVec 32)
  savedLocks : List LockEntry
  /-- the units that are in the save area -/
  out : List SpillUnit
  deriving DecidableEq, Repr

/-- Whether a cluster runs, is halted where it stands, has been spilled, or waits for `bar.g` off its
rectangle (R173, R327 to R329). -/
inductive Residence where
  | resident | halted | saved
  deriving DecidableEq, Repr

/-- A cluster (R155, R170). -/
structure Cluster where
  key : Nat
  vf : Nat
  gslot : Nat
  node : Nat
  launch : Nat
  clustid : Nat
  cls : Nat
  leaf : Nat
  x : Nat
  y : Nat
  w : Nat
  h : Nat
  residence : Residence
  /-- RESUME has been written, or the hardware itself may place it again -/
  resumable : Bool
  atck : Bool
  halting : Bool
  /-- halted by R173 where it waits at a grid barrier -/
  atGrid : Bool
  /-- what stopped it: the code of its PRE event (R396), 6 for cooperative work that a shrink suspended (R179) -/
  cause : Nat
  /-- the ns at which it was told to stop -/
  told : Nat
  started : Nat
  deriving DecidableEq, Repr

/-- The states of a node of a launch (R163). -/
inductive NodeState where
  | waiting | ready | running | done | failed
  deriving DecidableEq, Repr

/-- A spine copy command (R277 to R280): chunks by number not yet performed, the chunks running on engines,
and the fault it is parked on. -/
structure SpineCopy where
  todo : List Nat
  running : List (Nat × Nat)
  total : Nat
  parked : Option Nat
  ready : Nat
  deriving DecidableEq, Repr

/-- The run of one node within a launch: predecessors done, the next CLUSTID to place, clusters retired. -/
structure NodeRun where
  idx : Nat
  state : NodeState
  deps : Nat
  placed : Nat
  retired : Nat
  life : Nat
  copy : Option SpineCopy
  /-- the fault that an event or notify node's own access waits on (R167) -/
  wait : Option Nat
  deriving DecidableEq, Repr

/-- A launch of a graph slot (R165): its count, its nodes, its failure (code, node, TCAUSE image), and the
fault its own access waits on (R167). -/
structure Launch where
  count : Nat
  nodes : List NodeRun
  failure : Option (Nat × Nat × Nat)
  waiting : Option Nat
  /-- digests of its signatures, RDIG and MDIG, by cluster, team, signature and group (R402) -/
  colophon : List (Nat × (Word × Word))
  noRecord : Bool
  deriving DecidableEq, Repr

/-- A graph slot of a VF (R160, R165): its node records as 32 words each. -/
structure GraphSlot where
  nodes : List (List Word)
  compl : Word
  count : Nat
  done : Nat
  queue : List Word
  running : Option Launch
  /-- patch list of the launch being started -/
  pl : Word
  deriving DecidableEq, Repr

/-- A queued node of a hardware queue (R168). -/
structure QItem where
  gslot : Nat
  node : Nat
  time : Nat
  deriving DecidableEq, Repr

/-- A fault record waiting to be posted to a ring (R313, R314). -/
structure RingPost where
  bytes : List Byte
  group : Option Nat
  deriving DecidableEq, Repr

/-- A fault or debug ring (R312, R313). -/
structure Ring where
  base : Word
  head : Word
  tail : Word
  nextFid : Nat
  queue : List RingPost
  released : List Nat
  deriving DecidableEq, Repr

/-- A fabric mailbox of a VF (R375); `v` is held and enabled by this VF. -/
structure FabMbox where
  base : Word
  /-- physical address of the ring, found when the mailbox was enabled -/
  pa : Nat
  leaf : Nat
  err : Bool
  v : Bool
  arr : BitVec 32
  head : Nat
  count : Nat
  deriving DecidableEq, Repr

/-- A virtual function: its window registers and graphs (R159 to R168, R217, R312, R326, R375, R377, R385,
R426, R428). -/
structure Vf where
  num : Nat
  s1root : Word
  tlbi : Option Word
  gstat : Word
  stvec : Word
  ring : Ring
  slots : Sparse GraphSlot
  queues : List (List QItem)
  /-- GLOAD writes that wait for a replay (R167): value, and fault number, 2^32 more for the host ring -/
  gloadWait : List (Word × Nat)
  mboxes : Sparse FabMbox
  fnack : Word
  frcopy : Word
  ebase : Word
  cnt : List Word
  csel : List Word
  quotaTimes : List Nat
  deriving DecidableEq, Repr

/-- The staged registers of a partition window (R321, R324, R325, R398, R421, R427). -/
structure Staged where
  pcore : List Word
  pres : List Word
  pquota : Word
  pway : Word
  pwt : Word
  pnotice : Word
  pstage : Word
  vfid : List Word
  vfrate : List Word
  vfsave : List Word
  vfsoft : List Word
  qrbase : Word
  qrcfg : Word
  smpctl : Word
  ewt0 : Word
  ewt1 : Word
  ewt2 : Word
  deriving DecidableEq, Repr

/-- The debug registers of a partition window (R415). -/
structure DebugRegs where
  token : Option Word
  unl : Bool
  ctl : Word
  ring : Ring
  sel : Word
  ibp : List Word
  wplo : List Word
  wphi : List Word
  flt : Word
  failTimes : List Nat
  deriving DecidableEq, Repr

/-- One queue's record of an eviction (R339, R341). -/
structure EvictQueue where
  vfslot : Nat
  vf : Nat
  cls : Nat
  decision : Nat
  switched : Bool
  disc : Bool
  /-- ns at which the queue was first vacant -/
  vacantAt : Option Nat
  dirty0 : Nat
  /-- ns from the posting to the projected finish; none for no finish in sight -/
  finish0 : Option Nat
  deriving DecidableEq, Repr

/-- An eviction in force (R338 to R341). -/
structure Evict where
  vfm : BitVec 16
  t0 : Nat
  limit : Nat
  enough : Bool
  dirtyCap : List Nat
  queues : List EvictQueue
  deriving DecidableEq, Repr

/-- A record of the quire ring waiting for room (R401): its words and the collator it comes from, the core's or 256 for the spine's. -/
structure LogPost where
  words : List Word
  core : Nat
  deriving DecidableEq, Repr

/-- What the save areas and the graph memory of a partition hold at an anchor (R400): its number, its clusters with
their teams, groups and bins, and its virtual functions with their graphs, launches and queues. -/
structure Anchor where
  num : Nat
  clusters : List Cluster
  teams : List Team
  groups : List Group
  bins : List Bin
  vfs : List Vf
  deriving DecidableEq, Repr

/-- The log state of a partition (R392, R397 to R407): registers, epoch, spine collator, records held back,
and the signatures of a replay by team. -/
structure LogState where
  qrhead : Word
  qrold : Word
  rpctl : Word
  rpbrk : List Word
  rpstat : Word
  rrstat : Word
  epoch : BitVec 8
  spine : List LogEvent
  spineSign : Sparse Nat
  pending : List LogPost
  dropping : Bool
  anchorAt : Option (Nat × Word)
  anchorWait : Option Nat
  anchors : List Anchor
  gapCount : Nat
  /-- the open gap (R400, R401): records dropped, PTIME at its start, and the value of QRHEAD at its record once that is written -/
  dropped : Nat
  gapFrom : Nat
  gapPos : Option Nat
  /-- the anchor that a replay is loading -/
  loading : Option Nat
  replayLog : List (List Word)
  /-- the code of R405 of what ends the log early: a gap, or a record whose MAC fails -/
  replayStop : Nat
  /-- the replay has met its breakpoint, and its clusters are still stopping -/
  brkTaken : Bool
  breaking : Bool
  /-- the ns of the last word retired or access performed in a replay -/
  progressAt : Nat
  deriving DecidableEq, Repr

/-- A partition (R321 to R343). -/
structure Partition where
  num : Nat
  mode : BitVec 32
  stagedRegs : Staged
  force : Staged
  served : Nat
  /-- an APPLY that waits for halted state to be spilled (R322) -/
  applying : Option Staged
  /-- energy weights of an APPLY made while clusters were resident (R427) -/
  weights : Option (Word × Word × Word)
  ps2root : Word
  ps2pend : Option Word
  pdlrep : Word
  cmdst : Nat
  rbusy : Bool
  stateCode : Nat
  hlt : BitVec 16
  evf : BitVec 16
  /-- VF slots halted and not resumed since (R323, R334) -/
  held : BitVec 16
  /-- VF slots of a HALT in progress (R323) -/
  halts : BitVec 16
  qfcnt : Nat
  /-- notice period for deadlines while D is above the new CAP (R322) -/
  capNp : Nat
  host : Ring
  dbg : DebugRegs
  evict : Option Evict
  log : LogState
  trbase : Word
  trhead : Word
  trlost : Nat
  cecnt : Word
  keyed : Bool
  /-- memory-class instructions counted on each core since the last one sampled (R421) -/
  sampled : Sparse Nat
  deriving DecidableEq, Repr

/-- A line of a slice (R204, R208, R209) with the bytes it held when last written back. -/
structure SliceLine where
  leaf : Nat
  slice : Nat
  set : Nat
  way : Nat
  line : Nat
  vf : Nat
  part : Nat
  uc : BitVec 4
  cnt : Bool
  dz : Bool
  dirty : BitVec 128
  used : Nat
  back : List Byte
  deriving DecidableEq, Repr

/-- A directory state (R212, R370). -/
inductive DirState where
  | none | shared | modified
  deriving DecidableEq, Repr

/-- A line of the L3 (R212), with the VF whose request brought it and, where it is dirty, the bytes that memory has (R318). -/
structure L3Line where
  line : Nat
  vf : Nat
  dirty : Bool
  used : Nat
  back : List Byte
  deriving DecidableEq, Repr

/-- An entry of the L3 directory (R212, R370): one state per leaf and one for the companion processor. -/
structure DirLine where
  line : Nat
  used : Nat
  leaves : List DirState
  host : DirState
  deriving DecidableEq, Repr

/-- A combined translation held by a core or leaf buffer (R219); `core` none names the leaf buffer. It covers the
2^`bits` bytes from virtual address `va`; `e1` and `e2` are the leaf entries of the two stages and their levels. -/
structure TlbEntry where
  leaf : Nat
  core : Option Nat
  vf : Nat
  va : Nat
  bits : Nat
  level1 : Nat
  e1 : Word
  level2 : Nat
  e2 : Word
  deriving DecidableEq, Repr

/-- A table entry held by a walk cache (R219): stage 1 of a VF or stage 2 of a partition, levels 0 to 2. -/
structure WalkEntry where
  stage2 : Bool
  owner : Nat
  level : Nat
  key : Nat
  e : Word
  deriving DecidableEq, Repr

/-- Who made an access, for the scope and conflict checkers (R220, R232, R238). -/
structure Agent where
  /-- 0 group, 1 engine command, 2 sequencer, 3 fold or scheduler, 4 companion processor, 5 other device -/
  kind : Nat
  vf : Nat
  gslot : Nat
  launch : Nat
  node : Nat
  cluster : Nat
  team : Nat
  grp : Nat
  quad : Nat
  core : Nat
  slot : Nat
  lcore : Nat
  /-- key of the group, or of the group that issued the command -/
  key : Nat
  deriving DecidableEq, Repr

/-- A scope record (R232). -/
structure ScopeRec where
  agent : Agent
  sco : BitVec 3
  deriving DecidableEq, Repr

/-- An order record (R392). -/
structure OrderRec where
  epoch : BitVec 8
  seq : BitVec 24
  x : Bool
  rc : Nat
  w : Nat
  deriving DecidableEq, Repr

/-- One access kept for the conflict check (R239): its agent, counts, kind and position in program order. -/
structure ConfAccess where
  agent : Agent
  counts : Counts
  isWrite : Bool
  isRed : Bool
  isAtom : Bool
  /-- serial of the accessing instruction in its group, and of the command's issue and observation -/
  inst : Nat
  cmd : Nat
  deriving DecidableEq, Repr

/-- The last write and the reads since, of one byte or other location (R239, R299, R383). -/
structure ConfRec where
  accesses : List ConfAccess
  deriving DecidableEq, Repr

/-- A staging slot (R235, R275): a contribution of one logical core to one word or doubleword. -/
structure Slot where
  vf : Nat
  gslot : Nat
  launch : Nat
  node : Nat
  addr : Nat
  wide : Bool
  lcore : Nat
  op : RmwOp
  value : Word
  from1 : ConfAccess
  /-- the slice (leaf × 96 + slice) or L3 bank (384 + bank) that holds it -/
  place : Nat
  spilled : Bool
  deriving DecidableEq, Repr

/-- One end of a copy: a virtual address, or a stash byte of a core with the address as given (R267). -/
structure CopyEnd where
  isStash : Bool
  addr : Word
  core : Nat
  base : Nat
  ystr : Int
  zstr : Int
  deriving DecidableEq, Repr

/-- A core engine command in flight (R265 to R276): translations found at its issue. -/
structure CopyCmd where
  group : Nat
  vf : Nat
  core : Nat
  slot : Nat
  tag : Nat
  isComb : Bool
  dst : CopyEnd
  src : CopyEnd
  xlen : Nat
  ycnt : Nat
  zcnt : Nat
  /-- bytes of seq moved, and in how many pieces -/
  done : Nat
  pieces : Nat
  sco : BitVec 3
  lockIdx : Nat
  cancelled : Bool
  pages : List (Nat × Nat × Bool)
  agent : Agent
  /-- LTIME of the issuing word, the number of the group's first access after it, and LTIME of a `cpy.cancel` of it -/
  ltime : Word
  after : Nat
  cancelAt : Word
  serial : Nat
  deriving DecidableEq, Repr

/-- A bundle of a die link: true is direction R (R360). -/
structure LinkShare where
  part : Nat
  base : Nat
  n : Nat
  turns : Nat
  target : Nat
  deriving DecidableEq, Repr

/-- A die link (R360 to R365): bundle directions, shares, the bundles still to turn, whether shares are due. -/
structure DieLink where
  dirs : List Bool
  shares : List LinkShare
  /-- the ratio that a partition's queued `dlink.turn` asks for, by partition (R363) -/
  queued : Sparse Nat
  turning : List Nat
  /-- the ns at which the first bundle of the list takes flits again -/
  darkEnd : Nat
  due : Bool
  deriving DecidableEq, Repr

/-- A message waiting in an ordered stream of the fabric (R206, R377, R380). -/
structure FabMsg where
  msg : Msg
  cls : Nat
  /-- VF that sent it from this device -/
  vf : Nat
  /-- its packet number in its stream, modulo 2^16 (R206), and the port it leaves by (R373) -/
  num : Nat := 0
  port : Option Nat := none
  deriving DecidableEq, Repr

/-- A chunk of a remote copy on its way to another device (R385): its command, its stream, and its bytes by virtual address. -/
structure CopyPacket where
  dev : Nat
  cls : Nat
  vf : Nat
  gslot : Nat
  node : Nat
  chunk : Nat
  num : Nat
  port : Option Nat
  bytes : List (Nat × List Byte)
  deriving DecidableEq, Repr

/-- What this device answers to another one: a NACK for a message (R377), or the acknowledgement or refusal of a remote copy's
writes for a VF (R385). -/
inductive FabReply where
  | nack (dev vf part mbx reason : Nat)
  | copied (dev vf : Nat) (ok : Bool)
  deriving DecidableEq, Repr

/-- The fabric of the device (R373 to R386): the ports, the route table as written, the next message number of each stream sent and
received by device × 4 + class, messages sent and not known to be accepted, messages that wait in a reorder buffer, chunks sent and not
acknowledged, and what has been answered to other devices. -/
structure Fabric where
  portsUp : List Bool
  routes : Sparse Word
  seqOut : Sparse Nat
  seqIn : Sparse Nat
  sent : List FabMsg
  held : List FabMsg
  chunks : List CopyPacket
  replies : List FabReply
  deriving DecidableEq, Repr

/-- The Wiuno link (R370 to R372). -/
structure Wiuno where
  up : Bool
  retries : Nat
  training : Bool
  unacked : Nat
  deriving DecidableEq, Repr

/-- The attestation responder (R431): how far version, capabilities and algorithms are negotiated, and the last
response code with its payload. -/
structure Spdm where
  phase : Nat
  response : Nat
  payload : List Byte
  deriving DecidableEq, Repr

/-- The device block and the security controller (R429 to R434). -/
structure Device where
  step : Nat
  err : Nat
  loadImg : Option Word
  pwrcap : Word
  alarms : BitVec 32
  sources : BitVec 8
  lastPart : Nat
  level : Nat
  trsel : Word
  devcfg : Word
  keys : Bool
  off : Bool
  dbgUnlocked : Bool
  dbgFails : List Nat
  mhz : Nat
  spdm : Spdm
  deriving DecidableEq, Repr

/-- The PC sampler of a quadrant (R422): the slot it took last and the clock of its last sample. -/
structure Sampler where
  slot : Nat
  time : Nat
  deriving DecidableEq, Repr

/-- A sampled memory instruction that has not yet reported (R423). -/
structure Sample where
  key : Nat
  vf : Nat
  pc : Word
  ltime : Word
  mask : Lane
  sectors : Nat
  replays : Nat
  lane : Nat
  issued : Nat
  deriving DecidableEq, Repr

/-- What the part sends to the companion processor (R313, R341): the ring that was posted to, or the partition
whose eviction report was written. -/
inductive Irq where
  | ring (r : RingRef)
  | evicted (part : Nat)
  deriving DecidableEq, Repr

/-- A group as it stood before an access whose step-5 check is still to be made (R23, R243). -/
structure Shadow where
  key : Nat
  inst : Nat
  group : Group
  deriving DecidableEq, Repr

/-- Whose word is issued by an instruction word: a group's, or a team's matrix sequencer. -/
inductive Cur where
  | none
  | group (key : Nat)
  | seqr (team : Nat)
  deriving DecidableEq, Repr

/-- The next thing to happen, as plain data: an event, the issue of a group's next word or of a sequencer's
fetched word, an uncorrectable error that a group's next word meets (code and detail of cause group 20, R316), the
next piece of a core copy, or the passing of clocks. -/
inductive Agenda where
  | event (i : Instr)
  | issue (key : Nat)
  | error (key code detail : Nat)
  | stream (team : Nat)
  | piece (group tag : Nat)
  | tick (n : Nat)
  deriving DecidableEq, Repr

/-- The state of the part. -/
structure State where
  clock : Nat
  ns : Nat
  /-- thousandths of a core clock period carried towards the next ns, below the clock rate in MHz -/
  frac : Nat
  fresh : Nat
  nextKey : Nat
  agenda : List Agenda
  cur : Cur
  mem : List Host.Cell
  stash : List Host.Cell
  rows : Sparse Row
  tileVals : Sparse (BitVec 40)
  tileSteps : Sparse (BitVec 32)
  slices : List SliceLine
  l3 : List L3Line
  dir : List DirLine
  /-- bytes charged and not yet refilled, of the budget of each unit, VF and class (R332) -/
  spent : Sparse Nat
  /-- requests that have entered the on-leaf networks (R203, R205) -/
  sends : Nat
  tlb : List TlbEntry
  walks : List WalkEntry
  scopes : Sparse ScopeRec
  orders : Sparse OrderRec
  conflicts : Sparse ConfRec
  slots : List Slot
  locks : List LockEntry
  copies : List CopyCmd
  groups : List Group
  shadows : List Shadow
  teams : List Team
  clusters : List Cluster
  bins : List Bin
  vfs : List Vf
  parts : List Partition
  links : List DieLink
  /-- turn windows begun since power-up (R363) -/
  window : Nat
  fabric : Fabric
  /-- the next packet number of each ordered stream, modulo 2^16 (R206) -/
  streams : Sparse Nat
  wiuno : Wiuno
  device : Device
  irqs : List Irq
  trace : List (List Word)
  samplers : Sparse Sampler
  samples : List Sample
  deriving DecidableEq, Repr

/-- Why the machine stops with a fault. -/
inductive Fault where
  /-- A group-stream word is given to `exec` with no current group. Raised by every group-stream word; safe:
  the spec executes a word only in a group (R14). -/
  | noGroup
  /-- A stream word is given to `exec` with no current sequencer. Raised by the five stream words; safe: the
  spec executes them only in a running matrix stream (R75, R286). -/
  | noSequencer
  deriving DecidableEq, Repr

/-- Why an instruction has no meaning here. -/
inductive Refusal where
  /-- The instruction is not modelled yet. Raised by the dispatcher only; safe: nothing can be proved of it. -/
  | notModelled (mnemonic : String)
  deriving DecidableEq, Repr

/-- A disabled ring at reset (R312). -/
def Ring.reset : Ring := { base := 0, head := 0, tail := 0, nextFid := 0, queue := [], released := [] }

/-- The registers of VF `n` at reset; DESIGN CHOICE zero where the spec gives no value (log entry 2). -/
def Vf.reset (n : Nat) : Vf :=
  { num := n, s1root := 0, tlbi := none, gstat := 0, stvec := 0, ring := Ring.reset, slots := [],
    queues := [[], [], [], []], gloadWait := [], mboxes := [], fnack := 0, frcopy := 0, ebase := 0,
    cnt := List.replicate 8 0, csel := List.replicate 8 0, quotaTimes := [] }

/-- The staged registers at reset (R321, R325, R398, R421, R427). -/
def Staged.reset : Staged :=
  { pcore := List.replicate 4 0, pres := List.replicate 4 0, pquota := 0, pway := 0, pwt := 0, pnotice := 1000,
    pstage := 0, vfid := List.replicate 16 0, vfrate := List.replicate 16 0xFFFFFFFFFFFFFFFF,
    vfsave := List.replicate 16 0, vfsoft := List.replicate 16 3072, qrbase := 4, qrcfg := 0x1400, smpctl := 0,
    ewt0 := 0x000A0008001E000C, ewt1 := 0x0006003C002D0028, ewt2 := 0x0000096000140002 }

/-- The debug registers at reset; no token has been written (R415). -/
def DebugRegs.reset : DebugRegs :=
  { token := none, unl := false, ctl := 0, ring := Ring.reset, sel := 0, ibp := [0, 0], wplo := [0, 0],
    wphi := [0, 0], flt := 0, failTimes := [] }

/-- The log registers at reset: LOG is OFF and nothing is recorded (R3, R398, R403). -/
def LogState.reset : LogState :=
  { qrhead := 0, qrold := 0, rpctl := 0, rpbrk := [0, 0, 0], rpstat := 0, rrstat := 0, epoch := 0, spine := [],
    spineSign := [], pending := [], dropping := false, anchorAt := none, anchorWait := none, anchors := [],
    gapCount := 0, dropped := 0, gapFrom := 0, gapPos := none, loading := none, replayLog := [], replayStop := 0,
    brkTaken := false, breaking := false, progressAt := 0 }

/-- Partition `n` at reset: empty (R323, R433 step 7). -/
def Partition.reset (n : Nat) : Partition :=
  { num := n, mode := 0, stagedRegs := Staged.reset, force := Staged.reset, served := 0, applying := none, weights := none, ps2root := 0,
    ps2pend := none, pdlrep := 0, cmdst := 0, rbusy := false, stateCode := 0, hlt := 0, evf := 0, held := 0, halts := 0, qfcnt := 0,
    capNp := 1000, host := Ring.reset, dbg := DebugRegs.reset, evict := none, log := LogState.reset,
    trbase := 0, trhead := 0, trlost := 0, cecnt := 0, keyed := false, sampled := [] }

/-- A die link at reset: ratio 4 for one partition, bundles 0 to 31 in direction R (R433 step 5), no share. -/
def DieLink.reset : DieLink :=
  { dirs := List.replicate 32 true ++ List.replicate 32 false, shares := [], queued := [], turning := [], darkEnd := 0, due := false }

/-- The device block at reset (R432, R433): power not yet good, step 0. -/
def Device.reset : Device :=
  { step := 0, err := 0, loadImg := none, pwrcap := 2, alarms := 0, sources := 0, lastPart := 0, level := 0,
    trsel := 0, devcfg := 0, keys := false, off := false, dbgUnlocked := false, dbgFails := [], mhz := 1500,
    spdm := { phase := 0, response := 0, payload := [] } }

/-- The part right after power-up reset: no work, every partition empty, memory with nothing listed. -/
def State.reset : State :=
  { clock := 0, ns := 0, frac := 0, fresh := 0, nextKey := 1, agenda := [], cur := .none, mem := [], stash := [],
    rows := [], tileVals := [], tileSteps := [], slices := [], l3 := [], dir := [], spent := [], sends := 0, tlb := [], walks := [], scopes := [], orders := [],
    conflicts := [], slots := [], locks := [], copies := [], groups := [], shadows := [], teams := [],
    clusters := [], bins := [], vfs := (List.range 192).map Vf.reset,
    parts := (List.range 12).map Partition.reset, links := List.replicate 4 DieLink.reset, window := 0,
    fabric := { portsUp := List.replicate 128 false, routes := [], seqOut := [], seqIn := [], sent := [], held := [], chunks := [], replies := [] }, streams := [],
    wiuno := { up := false, retries := 0, training := false, unacked := 0 }, device := Device.reset, irqs := [],
    trace := [], samplers := [], samples := [] }

end Sys2Proof.Machine
end

