-- ==== Sys2Proof/Machine/Ops.lean ====
section
/-! DEFINITION. The named operations over sparse maps, memory bytes, registers and the state's tables; raising,
entering and returning from traps (R302 to R311, R319); issuing and retiring a word. -/
namespace Sys2Proof.Machine

-- ## sparse maps and bytes

/-- Read of a sparse map whose unlisted keys hold `d`. -/
def Sparse.get {α : Type} (d : α) : Sparse α → Nat → α
  | [], _ => d
  | (k', v) :: r, k => if k = k' then v else Sparse.get d r k

/-- A sparse map with an entry put before the first greater key. -/
def Sparse.put {α : Type} : Sparse α → Nat → α → Sparse α
  | [], k, v => [(k, v)]
  | (k', v') :: r, k, v => if k < k' then (k, v) :: (k', v') :: r else (k', v') :: Sparse.put r k v

/-- Write of a sparse map: what the key held goes, and a value that is not the default is put in its place, so that a canonical map
stays canonical and any map reads as written. -/
def Sparse.set {α : Type} [DecidableEq α] (d : α) (m : Sparse α) (k : Nat) (v : α) : Sparse α :=
  let rest := m.filter fun e => e.1 != k
  if v = d then rest else Sparse.put rest k v

/-- The canonical form: keys strictly rising and none with the default value. -/
def Sparse.wf {α : Type} [DecidableEq α] (d : α) : Sparse α → Bool
  | [] => true
  | [(_, v)] => decide (v ≠ d)
  | (k, v) :: (k', v') :: r => decide (k < k') && decide (v ≠ d) && Sparse.wf d ((k', v') :: r)

/-- What an unlisted byte of memory or stash reads as: HBM is zeroed at bring-up (R433); zero elsewhere is a
DESIGN CHOICE (log entry 1). -/
def memDefault : Byte := 0

/-- The canonical form of memory. -/
def Memory.wf (m : List Host.Cell) : Bool := Sparse.wf memDefault m

/-- One byte of memory. -/
def Memory.read (m : List Host.Cell) (a : Nat) : Byte := Sparse.get memDefault m a

/-- Write of one byte. -/
def Memory.write (m : List Host.Cell) (a : Nat) (b : Byte) : List Host.Cell := Sparse.set memDefault m a b

/-- `n` bytes from address `a` upwards. -/
def Memory.readN (m : List Host.Cell) (a : Nat) : Nat → List Byte
  | 0 => []
  | n + 1 => Memory.read m a :: Memory.readN m (a + 1) n

/-- Writes bytes at rising addresses. -/
def Memory.writeN (m : List Host.Cell) (a : Nat) : List Byte → List Host.Cell
  | [] => m
  | b :: bs => Memory.writeN (Memory.write m a b) (a + 1) bs

/-- Little-endian number of a byte list (R11). -/
def leNat : List Byte → Nat
  | [] => 0
  | b :: bs => b.toNat + 256 * leNat bs

/-- The `n` low bytes of a number, little-endian (R11). -/
def leBytes : Nat → Nat → List Byte
  | 0, _ => []
  | n + 1, x => BitVec.ofNat 8 x :: leBytes n (x / 256)

/-- An aligned or unaligned 64-bit little-endian word of memory. -/
def Memory.read64 (m : List Host.Cell) (a : Nat) : Word := BitVec.ofNat 64 (leNat (Memory.readN m a 8))

/-- Write of a 64-bit little-endian word. -/
def Memory.write64 (m : List Host.Cell) (a : Nat) (w : Word) : List Host.Cell :=
  Memory.writeN m a (leBytes 8 w.toNat)

/-- Element `i` of a list, or a given value beyond its end. -/
def nth {α : Type} (d : α) : List α → Nat → α
  | [], _ => d
  | a :: _, 0 => a
  | _ :: r, n + 1 => nth d r n

/-- A list with element `i` replaced; unchanged when `i` is beyond its end. -/
def putNth {α : Type} : List α → Nat → α → List α
  | [], _, _ => []
  | _ :: r, 0, v => v :: r
  | a :: r, n + 1, v => a :: putNth r n v

/-- The set bit positions below `n` of a number, ascending. -/
def bitsOf (x n : Nat) : List Nat := (List.range n).filter fun i => x.testBit i

/-- Number of one bits below bit `n`. -/
def popcount (x n : Nat) : Nat := (bitsOf x n).length

/-- A field of a number: `n` bits from bit `i`. -/
def field (x i n : Nat) : Nat := x >>> i % 2 ^ n

-- ## tables of the state

def State.group? (s : State) (key : Nat) : Option Group := s.groups.find? fun g => g.id.key == key

def State.setGroup (s : State) (g : Group) : State :=
  { s with groups := s.groups.map fun h => if h.id.key = g.id.key then g else h }

def State.dropGroup (s : State) (key : Nat) : State :=
  { s with groups := s.groups.filter fun h => h.id.key != key,
           shadows := s.shadows.filter fun h => h.key != key }

def State.team? (s : State) (key : Nat) : Option Team := s.teams.find? fun t => t.key == key

def State.setTeam (s : State) (t : Team) : State :=
  { s with teams := s.teams.map fun u => if u.key = t.key then t else u }

def State.cluster? (s : State) (key : Nat) : Option Cluster := s.clusters.find? fun c => c.key == key

def State.setCluster (s : State) (c : Cluster) : State :=
  { s with clusters := s.clusters.map fun d => if d.key = c.key then c else d }

def State.vf (s : State) (n : Nat) : Vf := (s.vfs.find? fun v => v.num == n).getD (Vf.reset n)

def State.setVf (s : State) (v : Vf) : State := { s with vfs := s.vfs.map fun u => if u.num = v.num then v else u }

def State.part (s : State) (n : Nat) : Partition := (s.parts.find? fun p => p.num == n).getD (Partition.reset n)

def State.setPart (s : State) (p : Partition) : State := { s with parts := s.parts.map fun q => if q.num = p.num then p else q }

/-- The VF slot of a partition that holds VF `vf`, if any (R325). -/
def Partition.slotOf (p : Partition) (vf : Nat) : Option Nat :=
  p.force.vfid.findIdx? fun w => w.getLsbD 63 && (w.extractLsb' 0 8).toNat == vf

/-- The partition of a VF: the one whose VF block names it with V = 1 (R325). -/
def State.partOf (s : State) (vf : Nat) : Option Partition := (s.parts.find? fun p => (p.slotOf vf).isSome).map fun p => s.part p.num

/-- The mode word a VF's programs read (R3); zero for a VF of no partition. -/
def State.modeOf (s : State) (vf : Nat) : BitVec 32 := ((s.partOf vf).map (·.mode)).getD 0

/-- MODE.DET (R3). -/
def State.det (s : State) (vf : Nat) : Bool := (s.modeOf vf).getLsbD 0

/-- MODE.ACCW, which reads 0 while DET = 1 (R4). -/
def State.wide (s : State) (vf : Nat) : Bool := (s.modeOf vf).getLsbD 1 && !s.det vf

/-- MODE.LOG (R3): 0 OFF, 1 RECORD, 2 REPLAY. -/
def State.log (s : State) (vf : Nat) : Nat := ((s.modeOf vf).extractLsb' 2 2).toNat

/-- MODE.RAWCLK (R3). -/
def State.rawclk (s : State) (vf : Nat) : Bool := (s.modeOf vf).getLsbD 5

/-- MODE.DLB (R3). -/
def State.dlb (s : State) (vf : Nat) : Bool := (s.modeOf vf).getLsbD 4

/-- A timing read is refused: DET = 1 and RAWCLK = 0 (R7, R18). -/
def State.timingRefused (s : State) (vf : Nat) : Bool := s.det vf && !s.rawclk vf

/-- A free value and the state with the running number advanced. -/
def State.free (s : State) : Nat × State := (Config.freeNat s.fresh, { s with fresh := s.fresh + 1 })

def State.teamGroups (s : State) (team : Nat) : List Group := s.groups.filter fun g => g.id.team == team

def State.clusterTeams (s : State) (cl : Nat) : List Team := s.teams.filter fun t => t.cluster == cl

/-- Time passes by one clock: CLOCK, and device time at the current clock rate (R17, R321, R434). -/
def State.tick (s : State) : State :=
  let q := s.frac + 1000
  { s with clock := s.clock + 1, ns := s.ns + q / s.device.mhz, frac := q % s.device.mhz }

-- ## registers

/-- All lanes. -/
def allLanes : List Nat := List.range Config.lanes

def Group.getV (g : Group) (n l : Nat) : Lane := g.regs.v.get 0 (32 * n + l)

def Group.getX (g : Group) (k l : Nat) : Lane := g.regs.x.get 0 (32 * k + l)

/-- p7 reads all ones (R15). -/
def Group.getP (g : Group) (n : Nat) : Lane := if n = 7 then 0xFFFFFFFF else g.regs.p.get 0 n

/-- The scale bytes of z0 to z63; every byte is 0x7F at launch (R14). -/
def zDefault : BitVec 128 := 0x7F7F7F7F7F7F7F7F7F7F7F7F7F7F7F7F

def Group.getZ (g : Group) (n : Nat) : BitVec 128 := g.regs.z.get zDefault n

def Group.getS (g : Group) (n : Nat) : Word := g.regs.s.get 0 n

/-- c7 reads 1 (R15). -/
def Group.getC (g : Group) (n : Nat) : Bool := n == 7 || g.regs.c.getLsbD n

/-- A latch whose register is written loses its value (R22); an indirect latch is dropped at any write. -/
def Latch.keep (o : Option Latch) (n : Nat) : Option Latch :=
  match o with
  | some h => if h.reg = n ∨ 768 ≤ h.reg then none else some h
  | none => none

def Group.setV (g : Group) (n l : Nat) (x : Lane) : Group :=
  { g with regs := { g.regs with v := g.regs.v.set 0 (32 * n + l) x },
           latchA := Latch.keep g.latchA n, latchB := Latch.keep g.latchB n }

/-- A write to xk drops the latches whose register field is 768 + k (R139). -/
def Group.setX (g : Group) (k l : Nat) (x : Lane) : Group :=
  let drop (o : Option Latch) : Option Latch := if (o.map (·.reg)) = some (768 + k) then none else o
  { g with regs := { g.regs with x := g.regs.x.set 0 (32 * k + l) (x &&& 0x3FFFFFFF) },
           latchA := drop g.latchA, latchB := drop g.latchB }

/-- A write to p7 is discarded (R15). -/
def Group.setP (g : Group) (n : Nat) (x : Lane) : Group :=
  if n = 7 then g else { g with regs := { g.regs with p := g.regs.p.set 0 n x } }

def Group.setZ (g : Group) (n : Nat) (x : BitVec 128) : Group :=
  { g with regs := { g.regs with z := g.regs.z.set zDefault n x } }

def Group.setS (g : Group) (n : Nat) (x : Word) : Group :=
  { g with regs := { g.regs with s := g.regs.s.set 0 n x } }

/-- A write to c7 is discarded (R15). -/
def Group.setC (g : Group) (n : Nat) (b : Bool) : Group :=
  if n = 7 then g
  else { g with regs := { g.regs with
    c := if b then g.regs.c ||| (1#8 <<< n) else g.regs.c &&& ~~~(1#8 <<< n) } }

def Group.dropLatches (g : Group) : Group := { g with latchA := none, latchB := none }

/-- A write of k0 or k1 drops both latches (R22, R182). -/
def Group.setK (g : Group) (n : Nat) (x : BitVec 16) : Group :=
  { g.dropLatches with regs := if n = 0 then { g.regs with k0 := x } else { g.regs with k1 := x } }

/-- FFLAGS only gains bits by arithmetic (R16). -/
def Group.orFlags (g : Group) (f : BitVec 5) : Group := { g with fflags := g.fflags ||| f }

/-- Active lanes under a predicate: live, in M, and in the predicate (R131). -/
def Group.active (g : Group) (pred : BitVec 3) : Lane := g.live &&& g.mask &&& g.getP pred.toNat

/-- The lanes of a mask, ascending. -/
def lanesOf (m : Lane) : List Nat := allLanes.filter fun l => m.getLsbD l

-- ## what is in flight

def OpKind.isLoad : OpKind → Bool
  | .load | .rmw _ | .mboxGet _ | .sload _ | .frecv _ _ => true
  | .store | .red _ | .mboxPut _ | .fsend _ => false

/-- The registers and lanes that an operation returns values to: v, s and c numbers as keys below 1000, from 1000, from 2000;
lane 0 for s and c. -/
def MemOp.targets (o : MemOp) : List (Nat × Nat) :=
  match o.kind with
  | .load | .rmw _ => o.parts.flatMap fun p => (List.range ((p.size + 3) / 4)).map fun j => (p.reg + j, p.lane)
  | .mboxGet c | .frecv c _ => (o.parts.map fun p => (p.reg, p.lane)) ++ [(2000 + c, 0)]
  | .mboxPut c => [(2000 + c, 0)]
  | .sload sd => [(1000 + sd, 0)]
  | .store | .red _ | .fsend _ => []

/-- The operation's value still goes to a register of a lane: no younger word has written it (R23). -/
def MemOp.keeps (o : MemOp) (key lane : Nat) : Bool := !o.lost.contains (key, lane)

/-- The registers a pending operation will still write in some lane. -/
def MemOp.dests (o : MemOp) : List Nat := (o.targets.filter fun t => o.keeps t.1 t.2).map (·.1)

/-- The registers and lanes that a pending operation will still write. -/
def MemOp.kept (o : MemOp) : List (Nat × Nat) := o.targets.filter fun t => o.keeps t.1 t.2

/-- A drain that consumes nothing has waited for the group's accesses: a handler entry, a debug stop or a pre-emption (R317). -/
def Group.drainedFails (g : Group) : Group := { g with failed := g.failed.map fun f => { f with drained := true } }

/-- The group stops in a pre-emption: the latches are invalid, and what failed before keeps waiting for its consumer (R22, R317). -/
def Group.preempted (g : Group) : Group := { g.drainedFails with latchA := none, latchB := none }

/-- A younger word of the group has written registers, by key and lane: the older operations lose them (R23). -/
def Group.supersede (g : Group) (first : Nat) (ks : List (Nat × Nat)) : Group :=
  { g with ops := g.ops.map fun o =>
      if o.id < first then { o with lost := o.lost ++ o.targets.filter fun t => ks.contains t && o.keeps t.1 t.2 } else o }

/-- A waiting `vput` has its slot: what stands behind it in the forward queue moves up (R28). -/
def Group.movedUp (g : Group) : Group :=
  { g with fqHeld := g.fqHeld.drop 1, ops := g.ops.map fun o => { o with behind := o.behind - 1 } }

/-- Instructions with outstanding operations of one kind, each counted once (R150). -/
def countInsts (ops : List MemOp) (p : MemOp → Bool) : Nat :=
  ((ops.filter p).map (·.inst)).eraseDups.length

def Group.ldcnt (g : Group) : Nat := countInsts g.ops fun o => o.kind.isLoad

def Group.stcnt (g : Group) : Nat := countInsts g.ops fun o => !o.kind.isLoad

/-- CPCNT counts BUSY tags (R265). -/
def Group.cpcnt (g : Group) : Nat := popcount g.tagBusy.toNat 64

/-- MXCNT counts the matrix operations of the team in flight (R286). -/
def State.mxcnt (s : State) (g : Group) : Nat :=
  ((s.team? g.id.team).map (·.seqr.flight.length)).getD 0

/-- Older operations have written their registers and passed their checks: the drain of R306; the elements of an interrupted `vscat`,
whose word has not retired, have performed (R249). -/
def Group.drained (g : Group) : Bool :=
  g.ops.all fun o => !o.kind.isLoad && !o.unchecked && o.dests.isEmpty && o.ltime != g.ltime

/-- An older access of the group has a step-5 check still to pass (R23, R243). -/
def Group.speculative (g : Group) : Bool := g.ops.any (·.unchecked)

/-- The group whose word is issued. -/
def State.curGroup (s : State) : Option Group :=
  match s.cur with
  | .group k => s.group? k
  | .none | .seqr _ => none

-- ## the events of a log (R396, R397)

/-- Where an access logs: a team's signature under one of its groups, or the spine collator of a VF. -/
inductive LogTo where
  | team (key tidx : Nat)
  | spine (vf : Nat)
  deriving DecidableEq, Repr

/-- Counts of retired words as a log tells them apart: modulo 2^22 (R396). -/
def sameTime (a b : Word) : Bool := (a - b).toNat % 2 ^ 22 == 0

/-- Adds an event to a list; a token that repeats the group's last read token becomes a REP event (R396). -/
def addEvent (l : List LogEvent) (e : LogEvent) : List LogEvent :=
  let mine := (l.filter fun x => x.grp == e.grp).reverse
  let tok := mine.find? fun x => x.code != 0x0A
  if e.code = 1 ∧ (tok.map fun x => x.code == 1 && x.a == e.a && x.more == e.more) = some true then
    match mine with
    | x :: _ => if x.code = 0x0A then l.map fun y => if y = x then { y with a := y.a + 1 } else y
                else l ++ [{ e with code := 0x0A, a := 1, more := [] }]
    | [] => l
  else l ++ [e]

/-- The event is logged at its collator. -/
def State.logEvent (s : State) (coll : LogTo) (e : LogEvent) : State :=
  match coll with
  | .team k _ => match s.team? k with
    | some t => s.setTeam { t with sig := { t.sig with events := addEvent t.sig.events e } }
    | none => s
  | .spine vf => match s.partOf vf with
    | some p => s.setPart { p with log := { p.log with spine := p.log.spine ++ [{ e with grp := vf, time := 0 }] } }
    | none => s

/-- The events at a collator: in RECORD those of the open signature, in REPLAY those still to be met. -/
def State.eventsAt (s : State) (coll : LogTo) : List LogEvent :=
  match coll with
  | .team k tidx => ((s.team? k).map fun t => t.sig.events.filter fun e => e.grp == tidx).getD []
  | .spine vf => ((s.partOf vf).map fun p => p.log.spine.filter fun e => e.grp == vf).getD []

/-- The first occurrence of an event is met: a repeated read uses up one of its repetitions. -/
def State.meetEvent (s : State) (coll : LogTo) (e : LogEvent) : State :=
  let drop (l : List LogEvent) : List LogEvent :=
    if e.code = 0x0A ∧ 1 < e.a.toNat then (let (a, b) := l.span fun x => x != e; a ++ { e with a := e.a - 1 } :: b.drop 1) else l.erase e
  match coll with
  | .team k _ => match s.team? k with
    | some t => s.setTeam { t with sig := { t.sig with events := drop t.sig.events } }
    | none => s
  | .spine vf => match s.partOf vf with
    | some p => s.setPart { p with log := { p.log with spine := drop p.log.spine } }
    | none => s

/-- The collator of a group. -/
def Group.collator (g : Group) : LogTo := .team g.id.team g.id.tidx

/-- An event of a group's word is logged in RECORD; in REPLAY the first logged event of the group with this code and
LTIME is met. -/
def State.note (s : State) (g : Group) (code : Nat) (a : BitVec 32) (more : List Word) : State :=
  if s.log g.id.vf = 1 then s.logEvent g.collator { code, grp := g.id.tidx, time := g.ltime, a, more }
  else if s.log g.id.vf = 2 then
    match (s.eventsAt g.collator).find? fun e => e.code == code && sameTime e.time g.ltime with
    | some e => s.meetEvent g.collator e
    | none => s
  else s

/-- In REPLAY, the logged event of the group's word with a given code (R406). -/
def State.logged (s : State) (g : Group) (code : Nat) : Option LogEvent :=
  if s.log g.id.vf = 2 then (s.eventsAt g.collator).find? fun e => e.code == code && sameTime e.time g.ltime else none

-- ## traps

/-- The ways a trap is delivered (R302). -/
inductive Way where
  | user | system | replay | fatal | debug
  deriving DecidableEq, Repr

/-- The codes marked R in R303. -/
def replayable (grp code : Nat) : Bool :=
  (grp == 6 && (code == 1 || code == 3 || code == 4)) || (grp == 7 && 1 ≤ code && code ≤ 4)

/-- The choice of R302, from the trap, MODE.DET, the group's level, UTVEC, UTDELEG and STVEC. -/
def trapWay (t : TrapReq) (det : Bool) (ts : TrapState) (stvec : Word) : Way :=
  if t.grp = 18 then .debug
  else if replayable t.grp t.code then .replay
  else if t.grp = 16 ∨ t.grp = 17 then .fatal
  else if t.async ∧ det then .fatal
  else if ts.lvl = 0 ∧ ts.utvec.getLsbD 0 ∧ (t.grp = 1 ∨ t.grp = 2 ∨ ts.utdeleg.getLsbD t.grp) then .user
  else if ts.lvl.toNat ≤ 1 ∧ stvec.getLsbD 0 then .system
  else .fatal

/-- The TCAUSE image of a trap (R304). -/
def TrapReq.cause (t : TrapReq) (rpl : Bool) : BitVec 32 :=
  let swx := if t.grp = 19 then t.code / 2048 % 32 else 0
  let (lv, lane) := match t.lane with | some l => (1, l) | none => (0, 0)
  BitVec.ofNat 32 (rpl.toNat * 2 ^ 31 + t.async.toNat * 2 ^ 30 + swx * 2 ^ 25 + lv * 2 ^ 24 + lane % 256 * 2 ^ 16
    + t.grp % 32 * 2 ^ 11 + t.code % 2048)

/-- A trap whose detail is its third argument (R303). -/
def mkTrap (grp code : Nat) (detail : Nat) (lane : Option Nat := none) : TrapReq :=
  { grp, code, detail := BitVec.ofNat 96 detail, lane }

/-- The registers an entry writes at its level: cause, detail, resume address, mask (R306). -/
def TrapRegs.enter (r : TrapRegs) (t : TrapReq) (m : Lane) : TrapRegs :=
  { r with cause := t.cause false, det0 := t.detail.extractLsb' 0 32, det1 := t.detail.extractLsb' 32 32,
           det2 := t.detail.extractLsb' 64 32, pc := t.pc &&& ~~~7, mask := m }

/-- The handler address of a vector register: bits 63:3 (R305). -/
def vecAddr (v : Word) : Word := v &&& ~~~7

/-- TDEC0 to TDEC3 of the word `rtt`, the one legal word that raises a trap of cause groups 1 and 2 (R308, R310): its word, its
kind, OP and PRED, and no more. -/
def rttDec : List Word := [0x3938000000000000, 0x3938000000000000, 0, 0]

/-- Entry to the user or system handler of a drained group (R306, R310): the level's trap registers, depth and
level are written, M becomes every live lane, the latches are dropped, accesses that have failed keep waiting for their consumer (R317),
and the group goes to the vector. -/
def Group.enterHandler (g : Group) (t : TrapReq) (w : Way) (stvec : Word) : Group :=
  let ts := g.trap
  let depth := BitVec.ofNat 5 g.dvDepth
  let tdec := if t.grp = 1 ∨ t.grp = 2 then (if t.dec.isEmpty then rttDec else t.dec) else ts.tdec
  let ts' := match w with
    | .user => { ts with usr := ts.usr.enter t g.mask, udepth := depth, lvl := 1, tdec, entry := none }
    | .system | .replay | .fatal | .debug =>
      { ts with sys := ts.sys.enter t g.mask, sdepth := depth, plvl := ts.lvl, lvl := 2, tdec, entry := none }
  { g.drainedFails.dropLatches with
      trap := ts', mask := g.live, wait := .run, fqSince := 0
      pc := match w with | .user => vecAddr ts.utvec | _ => vecAddr stvec }

/-- The return of R308 for a group at level 1 or 2 whose depth agrees: mask, address and level come back; PIDX
is dropped unless the word returned to is the one that left it. -/
def Group.leaveHandler (g : Group) : Group :=
  let ts := g.trap
  let r := if ts.lvl = 1 then ts.usr else ts.sys
  let keep := g.pidx ≠ 0 ∧ g.pidxPc = r.pc
  { g.dropLatches with
      mask := r.mask &&& g.live, pc := r.pc,
      trap := { ts with lvl := if ts.lvl = 1 then 0 else ts.plvl },
      pidx := if keep then g.pidx else 0 }

/-- The detail bits of a fault record and its agent fields, laid out as R314. -/
def recordBytes (t : TrapReq) (rpl : Bool) (fid place vf : Nat) (addr : Word) : List Byte :=
  leBytes 4 (t.cause rpl).toNat ++ leBytes 4 fid ++ leBytes 12 t.detail.toNat ++ leBytes 2 place
    ++ leBytes 2 vf ++ leBytes 8 addr.toNat

/-- Bytes 20 and 21 of a record for a group (R314). -/
def Group.place (g : Group) : Nat := g.id.core + g.id.quad * 256 + g.id.slot * 1024

/-- The ring of a replayable fault: the VF's for stage 1, the partition's host ring for stage 2 (R311). -/
def faultRing (s : State) (vf : Nat) (t : TrapReq) : RingRef :=
  if t.detail.getLsbD 64 then .host (((s.partOf vf).map (·.num)).getD 0) else .vf vf

def State.ring (s : State) (r : RingRef) : Ring :=
  match r with
  | .vf n => (s.vf n).ring
  | .host p => (s.part p).host
  | .debug p => (s.part p).dbg.ring

def State.setRing (s : State) (r : RingRef) (x : Ring) : State :=
  match r with
  | .vf n => s.setVf { s.vf n with ring := x }
  | .host p => s.setPart { s.part p with host := x }
  | .debug p => let q := s.part p; s.setPart { q with dbg := { q.dbg with ring := x } }

/-- The ring is enabled: N is 4 to 20 (R312). -/
def Ring.enabled (r : Ring) : Bool :=
  let n := (r.base.extractLsb' 0 5).toNat
  decide (4 ≤ n ∧ n ≤ 20)

/-- Appends a record to a ring's queue and gives it the next number, modulo 2^32 (R311, R314, R418). -/
def State.queueRecord (s : State) (r : RingRef) (mk : Nat → List Byte) (group : Option Nat) : Nat × State :=
  let x := s.ring r
  let fid := x.nextFid
  (fid, s.setRing r { x with nextFid := (fid + 1) % 2 ^ 32, queue := x.queue ++ [{ bytes := mk fid, group }] })

/-- A fault number with its ring, as an agent that is no group keeps it: 2^32 more for a host ring. -/
def faultTag (r : RingRef) (fid : Nat) : Nat :=
  match r with
  | .host _ => fid + 2 ^ 32
  | .vf _ | .debug _ => fid

/-- The node of a launch fails (R165, R319, R333): the launch keeps its first failure. -/
def State.failNode (s : State) (vf gslot node : Nat) (code tcause : Nat) : State :=
  let v := s.vf vf
  match (v.slots.find? fun e => e.1 == gslot) with
  | none => s
  | some (_, sl) => match sl.running with
    | none => s
    | some l =>
      let l' : Launch := { l with
        failure := match l.failure with | some f => some f | none => some (code, node, tcause),
        nodes := l.nodes.map fun n => if n.idx = node then { n with state := .failed } else n }
      let gs : List (Nat × GraphSlot) := v.slots.map fun e => if e.1 = gslot then (gslot, { sl with running := some l' }) else e
      s.setVf { v with slots := gs }

/-- A group ends without more: no live thread; what it has outstanding goes on to completion and delivers to no register (R149). -/
def Group.finish (g : Group) : Group :=
  { g with live := 0, mask := 0, dvDepth := 0, wait := .ended, failed := [], ops := g.ops.map fun o => { o with lost := o.targets } }

/-- A cluster is retired without saving (R319, R333): its groups end, its streams stop, and what they issued
goes on to completion. -/
def State.killCluster (s : State) (cl : Nat) : State :=
  let mine (t : Nat) : Bool := ((s.team? t).map (·.cluster == cl)).getD false
  { s with
    groups := s.groups.map fun g => if mine g.id.team then g.finish else g,
    shadows := s.shadows.filter fun h => !(((s.group? h.key).map fun g => mine g.id.team).getD false),
    bins := s.bins.filter fun b => !mine b.team,
    teams := s.teams.map fun t => if t.cluster = cl then
      { t with filed := [], drawn := [], seqr := { t.seqr with run := false, barw := none } } else t,
    clusters := s.clusters.map fun c => if c.key = cl then { c with residence := .resident, halting := false } else c }

/-- A debug agent is attached to the group: UNL = 1 and its VF slot is in DBGCTL.VFM (R416). -/
def State.attached (s : State) (vf : Nat) : Bool :=
  match s.partOf vf with
  | none => false
  | some p => p.dbg.unl && ((p.slotOf vf).map fun i => p.dbg.ctl.getLsbD (48 + i)).getD false

/-- The clusters of the grid a cluster belongs to (R155). -/
def State.gridOf (s : State) (c : Cluster) : List Cluster :=
  s.clusters.filter fun d => d.vf == c.vf && d.gslot == c.gslot && d.node == c.node && d.launch == c.launch

/-- A fatal trap (R319): the grid halts for an attached agent; otherwise its clusters are retired without
saving and the node fails with code 33 and the TCAUSE image. -/
def State.fatal (s : State) (vf cluster : Nat) (t : TrapReq) : State :=
  match s.cluster? cluster with
  | none => s
  | some c =>
    let grid := s.gridOf c
    if s.attached vf then
      { s with clusters := s.clusters.map fun d =>
          if grid.any fun e => e.key == d.key then { d with residence := .halted, resumable := false } else d }
    else
      (grid.foldl (fun s d => s.killCluster d.key) s).failNode vf c.gslot c.node 33 (t.cause false).toNat

/-- A trap entry is logged (R388, R396): its TCAUSE image, its detail, and its fault number. In REPLAY the logged one is met. -/
def State.noteTrap (s : State) (g : Group) (t : TrapReq) (rpl : Bool) (fid : Nat) : State :=
  if t.grp = 17 ∨ t.grp = 18 then s
  else s.note g 6 (t.cause rpl) [t.detail.extractLsb' 0 64, BitVec.ofNat 64 (fid * 2 ^ 32) ||| (t.detail.extractLsb' 64 32).setWidth 64]

/-- The trap of a logged TRP event (R406). -/
def TrapReq.ofEvent (e : LogEvent) : TrapReq :=
  let d := nth (0 : Word) e.more 0
  let h := nth (0 : Word) e.more 1
  { grp := (e.a.extractLsb' 11 5).toNat, code := (e.a.extractLsb' 0 11).toNat + (if e.a.extractLsb' 11 5 = 19 then (e.a.extractLsb' 25 5).toNat * 2048 else 0)
    detail := h.extractLsb' 0 32 ++ d, lane := if e.a.getLsbD 24 then some (e.a.extractLsb' 16 8).toNat else none, async := e.a.getLsbD 30 }

/-- A trap that a replay does not find in its log diverges with code 12 (R405). -/
def State.checkedTrap (s : State) (g : Group) (t : TrapReq) : TrapReq :=
  if s.log g.id.vf = 2 ∧ t.grp ≠ 17 ∧ t.grp ≠ 18 ∧ (s.logged g 6).isNone then mkTrap 17 12 g.ltime.toNat else t

/-- A divergence stops the replay of the partition: DIVERGED, with DCODE and SIGN (R403 to R405). -/
def State.diverged (s : State) (g : Group) (code : Nat) : State :=
  match s.partOf g.id.vf with
  | none => s
  | some p =>
    let sign := ((s.team? g.id.team).map (·.sig.sign)).getD 0
    s.setPart { p with log := { p.log with rpstat := BitVec.ofNat 64 (sign % 2 ^ 32 * 2 ^ 32 + code * 2 ^ 16 + 5) } }

/-- Completes the delivery of a trap in a drained group, in the way R302 chooses. A replayable fault or a debug
event queues its record and stops the group; a fault whose ring is disabled is fatal (R311, R313, R418). -/
def State.deliver (s : State) (g : Group) (t0 : TrapReq) : State :=
  let t := s.checkedTrap g t0
  let stvec := (s.vf g.id.vf).stvec
  let g0 : Group := { g with trap := { g.trap with entry := none } }
  match trapWay t (s.det g.id.vf) g.trap stvec with
  | .user => (s.noteTrap g t false 0).setGroup (g.enterHandler t .user stvec)
  | .system => (s.noteTrap g t false 0).setGroup (g.enterHandler t .system stvec)
  | .fatal =>
    let s1 := if t.grp = 17 then s.diverged g t.code else s.noteTrap g t false 0
    (s1.setGroup g0).fatal g.id.vf g.id.cluster t
  | .replay =>
    let r := faultRing s g.id.vf t
    let g' := { g0.dropLatches with pc := t.pc }
    let mk (fid : Nat) : List Byte := recordBytes t true fid g.place g.id.vf t.pc
    match s.logged g 6 with
    | some e =>
      let fid := ((nth (0 : Word) e.more 1).extractLsb' 32 32).toNat
      let x := s.ring r
      let s1 := (s.setRing r { x with queue := x.queue ++ [{ bytes := mk fid, group := some g.id.key }] }).noteTrap g t true fid
      let auto := ((s.partOf g.id.vf).map fun p => p.log.rpctl.getLsbD 0).getD false
      s1.setGroup { g' with wait := if auto then .run else .fault r none, again := auto }
    | none =>
      if (s.ring r).enabled then
        let (fid, s') := s.queueRecord r mk (some g.id.key)
        (s'.noteTrap g t true fid).setGroup { g' with wait := .fault r none }
      else ((s.noteTrap g t true 0).setGroup g').fatal g.id.vf g.id.cluster t
  | .debug =>
    let p := ((s.partOf g.id.vf).map (·.num)).getD 0
    let r := RingRef.debug p
    let g' := { g0.drainedFails.dropLatches with pc := t.pc }
    let (_, s') := s.queueRecord r (fun fid => recordBytes t false fid g.place g.id.vf t.pc) (some g.id.key)
    s'.setGroup { g' with wait := .debug none }

/-- Taking a trap at the word at the group's PC, or at the address the request gives: at once when the group is
drained, otherwise it stays pending and HANDLER_ENTRY, FATAL_TRAP, REPLAYABLE_FAULT or DEBUG_EVENT completes it
(R306, R307). -/
def State.takeTrap (s : State) (g : Group) (t : TrapReq) : State :=
  if g.drained then s.deliver g t
  else s.setGroup { g with trap := { g.trap with entry := some t } }

end Sys2Proof.Machine
end

