-- ==== Sys2Proof/Machine/Conflicts.lean ====
section
/-! DEFINITION. The identity of work (R157, R158, R172) and of agents (R220, R391), and the conflict checker of
DET = 1 (R237 to R239, R299). -/
namespace Sys2Proof.Machine

/-- The agent of an absent record. -/
def Agent.nobody : Agent := { kind := 99, vf := 0, gslot := 0, launch := 0, node := 0, cluster := 0, team := 0, grp := 0, quad := 0,
                              core := 0, slot := 0, lcore := 0, key := 0 }

-- ## identity of work (R157, R158, R172)

/-- The node record of a cluster: word `k` of the record (R161, R162). -/
def State.nodeWord (s : State) (vf gslot node k : Nat) : Word :=
  match (s.vf vf).slots.find? fun e => e.1 == gslot with
  | some (_, sl) => nth 0 (nth [] sl.nodes node) k
  | none => 0

/-- A field of a word. -/
def wfield (w : Word) (i n : Nat) : Nat := w.toNat / 2 ^ i % 2 ^ n

/-- Clusters of a grid, from bytes 64 to 71 of its node (R162). -/
def State.gridSize (s : State) (c : Cluster) : Nat :=
  let w := s.nodeWord c.vf c.gslot c.node 8
  wfield w 0 16 * wfield w 16 16 * wfield w 32 16

/-- Logical positions L of a kernel (R162, R171); at least 1. -/
def State.positions (s : State) (c : Cluster) : Nat :=
  let n := wfield (s.nodeWord c.vf c.gslot c.node 10) 32 32
  max 1 (if n = 0 then s.gridSize c else n / (c.w * c.h))

/-- LCORE of a team (R172). -/
def State.lcore (s : State) (t : Team) : Nat :=
  match s.cluster? t.cluster with
  | some c => if s.det c.vf then c.clustid % s.positions c * (c.w * c.h) + t.num else t.core
  | none => t.core

/-- GRIDID (R158). -/
def Cluster.gridid (c : Cluster) : Nat := c.gslot * 2 ^ 58 + c.node * 2 ^ 42 + c.launch % 2 ^ 42

/-- The agent a group is (R220). -/
def State.agentOf (s : State) (g : Group) : Agent :=
  let c := s.cluster? g.id.cluster
  { kind := 0, vf := g.id.vf, gslot := (c.map (·.gslot)).getD 0, launch := (c.map (·.launch)).getD 0
    node := (c.map (·.node)).getD 0, cluster := g.id.cluster, team := g.id.team, grp := g.id.grpid, quad := g.id.quad
    core := g.id.core, slot := g.id.slot, lcore := ((s.team? g.id.team).map s.lcore).getD 0, key := g.id.key }

/-- The scheduler of a VF as an agent (R220); kind 4 is the companion processor and 5 another device. -/
def outsideAgent (kind vf : Nat) : Agent := { Agent.nobody with kind, vf }

/-- The number of an agent in order records (R391). -/
def Agent.num (a : Agent) : Nat :=
  match a.kind with
  | 0 => a.core * 64 + a.quad * 16 + a.slot
  | 1 => 0x4000 + a.core * 64 + a.slot
  | 2 => 0x8000 + a.core * 64
  | 3 => 0xC002
  | 4 => 0xC000
  | 6 => 0xC100 + a.slot
  | 7 => 0xC003
  | 8 => 0xC004
  | _ => 0xC001

-- ## conflict checker (R237 to R239)

/-- The successor nodes of a node record (R161). -/
def nodeSuccs (r : List Word) : List Nat :=
  (List.range (min 20 (wfield (nth 0 r 0) 32 16))).map fun i => wfield (nth 0 r (1 + i / 4)) (16 * (i % 4)) 16

/-- Node `b` is reached from a frontier through successor lists. -/
def reaches (nodes : List (List Word)) (b : Nat) : Nat → List Nat → Bool
  | 0, _ => false
  | fuel + 1, fr => fr.contains b ||
    (match ((fr.flatMap fun n => nodeSuccs (nth [] nodes n)).eraseDups) with
     | [] => false
     | nx => reaches nodes b fuel nx)

/-- Two agents are of one kernel, or of two kernels of one launch of which neither precedes the other (R238). -/
def State.sameWork (s : State) (a b : Agent) : Bool :=
  a.kind ≤ 2 && b.kind ≤ 2 && a.vf == b.vf && a.gslot == b.gslot && a.launch == b.launch &&
    (a.node == b.node ||
      (match (s.vf a.vf).slots.find? fun e => e.1 == a.gslot with
       | some (_, sl) => !(reaches sl.nodes b.node sl.nodes.length [a.node]) && !(reaches sl.nodes a.node sl.nodes.length [b.node])
       | none => true))

/-- One agent: a group, one command, one sequencer. -/
def sameAgent (a b : ConfAccess) : Bool :=
  a.agent.kind == b.agent.kind && (if a.agent.kind = 2 then a.agent.team == b.agent.team
    else a.agent.key == b.agent.key && (a.agent.kind != 1 || a.cmd == b.cmd))

/-- The earlier access is ordered before the later one (R238), never one of another kernel. A command's `inst` is the LTIME of its issue, and of its
observation once `cmd` is 0; `seen` bounds the matrix operations that the later agent has observed. -/
def ordered (a b : ConfAccess) (seen : Nat) : Bool :=
  let x := a.agent
  let y := b.agent
  x.node == y.node && (decide (a.counts.gb < b.counts.gb) || (x.cluster == y.cluster && decide (a.counts.cb < b.counts.cb))
    || (x.team == y.team && decide (a.counts.tb < b.counts.tb))
    || (x.team == y.team && x.quad == y.quad && x.kind != 2 && y.kind != 2 && decide (a.counts.rf < b.counts.rf))
    || (x.kind == 0 && y.kind != 0 && x.key == y.key && decide (a.inst < b.inst))
    || (x.kind == 1 && y.kind == 0 && x.key == y.key && a.cmd == 0 && decide (a.inst < b.inst))
    || (x.kind == 2 && y.kind == 0 && x.team == y.team && decide (a.cmd < seen)))

/-- Two accesses conflict (R238); a reducing write conflicts with no load. -/
def State.conflict (s : State) (a b : ConfAccess) (seen : Nat) : Bool :=
  !sameAgent a b && (a.isWrite || b.isWrite) && !(a.isRed && (b.isRed || !b.isWrite)) && !(b.isRed && !a.isWrite)
    && !(a.isAtom && b.isAtom)
    && s.sameWork a.agent b.agent && !ordered a b seen

/-- The first kept access of a location that conflicts with a new one (R239). -/
def State.conflictAt (s : State) (loc : Nat) (b : ConfAccess) (seen : Nat) : Option ConfAccess :=
  (Sparse.get { accesses := [] } s.conflicts loc).accesses.find? fun a => s.conflict a b seen

/-- The record of a location after an access: a write is kept alone, of each agent its last read and its last
contribution since. -/
def State.conflictPut (s : State) (loc : Nat) (b : ConfAccess) : State :=
  let r := Sparse.get { accesses := [] } s.conflicts loc
  let like (a : ConfAccess) : Bool := a.isWrite == b.isWrite && a.isRed == b.isRed && sameAgent a b
  let l := if b.isWrite ∧ !b.isRed then [b] else (r.accesses.filter fun a => !like a) ++ [b]
  { s with conflicts := Sparse.set { accesses := [] } s.conflicts loc { accesses := l } }

/-- The trap of a conflict (R239, R303): location kind 0 memory, 1 tile row, 2 register row, 3 fabric mailbox. -/
def conflictTrap (named kind : Nat) (a : ConfAccess) (forCmd : Bool) (lane : Option Nat) : TrapReq :=
  { mkTrap 16 2 (named + 2 ^ 64 * kind + 2 ^ 66 * (a.agent.lcore % 65536) + 2 ^ 82 * a.agent.grp
      + 2 ^ 86 * (a.agent.kind != 0).toNat + 2 ^ 87 * forCmd.toNat) lane with async := forCmd }

/-- The access a group makes, for the conflict checker. -/
def State.confOf (s : State) (g : Group) (ltime : Word) (w red atom : Bool) : ConfAccess :=
  { agent := s.agentOf g, counts := g.counts, isWrite := w, isRed := red, isAtom := atom, inst := ltime.toNat, cmd := 0 }


end Sys2Proof.Machine
end

