-- ==== Sys2Proof/Machine/Formats.lean ====
section
/-! DEFINITION. Number formats: entries of the format table (R32 to R35), exact values, decoding (R37, R42),
rounding and encoding (R45, R46, R48), and the arithmetic on exact values (R109 to R115). A value is a dyadic
rational, an infinity or NaN; division, square roots and special functions give a dyadic rounded to odd far below
any quantum, so that a later rounding sees on which side of every boundary the exact value lies. -/
namespace Sys2Proof.Fmt

/-- The fields of a format-table entry (R32). -/
structure Entry where
  v : Bool
  s : Nat
  e : Nat
  m : Nat
  b : Nat
  sp : Nat
  sc : Nat
  bg : Nat
  low : Nat
  deriving DecidableEq, Repr

/-- The entry a 32-bit word holds (R32). -/
def Entry.of (w : BitVec 32) : Entry :=
  { v := w.getLsbD 31, s := (w.extractLsb' 30 1).toNat, e := (w.extractLsb' 26 4).toNat,
    m := (w.extractLsb' 21 5).toNat, b := (w.extractLsb' 13 8).toNat, sp := (w.extractLsb' 10 3).toNat,
    sc := (w.extractLsb' 8 2).toNat, bg := (w.extractLsb' 6 2).toNat, low := (w.extractLsb' 0 6).toNat }

/-- Sign, exponent and fraction bits of an element, without the selector. -/
def Entry.body (f : Entry) : Nat := f.s + f.e + f.m

/-- Storage width (R33). -/
def Entry.width (f : Entry) : Nat := f.body + (if f.sc = 2 then 1 else 0)

/-- Elements per lane (R40). -/
def Entry.perLane (f : Entry) : Nat := 32 / f.width

/-- Elements per block (R32). -/
def Entry.block (f : Entry) : Nat := if f.bg = 1 then 16 else 32

/-- The rules of R35 broken by an entry, as a mask with bit r − 1 for rule r. -/
def Entry.violations (f : Entry) : Nat :=
  let w := f.width
  let r (n : Nat) (c : Bool) : Nat := if c then 2 ^ (n - 1) else 0
  r 1 (9 ≤ f.e) + r 2 (24 ≤ f.m) + r 3 (4 ≤ f.sp) + r 4 (f.sc == 3) + r 5 (2 ≤ f.bg)
    + r 6 (f.sc == 0 && f.bg != 0) + r 7 (f.low != 0)
    + r 8 (!(w == 4 || w == 6 || w == 8 || w == 16 || w == 32))
    + r 9 (f.e == 0 && f.sp ≤ 1) + r 10 (f.sp == 0 && (f.s == 0 || f.m == 0)) + r 11 (f.sp == 3 && f.s == 0)
    + r 12 (f.sc != 0 && 8 < w) + r 13 (f.sc == 2 && f.bg == 1 && w ≤ 6)

/-- The violation mask with which `fmtset` refuses a word, 0 when it accepts it (R34). -/
def entryRefusal (w : BitVec 32) : Nat :=
  let f := Entry.of w
  if f.v then f.violations else if f.low ≠ 0 then 64 else 0

/-- The launch defaults f0 to f7 (R39). -/
def launchTable : List (BitVec 32) :=
  [0xE2EFE000, 0xD541E000, 0xE0EFE000, 0xD060E400, 0xD441E000, 0xC8202900, 0xC8602900, 0xC0400A00]

/-- The entry of binary32 (R39). -/
def binary32 : Entry := Entry.of 0xE2EFE000

/-- An exact value: NaN, a signed infinity, or (−1)^neg × m × 2^e, with m = 0 for a signed zero. -/
inductive Val where
  | nan
  | inf (neg : Bool)
  | fin (neg : Bool) (m : Nat) (e : Int)
  deriving DecidableEq, Repr

def Val.zero (neg : Bool) : Val := .fin neg 0 0

/-- floor(log2) of m × 2^e, m ≠ 0. -/
def log2 (m : Nat) (e : Int) : Int := (Nat.log2 m : Int) + e

/-- m × 2^k for k ≥ 0, and the truncated quotient for k < 0. -/
def shl (m : Nat) (k : Int) : Nat := if 0 ≤ k then m <<< k.toNat else m >>> (-k).toNat

/-- Three-way comparison of the magnitudes m1 × 2^e1 and m2 × 2^e2. -/
def cmpMag (m1 : Nat) (e1 : Int) (m2 : Nat) (e2 : Int) : Ordering :=
  let e := min e1 e2
  compare (shl m1 (e1 - e)) (shl m2 (e2 - e))

/-- Flags of R16: NV, DZ, OF, UF, NX. -/
def NV : BitVec 5 := 16
def DZ : BitVec 5 := 8
def OF : BitVec 5 := 4
def UF : BitVec 5 := 2
def NX : BitVec 5 := 1

/-- Rounding modes (R45); the stochastic mode carries its threshold H. -/
inductive Mode where
  | rne | rtz | rup | rdn | rna
  | rsr (h : Nat)
  deriving DecidableEq, Repr

/-- The mode a rounding code names, with threshold `h` for `.rsr` (R45). -/
def Mode.of (code : BitVec 3) (h : Nat) : Mode :=
  match code.toNat with
  | 0 => .rne | 1 => .rtz | 2 => .rup | 3 => .rdn | 4 => .rna | _ => .rsr h

/-- The hash of R48. -/
def hashH (seed : Word) (g e : Nat) : Nat :=
  let z := seed ^^^ (BitVec.ofNat 64 g * 0x9E3779B97F4A7C15) ^^^ (BitVec.ofNat 64 e * 0xC2B2AE3D27D4EB4F)
  let z := (z ^^^ (z >>> 30)) * 0xBF58476D1CE4E5B9
  let z := (z ^^^ (z >>> 27)) * 0x94D049BB133111EB
  let z := z ^^^ (z >>> 31)
  (z >>> 40).toNat

/-- The magnitude m × 2^e as a number of quanta 2^q, rounded in a mode, and whether it was inexact (R45, R48). -/
def roundMag (neg : Bool) (m : Nat) (e q : Int) (mode : Mode) : Nat × Bool :=
  if q ≤ e then (shl m (e - q), false)
  else
    let k := (q - e).toNat
    let t := m >>> k
    let r := m - t <<< k
    let half := 2 ^ (k - 1)
    let up : Bool := match mode with
      | .rne => decide (half < r) || (decide (r = half) && t % 2 == 1)
      | .rtz => false
      | .rup => decide (r ≠ 0) && !neg
      | .rdn => decide (r ≠ 0) && neg
      | .rna => decide (half ≤ r)
      | .rsr h => decide (h * 2 ^ k < r * 2 ^ 24)
    (if up then t + 1 else t, decide (r ≠ 0))

/-- The largest finite magnitude as significand and exponent (R38). -/
def Entry.maxf (f : Entry) : Nat × Int :=
  if f.e = 0 then (2 ^ f.m - 1, -(f.b : Int))
  else
    let top : Int := (2 ^ f.e : Nat)
    if f.sp = 0 then (2 ^ (f.m + 1) - 1, top - 2 - f.b - f.m)
    else if f.sp = 1 then
      if f.m = 0 then (1, top - 2 - f.b) else (2 ^ (f.m + 1) - 2, top - 1 - f.b - f.m)
    else (2 ^ (f.m + 1) - 1, top - 1 - f.b - f.m)

/-- The lowest value's magnitude (R38): zero without a sign, one step beyond maxf for two's complement. -/
def Entry.lowest (f : Entry) : Nat × Int :=
  if f.s = 0 then (0, 0)
  else if f.e = 0 then (if f.sp = 3 then 2 ^ f.m - 1 else 2 ^ f.m, -(f.b : Int))
  else f.maxf

/-- emax = floor(log2(maxf)) (R38). -/
def Entry.emax (f : Entry) : Int := log2 f.maxf.1 f.maxf.2

/-- The canonical NaN, for the entries that have one (R38). -/
def Entry.canonNan (f : Entry) : Option Nat :=
  if f.e = 0 then (if f.s = 1 ∧ f.sp = 3 then some (2 ^ f.m) else none)
  else if f.sp = 0 then some ((2 ^ f.e - 1) * 2 ^ f.m + 2 ^ (f.m - 1))
  else if f.sp = 1 then some (2 ^ (f.e + f.m) - 1)
  else if f.sp = 3 then some (2 ^ (f.e + f.m))
  else none

/-- Decoding of an unscaled element, selector removed (R37). -/
def decode (f : Entry) (bits : Nat) : Val :=
  let w := f.body
  if f.e = 0 then
    let half := 2 ^ (w - 1)
    if f.s = 1 ∧ half ≤ bits then
      if f.sp = 3 ∧ bits = half then .nan else .fin true (2 ^ w - bits) (-(f.b : Int))
    else .fin false bits (-(f.b : Int))
  else
    let neg := f.s == 1 && bits.testBit (w - 1)
    let ex := bits / 2 ^ f.m % 2 ^ f.e
    let m := bits % 2 ^ f.m
    let eall := 2 ^ f.e - 1
    if f.sp = 0 ∧ ex = eall then (if m = 0 then .inf neg else .nan)
    else if f.sp = 1 ∧ ex = eall ∧ m = 2 ^ f.m - 1 then .nan
    else if f.sp = 3 ∧ neg ∧ ex = 0 ∧ m = 0 then .nan
    else if ex = 0 then .fin neg m (1 - f.b - f.m)
    else .fin neg (2 ^ f.m + m) ((ex : Int) - f.b - f.m)

/-- The value times 2^k. -/
def Val.scale (v : Val) (k : Int) : Val :=
  match v with
  | .fin n m e => .fin n m (e + k)
  | .nan | .inf _ => v

/-- A value under an E8M0 scale byte (R42). -/
def Val.scaled (v : Val) (c : Nat) : Val := if c = 255 then .nan else v.scale ((c : Int) - 127)

/-- The bits of a finite value of the entry's grid: n quanta of 2^q with the sign (R46). -/
def Entry.pack (f : Entry) (neg : Bool) (n : Nat) (q : Int) : Nat :=
  if f.e = 0 then
    let k := shl n (q + f.b)
    if neg then 2 ^ f.body - k else k
  else
    let sign := if neg then 2 ^ (f.e + f.m) else 0
    let sub := shl n (q - (1 - f.b - f.m))
    if n = 0 then 0
    else if log2 n q < 1 - f.b then sign + sub
    else
      let l := log2 n q
      sign + (l + f.b).toNat * 2 ^ f.m + (shl n (q - (l - f.m)) - 2 ^ f.m)

/-- Whether the entry has a code for −0 (R46). -/
def Entry.hasNegZero (f : Entry) : Bool := decide (1 ≤ f.e) && f.s == 1 && f.sp != 3

def Entry.zeroBits (f : Entry) (neg : Bool) : Nat := if neg && f.hasNegZero then 2 ^ (f.e + f.m) else 0

def Entry.infBits (f : Entry) (neg : Bool) : Nat :=
  (if neg then 2 ^ (f.e + f.m) else 0) + (2 ^ f.e - 1) * 2 ^ f.m

/-- maxf or the lowest value, by a sign (R46). An entry with E = 1 and SP = 0 has no code for the maxf of R38, and the spec states no
bits for it: its largest code below is delivered, the largest subnormal (DESIGN CHOICE, log entry 104). -/
def Entry.extreme (f : Entry) (neg : Bool) : Nat :=
  if neg then (if f.s = 0 then 0 else f.pack true f.lowest.1 f.lowest.2) else f.pack false f.maxf.1 f.maxf.2

/-- Encoding of an exact value into an unscaled entry: bits and flags (R46). -/
def encode (f : Entry) (x : Val) (mode : Mode) (sat : Bool) : Nat × BitVec 5 :=
  match x with
  | .nan => match f.canonNan with
    | some b => (b, 0)
    | none => (0, NV)
  | .inf neg =>
    if f.sp = 0 ∧ !sat then (f.infBits neg, 0)
    else if neg ∧ f.s = 0 then (0, NV)
    else (f.extreme neg, OF ||| NX)
  | .fin neg m e =>
    if m = 0 then (f.zeroBits neg, 0)
    else
      let q : Int := if f.e = 0 then -(f.b : Int) else max (log2 m e) (1 - f.b) - f.m
      let (n, inexact) := roundMag neg m e q mode
      let tiny := if f.e = 0 then decide (n = 0) else decide (log2 m e < 1 - f.b)
      let fl := (if inexact then NX else 0) ||| (if inexact && tiny then UF else 0)
      if neg ∧ n ≠ 0 ∧ f.s = 0 then (0, fl ||| NV)
      else
        let lim := if neg then f.lowest else f.maxf
        if n ≠ 0 ∧ cmpMag n q lim.1 lim.2 = .gt then
          let toInf : Bool := match mode with
            | .rtz => false
            | .rup => !neg
            | .rdn => neg
            | .rne | .rna | .rsr _ => true
          (if f.sp = 0 ∧ !sat ∧ toInf then f.infBits neg else f.extreme neg, fl ||| OF ||| NX)
        else if n = 0 then (f.zeroBits neg, fl)
        else (f.pack neg n q, fl)

-- ## arithmetic on exact values

def Val.neg (v : Val) : Val :=
  match v with
  | .nan => .nan
  | .inf n => .inf !n
  | .fin n m e => .fin (!n) m e

def Val.abs (v : Val) : Val :=
  match v with
  | .nan => .nan
  | .inf _ => .inf false
  | .fin _ m e => .fin false m e

/-- Sum (R109); `down` is the mode `.rdn`, in which a cancelled sum is −0. -/
def Val.add (a b : Val) (down : Bool) : Val × BitVec 5 :=
  match a, b with
  | .nan, _ => (.nan, 0)
  | .inf _, .nan => (.nan, 0)
  | .fin _ _ _, .nan => (.nan, 0)
  | .inf s, .inf t => if s = t then (.inf s, 0) else (.nan, NV)
  | .inf s, .fin _ _ _ => (.inf s, 0)
  | .fin _ _ _, .inf t => (.inf t, 0)
  | .fin s m e, .fin t n f =>
    let x := min e f
    let p := shl m (e - x)
    let q := shl n (f - x)
    if s = t then (.fin s (p + q) x, 0)
    else if p = q then (.zero down, 0)
    else if q < p then (.fin s (p - q) x, 0)
    else (.fin t (q - p) x, 0)

/-- Product (R109). -/
def Val.mul (a b : Val) : Val × BitVec 5 :=
  match a, b with
  | .nan, _ => (.nan, 0)
  | .inf _, .nan => (.nan, 0)
  | .fin _ _ _, .nan => (.nan, 0)
  | .inf s, .inf t => (.inf (s != t), 0)
  | .inf s, .fin t n _ => if n = 0 then (.nan, NV) else (.inf (s != t), 0)
  | .fin s m _, .inf t => if m = 0 then (.nan, NV) else (.inf (s != t), 0)
  | .fin s m e, .fin t n f => (.fin (s != t) (m * n) (e + f), 0)

/-- Fused multiply-add: the product's invalid case raises NV whatever c is (R110). -/
def Val.fma (a b c : Val) : Val × BitVec 5 :=
  let (p, f) := a.mul b
  let (r, f') := p.add c false
  (r, f ||| f')

/-- Bits kept below the leading bit by quotients and roots. -/
def oddBits : Nat := 96

/-- m / n × 2^e rounded to odd: the low bit says whether anything was lost. -/
def quotOdd (neg : Bool) (m n : Nat) (e : Int) : Val :=
  let k := oddBits + Nat.log2 n
  let p := m <<< k
  let q := p / n
  .fin neg (2 * q + (if p % n = 0 then 0 else 1)) (e - k - 1)

/-- Quotient (R115). -/
def Val.div (a b : Val) : Val × BitVec 5 :=
  match a, b with
  | .nan, _ => (.nan, 0)
  | .inf _, .nan => (.nan, 0)
  | .fin _ _ _, .nan => (.nan, 0)
  | .inf _, .inf _ => (.nan, NV)
  | .inf s, .fin t _ _ => (.inf (s != t), 0)
  | .fin s _ _, .inf t => (.zero (s != t), 0)
  | .fin s m e, .fin t n f =>
    if n = 0 then (if m = 0 then (.nan, NV) else (.inf (s != t), DZ))
    else if m = 0 then (.zero (s != t), 0)
    else (quotOdd (s != t) m n (e - f), 0)

/-- Integer square root by bits from 2^(k−1) down. -/
def isqrtAux (n : Nat) : Nat → Nat → Nat
  | 0, r => r
  | k + 1, r => if (r + 2 ^ k) * (r + 2 ^ k) ≤ n then isqrtAux n k (r + 2 ^ k) else isqrtAux n k r

/-- floor(√n). -/
def isqrt (n : Nat) : Nat := isqrtAux n (Nat.log2 n / 2 + 1) 0

/-- √(m × 2^e) rounded to odd. -/
def rootOdd (m : Nat) (e : Int) : Val :=
  let k := 2 * oddBits + (if e % 2 = 0 then 0 else 1)
  let n := m <<< k
  let r := isqrt n
  .fin false (2 * r + (if r * r = n then 0 else 1)) ((e - k) / 2 - 1)

/-- Square root (R115). -/
def Val.sqrt (a : Val) : Val × BitVec 5 :=
  match a with
  | .nan => (.nan, 0)
  | .inf neg => if neg then (.nan, NV) else (.inf false, 0)
  | .fin neg m e => if m = 0 then (.zero neg, 0) else if neg then (.nan, NV) else (rootOdd m e, 0)

/-- Numeric order of two values: none when either is NaN; +0 equals −0. -/
def Val.cmp (a b : Val) : Option Ordering :=
  let key (v : Val) : Int × Nat × Int := match v with
    | .nan => (0, 0, 0)
    | .inf n => (if n then -2 else 2, 0, 0)
    | .fin n m e => if m = 0 then (0, 0, 0) else (if n then -1 else 1, m, e)
  if a = .nan ∨ b = .nan then none
  else
    let (s, m, e) := key a
    let (t, n, f) := key b
    some (if s ≠ t then compare s t
      else if s = 1 then cmpMag m e n f else if s = -1 then cmpMag n f m e else .eq)

/-- Whether a is the lesser under R111, where −0 is less than +0; both are numbers. -/
def Val.below (a b : Val) : Bool :=
  match a.cmp b with
  | some .lt => true
  | some .eq => (match a, b with | .fin s 0 _, .fin t 0 _ => s && !t | _, _ => false)
  | some .gt | none => false

/-- Rounding to an integer (R116): the integer with the sign of a, and NX. -/
def Val.toIntegral (a : Val) (mode : Mode) : Val × BitVec 5 :=
  match a with
  | .nan | .inf _ => (a, 0)
  | .fin neg m e =>
    let (n, inexact) := roundMag neg m e 0 mode
    (.fin neg n 0, if inexact then NX else 0)

-- ## elements of a lane

/-- Element `i` of a lane's 32 bits (R40). -/
def elemBits (f : Entry) (x : Lane) (i : Nat) : Nat := x.toNat / 2 ^ (f.width * i) % 2 ^ f.width

/-- The lane of a list of element bits, position 0 lowest; unused bits are 0 (R40). -/
def joinElems (f : Entry) (es : List Nat) : Lane :=
  BitVec.ofNat 32 (es.zipIdx.foldl (fun a (b, i) => a + b * 2 ^ (f.width * i)) 0)

/-- Scale byte `j` of a z register. -/
def scaleByte (z : BitVec 128) (j : Nat) : Nat := (z.extractLsb' (8 * j) 8).toNat

/-- The value of element bits under the scales of its block, `blk` counted from the start of the row (R42). -/
def elemValue (f : Entry) (bits : Nat) (z : BitVec 128) (blk : Nat) : Val :=
  if f.sc = 0 then decode f bits
  else if f.sc = 1 then (decode f bits).scaled (scaleByte z blk)
  else
    let sel := bits / 2 ^ f.body
    (decode f (bits % 2 ^ f.body)).scaled (scaleByte z (2 * blk + sel))

/-- The larger magnitude of two values; an infinity is above every number. -/
def maxMagExp (xs : List Val) : Option Int :=
  xs.foldl (fun acc v => match v with
    | .nan => acc
    | .inf _ => some 100000
    | .fin _ m e => if m = 0 then acc else match acc with
      | none => some (log2 m e)
      | some a => some (max a (log2 m e))) none

/-- Absolute difference of an encoded element under a scale byte and the exact value, as a magnitude; none when
it is not finite. -/
def encError (f : Entry) (bits c : Nat) (x : Val) : Option (Nat × Int) :=
  match ((decode f bits).scaled c).add x.neg false with
  | (.fin _ m e, _) => some (m, e)
  | (.nan, _) | (.inf _, _) => none

/-- Encoding of one block into a block-scaled entry (R44): the scale bytes and each element's bits and flags.
`mode i` is the mode of element i, which under `.rsr` depends on its position. An infinite element under SC = 2, SP = 0 and no
saturation is infinite under either scale, and the spec gives ∞ − ∞ no value: its errors count as equal, so scale 1 is chosen
(DESIGN CHOICE, log entry 104). -/
def encodeBlock (f : Entry) (xs : List Val) (mode : Nat → Mode) (sat : Bool) : List Nat × List (Nat × BitVec 5) :=
  if xs.any (· == .nan) then (if f.sc = 2 then [255, 255] else [255], xs.map fun _ => (0, 0))
  else
    let scale0 : Nat := match maxMagExp xs with
      | none => 127
      | some l => if xs.any (fun v => v == .inf true || v == .inf false) then 254
        else (min 127 (max (-127) (l - f.emax)) + 127).toNat
    let scale1 := scale0 - 2
    let enc (c i : Nat) (x : Val) : Nat × BitVec 5 := encode f (x.scale (127 - (c : Int))) (mode i) sat
    if f.sc = 2 then
      ([scale0, scale1], xs.zipIdx.map fun (x, i) =>
        let y0 := enc scale0 i x
        let y1 := enc scale1 i x
        let pick1 : Bool := match encError f y0.1 scale0 x, encError f y1.1 scale1 x with
          | some (m, e), some (n, g) => cmpMag n g m e != .gt
          | some _, none => false
          | none, _ => true
        if pick1 then (y1.1 + 2 ^ f.body, y1.2) else y0)
    else ([scale0], xs.zipIdx.map fun (x, i) => enc scale0 i x)

end Sys2Proof.Fmt
end

