-- ==== Sys2Proof/Machine/Encoding.lean ====
section
/-! DEFINITION. Which fields each instruction word uses, and with which legal values (R59 to R76, R138, R139,
R181, R184, R188, R191, R241, R267, R272, R276, R285, R288, R296, R367, R368, R379): one row per opcode of
the maps R71, R73, R74, and the checks 3 to 5 of R76 over the fields of a word. -/
namespace Sys2Proof.Enc

/-- Operand kinds of a register field (R59). `none` is an unused field, which must be zero (R65).
`vdir` is a vector register that must be direct; `sel` is the selector of `vlane` (R181); `sPair` is the
stride pair of `cpy` (R267). -/
inductive Kind where
  | none | v | vdir | p | c | s | x | k | f | b | z | sel | sPair
  deriving DecidableEq, Repr

/-- The number of legal codes of a kind: a code at or beyond it is a reserved value (R59, R25). -/
def Kind.count : Kind → Nat
  | .none => 1 | .v => 776 | .vdir => 768 | .p => 8 | .c => 8 | .s => 64 | .x => 8 | .k => 2
  | .f => 8 | .b => 16 | .z => 64 | .sel => 4 | .sPair => 63

/-- Field use of a layout A word. `xf` marks the used bits of XF; `red` is the rule of R184 for
`vredx` and `vscan`. -/
structure RowA where
  fmt : Bool := false
  rnd : Bool := false
  sat : Bool := false
  g : Bool := false
  xf : BitVec 6 := 0
  red : Bool := false
  d : Kind := .none
  a : Kind := .none
  b : Kind := .none
  ap : Bool := false
  bp : Bool := false
  ha : Bool := false
  hb : Bool := false
  deriving DecidableEq, Repr

/-- Legal values of SCO in a layout M word: unused, always used, used when ORD is not 00 (R62, R241). -/
inductive ScoUse where
  | no | always | whenOrd
  deriving DecidableEq, Repr

/-- Field use of a layout M word (R241). A width in `dirWid` needs a direct D. -/
structure RowM where
  g : Bool := false
  d : Kind := .none
  a : Kind := .none
  base : Bool := true
  scl : List Nat := []
  wid : List Nat := []
  hints : Bool := false
  ord : List Nat := []
  sco : ScoUse := .no
  dirWid : List Nat := []
  deriving DecidableEq, Repr

/-- Field use of a layout E word (R63). `acc` is the rule of R296 that MOD chooses between NUM and SB1. -/
structure RowE where
  g : Bool := true
  d : Kind := .none
  a : Kind := .none
  sb1 : Bool := false
  sb2 : Bool := false
  num : Bool := false
  scoMax : Nat := 0
  md : List Nat := [0]
  acc : Bool := false
  deriving DecidableEq, Repr

/-- Field use of a layout Q word (R288). -/
structure RowQ where
  fmt : Bool := false
  tgt : Nat := 0
  brow : Bool := false
  arow : Bool := false
  fb : Bool := false
  deriving DecidableEq, Repr

/-- What an I-form instruction accepts as IMM when SR = 0 (R71, R148, R182, R188, R367). -/
inductive ImmUse where
  | any | low16 | low4 | ratio
  deriving DecidableEq, Repr

/-- Field use of an I-form word (R70, R71). -/
structure RowI where
  g : Bool := false
  fmt : Bool := false
  d : Kind := .none
  sr : Bool := false
  rnd : Bool := false
  sat : Bool := false
  imm : ImmUse := .any
  deriving DecidableEq, Repr

/-- What the IMM of an S-form word may hold (R73, R85, R86, R96). -/
inductive SImm where
  | no | any | field | selc | num
  deriving DecidableEq, Repr

/-- Field use of an S-form word (R72, R73): kinds of SD, SA and SB, the accepted ISEL values, and the IMM
use with ISEL = 0 and 1. `sbKeeps` keeps SB in use with ISEL = 1 (`sst`, R93). -/
structure RowS where
  sd : Kind := .none
  sa : Kind := .none
  sb : Kind := .none
  isel : List Nat := [0]
  imm0 : SImm := .no
  imm1 : SImm := .any
  sbKeeps : Bool := false
  deriving DecidableEq, Repr

/-- The shape of an instruction word: its opcode, its field use and its operands. Events have none. -/
inductive Shape where
  | a (op : Nat) (r : RowA) (o : OpA)
  | c (op : Nat) (fmt : Bool) (o : OpC)
  | m (op : Nat) (r : RowM) (o : OpM)
  | e (op : Nat) (r : RowE) (o : OpE)
  | q (op : Nat) (r : RowQ) (o : OpQ)
  | i (op : Nat) (r : RowI) (o : OpI)
  | s (op : Nat) (r : RowS) (o : OpS)
  | p (hi lo : Half)
  | event

/-- Special-register numbers assigned by R17, R132, R158, R217, R266, R287, R305, R342 and R373. -/
def srAssigned (n : Nat) : Bool :=
  n ≤ 0x009 || n == 0x010 || n == 0x011 || (0x020 ≤ n && n ≤ 0x02D) || (0x030 ≤ n && n ≤ 0x032)
    || n == 0x03F || (0x040 ≤ n && n ≤ 0x04F) || (0x800 ≤ n && n ≤ 0x802)
    || (0x810 ≤ n && n ≤ 0x81B) || (0x820 ≤ n && n ≤ 0x83B)

-- rows of layout A shared by several opcodes
def rBin : RowA := { fmt := true, d := .v, a := .v, b := .v, ap := true, bp := true, ha := true, hb := true }
def rBinRS : RowA := { rBin with rnd := true, sat := true }
def rUn : RowA := { fmt := true, d := .v, a := .v, ap := true, ha := true }
def rUnRS : RowA := { rUn with rnd := true, sat := true }
def rUnR : RowA := { rUn with rnd := true }
def rCmp : RowA := { rBin with d := .p }
def rCvt : RowA := { rUnRS with xf := 7 }
def rIBin : RowA := { rBin with fmt := false }
def rIBinS : RowA := { rIBin with sat := true }
def rIUn : RowA := { rUn with fmt := false }
def rIUnS : RowA := { rIUn with sat := true }
def rICmp : RowA := { rIBin with d := .p }
def rRed : RowA := { rUn with xf := 15, red := true }
def rP3 : RowA := { g := true, d := .p, a := .p, b := .p }
def rP2 : RowA := { g := true, d := .p, a := .p }
def rG : RowA := { g := true }
def rX : RowA := { d := .x, a := .v, ap := true }

-- rows of layout M
def mLdG : RowM := { d := .v, a := .v, scl := [0, 1, 2, 3, 4, 7], wid := [0, 1, 2, 3, 4], hints := true,
                     ord := [0, 1], sco := .whenOrd, dirWid := [3, 4] }
def mStG : RowM := { mLdG with ord := [0, 2] }
def mLdS : RowM := { mLdG with hints := false }
def mStS : RowM := { mStG with hints := false }
def mGath : RowM := { d := .vdir, a := .vdir, scl := [0, 1, 2, 3, 4], wid := [0, 1, 2], hints := true }
def mMap : RowM := { g := true, d := .s, a := .s }
def mUnmap : RowM := { g := true, d := .s, a := .s, base := false }
def mMbox : RowM := { g := true, d := .v, a := .c, ord := [0, 1, 2, 3], sco := .always }
def mFence : RowM := { g := true, base := false, sco := .always }
def mAtom : RowM := { d := .v, a := .v, scl := [0, 1, 2, 3, 4, 7], wid := [2, 3], hints := true,
                      ord := [0, 1, 2, 3], sco := .always, dirWid := [3] }
def mCas : RowM := { mAtom with d := .vdir }
def mRed : RowM := { mAtom with ord := [0, 2] }

-- rows of the S-form
def s3 : RowS := { sd := .s, sa := .s, sb := .s, isel := [0, 1] }
def s2 : RowS := { sd := .s, sa := .s }
def sFld : RowS := { sd := .s, sa := .s, isel := [1], imm1 := .field }
def sCmp : RowS := { s3 with sd := .c }
def sBr : RowS := { isel := [1] }
def sLd : RowS := { sd := .s, sa := .s, isel := [1] }
def sSt : RowS := { sa := .s, sb := .s, isel := [1], sbKeeps := true }

-- rows of the I-form
def iF : RowI := { fmt := true, d := .v, sr := true, rnd := true, sat := true }
def iMM : RowI := { fmt := true, d := .v, sr := true }
def iI : RowI := { d := .v, sr := true }
def iIS : RowI := { iI with sat := true }

/-- The opcode maps of R71, R73 and R74: the opcode, the field use and the operands of each word. -/
def shape : Instr → Shape
  | .fadd o => .a 0x00 rBinRS o | .fsub o => .a 0x01 rBinRS o | .fmul o => .a 0x02 rBinRS o
  | .fma o => .c 0x03 true o | .fms o => .c 0x04 true o | .fnma o => .c 0x05 true o
  | .fmin o => .a 0x06 rBin o | .fmax o => .a 0x07 rBin o | .fabs o => .a 0x08 rUn o | .fneg o => .a 0x09 rUn o
  | .fcmpEq o => .a 0x0A rCmp o | .fcmpLt o => .a 0x0B rCmp o | .fcmpLe o => .a 0x0C rCmp o
  | .fcmpUn o => .a 0x0D rCmp o | .fsel o => .a 0x0E { rBin with xf := 7 } o
  | .fcvt o => .a 0x20 rCvt o | .frnd o => .a 0x21 rUnR o | .fsqrt o => .a 0x22 rUnRS o | .fdiv o => .a 0x23 rBinRS o
  | .fexp2q o => .a 0x24 rUn o | .fexp2r o => .a 0x25 rUn o | .flog2q o => .a 0x26 rUn o | .flog2r o => .a 0x27 rUn o
  | .fsinpq o => .a 0x28 rUn o | .fsinpr o => .a 0x29 rUn o | .fcospq o => .a 0x2A rUn o | .fcospr o => .a 0x2B rUn o
  | .ftanhq o => .a 0x2C rUn o | .ftanhr o => .a 0x2D rUn o | .frcpq o => .a 0x2E rUn o | .frcpr o => .a 0x2F rUn o
  | .frsqq o => .a 0x30 rUn o | .frsqr o => .a 0x31 rUn o
  | .fpack o => .a 0x32 { rCvt with a := .vdir } o | .funpack o => .a 0x33 { rCvt with d := .vdir } o
  | .iadd o => .a 0x40 rIBinS o | .isub o => .a 0x41 rIBinS o | .imul o => .a 0x42 rIBin o | .imulh o => .a 0x43 rIBin o
  | .imad o => .c 0x44 false o
  | .iand o => .a 0x45 rIBin o | .ior o => .a 0x46 rIBin o | .ixor o => .a 0x47 rIBin o | .inot o => .a 0x48 rIUn o
  | .ishl o => .a 0x49 rIBin o | .ishr o => .a 0x4A rIBin o | .isra o => .a 0x4B rIBin o
  | .imin o => .a 0x4C rIBin o | .imax o => .a 0x4D rIBin o | .iminu o => .a 0x4E rIBin o | .imaxu o => .a 0x4F rIBin o
  | .iabs o => .a 0x50 rIUnS o | .ineg o => .a 0x51 rIUnS o
  | .ipopc o => .a 0x52 rIUn o | .iclz o => .a 0x53 rIUn o | .ibrev o => .a 0x54 rIUn o
  | .isel o => .a 0x55 { rIBin with xf := 7 } o
  | .icmpEq o => .a 0x56 rICmp o | .icmpNe o => .a 0x57 rICmp o | .icmpLt o => .a 0x58 rICmp o
  | .icmpLe o => .a 0x59 rICmp o | .icmpLtu o => .a 0x5A rICmp o | .icmpLeu o => .a 0x5B rICmp o
  | .vmov o => .a 0x60 rIUn o
  | .vperm o => .a 0x61 { d := .v, a := .v, b := .v, bp := true, hb := true } o
  | .vredx o => .a 0x62 rRed o | .vscan o => .a 0x63 rRed o
  | .vlane o => .a 0x64 { d := .v, b := .sel } o
  | .vput o => .a 0x65 { g := true, a := .v, ap := true } o
  | .pand o => .a 0x66 rP3 o | .por o => .a 0x67 rP3 o | .pxor o => .a 0x68 rP3 o
  | .pnot o => .a 0x69 rP2 o | .pmov o => .a 0x6A rP2 o
  | .pany o => .a 0x6B { rP2 with d := .c } o | .pall o => .a 0x6C { rP2 with d := .c } o
  | .ppopc o => .a 0x6D { rP2 with d := .s } o | .pfirst o => .a 0x6E { rP2 with d := .s } o
  | .zset o => .a 0x6F { g := true, d := .z, a := .v, ap := true } o
  | .zget o => .a 0x70 { g := true, d := .v, a := .z } o | .zmov o => .a 0x71 { g := true, d := .z, a := .z } o
  | .xset o => .a 0x72 rX o | .xidx o => .a 0x73 rX o | .xinc o => .a 0x74 rX o
  | .xget o => .a 0x75 { d := .v, a := .x } o
  | .fmtget o => .a 0x76 { g := true, d := .s, a := .f } o
  | .vldG o => .m 0x80 mLdG o | .vstG o => .m 0x81 mStG o | .vldS o => .m 0x82 mLdS o | .vstS o => .m 0x83 mStS o
  | .vgath o => .m 0x84 mGath o | .vscat o => .m 0x85 mGath o
  | .stmap o => .m 0x86 mMap o | .stunmap o => .m 0x87 mUnmap o | .stflush o => .m 0x88 mUnmap o | .stinv o => .m 0x89 mUnmap o
  | .mboxPut o => .m 0x8A mMbox o | .mboxGet o => .m 0x8B mMbox o
  | .vatomAdd o => .m 0xA0 mAtom o | .vatomMin o => .m 0xA1 mAtom o | .vatomMax o => .m 0xA2 mAtom o
  | .vatomAnd o => .m 0xA3 mAtom o | .vatomOr o => .m 0xA4 mAtom o | .vatomXor o => .m 0xA5 mAtom o
  | .vatomXchg o => .m 0xA6 mAtom o | .vatomCas o => .m 0xA7 mCas o
  | .vredAdd o => .m 0xA8 mRed o | .vredMin o => .m 0xA9 mRed o | .vredMax o => .m 0xAA mRed o
  | .vredAnd o => .m 0xAB mRed o | .vredOr o => .m 0xAC mRed o | .vredXor o => .m 0xAD mRed o
  | .fence o => .m 0xAE mFence o
  | .barT o => .a 0xAF { g := true, d := .b } o | .barC o => .a 0xB0 rG o | .barG o => .a 0xB1 rG o
  | .cpy o => .e 0xC0 { d := .s, a := .sPair, sb1 := true, sb2 := true, num := true, scoMax := 4, md := [0, 1, 2, 3] } o
  | .cpyWany o => .e 0xC1 { sb1 := true } o | .cpyWall o => .e 0xC2 { sb1 := true } o
  | .cpyFfr o => .e 0xC3 { d := .s, sb1 := true } o | .cpyCancel o => .e 0xC4 { sb1 := true } o
  | .comb o => .e 0xC5 { sb1 := true, sb2 := true, num := true, scoMax := 4 } o
  | .mxgo o => .e 0xC6 { sb1 := true } o
  | .accRd o => .e 0xC7 { g := false, d := .vdir, a := .vdir, scoMax := 7, md := [0, 1], acc := true } o
  | .accWr o => .e 0xC8 { g := false, a := .vdir, scoMax := 7, md := [0, 1], acc := true } o
  | .accZero o => .e 0xC9 { g := false, scoMax := 7, md := [0, 1, 2], acc := true } o
  | .fsend o => .e 0xCA { a := .v, sb1 := true } o | .fsendS o => .e 0xCB { sb1 := true, sb2 := true } o
  | .frecv o => .e 0xCC { d := .vdir, a := .c, sb1 := true } o | .dlinkStat o => .e 0xCD { d := .s } o
  | .mxMma o => .q 0xD8 { fmt := true, tgt := 7, brow := true, arow := true, fb := true } o
  | .mxZero o => .q 0xD9 { tgt := 7 } o | .mxBar o => .q 0xDA { tgt := 15 } o
  | .mxFmt o => .q 0xDB { tgt := 7, arow := true } o | .mxEnd o => .q 0xDC {} o
  | .vjoin o => .a 0xE0 rG o | .vexit o => .a 0xE1 rG o | .yield o => .a 0xE2 rG o | .exit o => .a 0xE3 rG o
  | .rtt o => .a 0xE4 rG o | .ckpt o => .a 0xE5 rG o | .sigMark o => .a 0xE6 rG o | .halt o => .a 0xE7 rG o
  | .faddImm o => .i 0x00 iF o | .fsubImm o => .i 0x01 iF o | .fmulImm o => .i 0x02 iF o
  | .fminImm o => .i 0x06 iMM o | .fmaxImm o => .i 0x07 iMM o
  | .iaddImm o => .i 0x40 iIS o | .isubImm o => .i 0x41 iIS o | .imulImm o => .i 0x42 iI o
  | .iandImm o => .i 0x45 iI o | .iorImm o => .i 0x46 iI o | .ixorImm o => .i 0x47 iI o
  | .ishlImm o => .i 0x49 iI o | .ishrImm o => .i 0x4A iI o | .israImm o => .i 0x4B iI o
  | .iminImm o => .i 0x4C iI o | .imaxImm o => .i 0x4D iI o | .iminuImm o => .i 0x4E iI o | .imaxuImm o => .i 0x4F iI o
  | .vli o => .i 0x60 iI o | .kset o => .i 0x70 { g := true, d := .k, sr := true, imm := .low16 } o
  | .xsetImm o => .i 0x72 { d := .x, sr := true } o | .fmtset o => .i 0x76 { g := true, d := .f, sr := true } o
  | .wait o => .i 0xC5 { g := true } o | .dlinkTurn o => .i 0xCE { g := true, imm := .ratio } o
  | .vbr o => .i 0xE0 {} o | .reform o => .i 0xE2 { g := true, imm := .low4 } o
  | .trap o => .i 0xF0 { g := true, imm := .low16 } o | .brk o => .i 0xF1 { g := true, imm := .low16 } o
  | .sadd o => .s 0x00 s3 o | .ssub o => .s 0x01 s3 o | .smul o => .s 0x02 s3 o | .smulh o => .s 0x03 s3 o
  | .sdiv o => .s 0x04 s3 o | .srem o => .s 0x05 s3 o | .sand o => .s 0x06 s3 o | .sor o => .s 0x07 s3 o
  | .sxor o => .s 0x08 s3 o | .sshl o => .s 0x09 s3 o | .sshr o => .s 0x0A s3 o | .ssra o => .s 0x0B s3 o
  | .smin o => .s 0x0C s3 o | .smax o => .s 0x0D s3 o | .sminu o => .s 0x0E s3 o | .smaxu o => .s 0x0F s3 o
  | .sclz o => .s 0x10 s2 o | .spopc o => .s 0x11 s2 o | .sext o => .s 0x12 sFld o | .sins o => .s 0x13 sFld o
  | .ssel o => .s 0x14 { sd := .s, sa := .s, sb := .s, imm0 := .selc } o
  | .smov o => .s 0x15 { sd := .s, sb := .s, isel := [0, 1] } o
  | .sli o => .s 0x16 { sd := .s, isel := [1] } o | .slih o => .s 0x17 { sd := .s, isel := [1] } o
  | .scmpEq o => .s 0x20 sCmp o | .scmpNe o => .s 0x21 sCmp o | .scmpLt o => .s 0x22 sCmp o
  | .scmpLe o => .s 0x23 sCmp o | .scmpLtu o => .s 0x24 sCmp o | .scmpLeu o => .s 0x25 sCmp o
  | .cand o => .s 0x26 { sd := .c, sa := .c, sb := .c } o | .cor o => .s 0x27 { sd := .c, sa := .c, sb := .c } o
  | .cnot o => .s 0x28 { sd := .c, sa := .c } o
  | .bra o => .s 0x30 sBr o | .bcc o => .s 0x31 sBr o | .call o => .s 0x32 sBr o
  | .ret o => .s 0x33 {} o | .jr o => .s 0x34 { sa := .s } o | .loop o => .s 0x35 { sa := .s, isel := [1] } o
  | .sldB o => .s 0x40 sLd o | .sldH o => .s 0x41 sLd o | .sldW o => .s 0x42 sLd o | .sldD o => .s 0x43 sLd o
  | .sstB o => .s 0x44 sSt o | .sstH o => .s 0x45 sSt o | .sstW o => .s 0x46 sSt o | .sstD o => .s 0x47 sSt o
  | .spop o => .s 0x50 { sd := .s } o
  | .srd o => .s 0x51 { sd := .s, isel := [1], imm1 := .num } o
  | .swr o => .s 0x52 { sa := .s, isel := [1], imm1 := .num } o
  | .pair hi lo => .p hi lo
  | .tlbiComplete _ | .loadDataReturn _ _ _ | .storePerformed _ _ _ | .stashFill _ _ | .rowRecall _
  | .sliceSweep _ _ | .patrolScrub _ _ | .containmentEvent _ _ _ _ | .handlerEntry _ | .fatalTrap _
  | .replayableFault _ | .faultRecordPost _ | .faultReplay _ | .freplay _ _ | .debugEvent _ | .dbgres _ _
  | .dbgdatWrite _ _ | .dbgunlk _ _ | .dbgtok _ _ | .trig _ _ | .gload _ _ | .launchStart _ _
  | .dispatchStep | .eventWaitPoll _ _ _ | .kernelComplete _ _ _ | .launchComplete _ _ | .clusterRetire _
  | .barrierComplete _ | .binDraw _ | .reformDraw _ _ | .copyComplete _ _ _ | .copyCancelStop _ _ _
  | .spineChunkSelect _ | .spineChunkComplete _ _ | .budgetRefill _ _ _ | .remoteCopyAck _ _ _ _ _
  | .streamFetch _ _ | .mxStepComplete _ _ | .streamFault _ | .preemption _ | .atckTimeout _ | .spill _
  | .clusterRestore _ | .pmodeWrite _ _ | .applyCmd _ | .partitionHalt _ _ | .resume _ _ | .discard _ _
  | .deadlinePost _ _ | .deadlineSwitch _ | .evictionReport _ | .ps2inv _ _ | .stage2InvalComplete _
  | .turnWindow | .bundleTurnEnd _ | .fabricArrival _ | .nackReceive _ _ _ _ _ | .fabricAccept _ _
  | .portDown _ | .mailboxEnable _ _ _ | .linkRetry _ | .linkRetrain _ | .companionAccess _ _ _
  | .wiunoSnoop _ _ | .signatureBoundary _ | .logStall _ | .anchor _ _ | .anchdone _ _ | .replay _ _
  | .abort _ | .replayLoaded _ | .replayHoldRelease _ _ | .heldAccessTimeout _ | .rfmTimeout _
  | .arrTimeout _ | .replayBreakpoint _ | .endOfLog _ | .pcSample _ _ | .glitchSensor | .getVersion
  | .getCapabilities | .negotiateAlgorithms _ _ | .getDigests | .getCertificate _ | .challenge _ _
  | .getMeasurements _ | .load _ | .fabrst | .dbgkey _ | .powerGood | .powerWindow _ | .thermalSensor _
  | .registerWrite _ _ _ | .remoteCopyWrite _ _ _ _ | .transitForward _ _ | .fuseSenseCheck | .powerOff
  | .bringUpStepDone _ => .event

/-- Number of trailing zero bits of a nonzero number below 2^fuel; `fuel` when there is none. -/
def lowBit (x : Nat) : Nat → Nat
  | 0 => 0
  | fuel + 1 => if x % 2 = 1 then 0 else lowBit (x / 2) fuel + 1

/-- The lowest set bit of a word, of fields given in ascending order of position: position and value. -/
def firstBit : List (Nat × Nat) → Option Nat
  | [] => none
  | (pos, v) :: rest => if v = 0 then firstBit rest else some (pos + lowBit v 64)

/-- The position of the first field, in ascending order, whose value is reserved. -/
def firstField : List (Nat × Bool) → Option Nat
  | [] => none
  | (pos, bad) :: rest => if bad then some pos else firstField rest

/-- A failed decode check: cause group, code, lowest bit of the failing field in the word, and the half of a
P-form word (R76, R303). -/
structure Bad where
  group : Nat
  code : Nat
  bit : Nat
  half : Option Nat := none
  deriving DecidableEq, Repr

/-- Checks 3, 4 and 5 of R76 in order: reserved bits, unused fields, reserved values. -/
def checks (reserved unused : List (Nat × Nat)) (values : List (Nat × Bool)) : Option Bad :=
  match firstBit reserved with
  | some b => some { group := 2, code := 1, bit := b }
  | none => match firstBit unused with
    | some b => some { group := 2, code := 2, bit := b }
    | none => (firstField values).map fun b => { group := 1, code := 2, bit := b }

/-- The value of a field when it is unused, else 0. -/
def unusedVal (used : Bool) (v : Nat) : Nat := if used then 0 else v

/-- An unused register field, for check 4; kind `none` means unused. -/
def unusedKind (kd : Kind) (v : Nat) : Nat := if kd = .none then v else 0

/-- A reserved value in a register field of kind `kd`, for check 5. -/
def badKind (kd : Kind) (v : Nat) : Bool := decide (kd ≠ .none) && decide (kd.count ≤ v)

/-- The bits of PRED that are 0 where PRED must be 111 (R65). -/
def badPred (g : Bool) (p : BitVec 3) : Nat := if g then 7 - p.toNat else 0

def checkA (r : RowA) (o : OpA) : Option Bad :=
  let intRed := r.red && o.xf.getLsbD 3
  let op := (o.xf &&& 7).toNat
  checks [(2, (o.xf &&& ~~~r.xf).toNat)]
    [(0, unusedVal r.hb o.hb.toNat), (1, unusedVal r.ha o.ha.toNat), (8, unusedVal r.sat o.sat.toNat),
     (9, unusedVal r.rnd o.rnd.toNat), (12, unusedVal r.bp o.bp.toNat), (15, unusedKind r.b o.b.toNat),
     (25, unusedVal r.ap o.ap.toNat), (28, unusedKind r.a o.a.toNat), (38, unusedKind r.d o.d.toNat),
     (48, unusedVal (r.fmt && !intRed) o.fmt.toNat), (51, badPred r.g o.pred)]
    [(2, r.red && (decide (6 ≤ op) || (decide (3 ≤ op) && !intRed))),
     (9, r.rnd && decide (6 ≤ o.rnd.toNat)), (15, badKind r.b o.b.toNat),
     (28, badKind r.a o.a.toNat), (38, badKind r.d o.d.toNat)]

def checkC (fmt : Bool) (o : OpC) : Option Bad :=
  checks [] [(48, unusedVal fmt o.fmt.toNat)]
    [(2, badKind .v o.c.toNat), (15, badKind .v o.b.toNat), (28, badKind .v o.a.toNat), (38, badKind .v o.d.toNat)]

def checkM (r : RowM) (o : OpM) : Option Bad :=
  let aK := if o.scl = 7 && r.scl.contains 7 then Kind.none else r.a
  let scoUsed := match r.sco with | .no => false | .always => true | .whenOrd => decide (o.ord ≠ 0)
  let dK := if r.dirWid.contains o.wid.toNat then Kind.vdir else r.d
  checks []
    [(0, unusedVal r.base (o.disp &&& 7).toNat), (3, unusedVal (!r.ord.isEmpty) o.ord.toNat), (5, unusedVal scoUsed o.sco.toNat),
     (8, unusedVal r.hints o.dz.toNat), (9, unusedVal r.hints o.uc.toNat), (13, unusedVal (!r.wid.isEmpty) o.wid.toNat),
     (16, unusedVal (!r.scl.isEmpty) o.scl.toNat), (19, unusedVal r.base o.sb.toNat), (25, unusedVal r.base (o.disp >>> 3).toNat),
     (28, unusedKind aK o.a.toNat), (38, unusedKind r.d o.d.toNat), (48, o.fmt.toNat), (51, badPred r.g o.pred)]
    [(3, !r.ord.isEmpty && !r.ord.contains o.ord.toNat), (5, scoUsed && decide (5 ≤ o.sco.toNat)),
     (13, !r.wid.isEmpty && !r.wid.contains o.wid.toNat), (16, !r.scl.isEmpty && !r.scl.contains o.scl.toNat),
     (28, badKind aK o.a.toNat), (38, badKind dK o.d.toNat)]

def checkE (r : RowE) (o : OpE) : Option Bad :=
  let sb1 := r.sb1 || (r.acc && decide (o.md = 1))
  let num := r.num || (r.acc && decide (o.md = 0))
  checks []
    [(0, unusedVal (decide (r.md ≠ [0])) o.md.toNat), (3, unusedVal (decide (r.scoMax ≠ 0)) o.sco.toNat),
     (6, unusedVal num o.num.toNat), (13, unusedVal r.sb2 o.sb2.toNat), (19, unusedVal sb1 o.sb1.toNat),
     (28, unusedKind r.a o.a.toNat), (38, unusedKind r.d o.d.toNat), (48, o.fmt.toNat), (51, badPred r.g o.pred)]
    [(0, !r.md.contains o.md.toNat), (3, decide (r.scoMax < o.sco.toNat)),
     (6, r.acc && num && decide (32 ≤ o.num.toNat)), (28, badKind r.a o.a.toNat), (38, badKind r.d o.d.toNat)]

def checkQ (r : RowQ) (o : OpQ) : Option Bad :=
  checks []
    [(9, unusedVal r.fb o.fb.toNat), (12, unusedVal r.arow o.arow.toNat), (28, unusedVal r.brow o.brow.toNat),
     (38, if r.tgt = 0 then o.tgt.toNat else 0), (48, unusedVal r.fmt o.fmt.toNat)]
    [(12, r.arow && decide (4096 ≤ o.arow.toNat)), (28, r.brow && decide (768 ≤ o.brow.toNat)),
     (38, decide (r.tgt ≠ 0) && decide (r.tgt < o.tgt.toNat))]

def checkI (r : RowI) (o : OpI) : Option Bad :=
  let imm := o.imm.toNat
  let useSr := r.sr && decide (o.sr = 1)
  checks []
    [(0, if useSr then imm - imm % 64 else 0), (33, unusedVal r.sat o.sat.toNat), (34, unusedVal r.rnd o.rnd.toNat),
     (37, unusedVal r.sr o.sr.toNat), (38, unusedKind r.d o.d.toNat), (48, unusedVal r.fmt o.fmt.toNat),
     (51, badPred r.g o.pred)]
    [(0, !useSr && (match r.imm with
        | .any => false | .low16 => decide (65536 ≤ imm) | .low4 => decide (16 ≤ imm)
        | .ratio => decide (imm = 0) || decide (8 ≤ imm))),
     (34, r.rnd && decide (6 ≤ o.rnd.toNat)), (38, badKind r.d o.d.toNat)]

/-- The bits of IMM outside those an S-form word uses. -/
def SImm.unusedBits (u : SImm) (imm : Nat) : Nat :=
  match u with
  | .no => imm
  | .any => 0
  | .field => imm - imm % 64 - imm / 256 % 64 * 256
  | .selc => imm - imm % 8
  | .num => imm - imm % 4096

/-- A reserved value of IMM (R85, R97). -/
def SImm.bad (u : SImm) (imm : Nat) : Bool :=
  match u with
  | .field => decide (64 < imm % 64 + imm / 256 % 64 + 1)
  | .num => !srAssigned (imm % 4096)
  | .no | .any | .selc => false

def checkS (r : RowS) (o : OpS) : Option Bad :=
  let useImm := match r.isel with
    | [k] => if k = 1 then r.imm1 else r.imm0
    | _ => if o.isel = 1 then r.imm1 else r.imm0
  let sbK := if o.isel = 1 && r.isel.contains 1 && !r.sbKeeps then Kind.none else r.sb
  checks []
    [(0, useImm.unusedBits o.imm.toNat), (33, unusedKind sbK o.sb.toNat), (39, unusedKind r.sa o.sa.toNat),
     (45, unusedKind r.sd o.sd.toNat)]
    [(0, useImm.bad o.imm.toNat), (32, !r.isel.contains o.isel.toNat), (33, badKind sbK o.sb.toNat),
     (39, badKind r.sa o.sa.toNat), (45, badKind r.sd o.sd.toNat)]

/-- The P-form operations of R69 and their marks. -/
inductive PMark where
  | float | special | int
  deriving DecidableEq, Repr

def pMark (op : Nat) : Option PMark :=
  if op ≤ 0x06 then some .float
  else if op ≤ 0x17 then some .special
  else if 0x20 ≤ op ∧ op ≤ 0x34 then some .int
  else none

/-- Offset of a half's bits in the word: the low half is bits 30:0, the high half bits 61:31 (R66). -/
def halfBase (n : Nat) : Nat := if n = 1 then 31 else 0

/-- The checks of R76 on a P-form word, in order: assigned operations, unused FMT, reserved values, pairing
violations. When both halves fail a check the low half is named (R303). -/
def checkP (hi lo : Half) : Option Bad :=
  let both (f : Half → Bool) : Option Nat := if f lo then some 0 else if f hi then some 1 else none
  let bad (g c pos : Nat) (n : Nat) : Option Bad :=
    some { group := g, code := c, bit := pos + halfBase n, half := some n }
  match both (fun h => (pMark h.op.toNat).isNone) with
  | some n => bad 1 1 25 n
  | none =>
  match both (fun h => decide (pMark h.op.toNat = some .int) && decide (h.fmt ≠ 0)) with
  | some n => bad 2 2 (if ((if n = 1 then hi else lo).fmt).getLsbD 0 then 0 else 1) n
  | none =>
  match both (fun h => decide (776 ≤ h.a.toNat)) with
  | some n => bad 1 2 5 n
  | none =>
  if lo.d = hi.d then bad 1 4 15 0
  else match both (fun h => decide (768 ≤ h.d.toNat)) with
  | some n => bad 1 4 15 n
  | none =>
  if pMark lo.op.toNat = some .special ∧ pMark hi.op.toNat = some .special then bad 1 4 25 0 else none

/-- The field checks of a word of this shape: the first failure, or none for a legal word. -/
def check : Shape → Option Bad
  | .a _ r o => checkA r o
  | .c _ f o => checkC f o
  | .m _ r o => checkM r o
  | .e _ r o => checkE r o
  | .q _ r o => checkQ r o
  | .i _ r o => checkI r o
  | .s _ r o => checkS r o
  | .p hi lo => checkP hi lo
  | .event => none

end Sys2Proof.Enc
end

