-- ==== Sys2Proof/WellFormed.lean ====
section
/-! DEFINITION. Well-formed instructions: every field a word does not use is zero and every used field holds
a legal value (R59, R65, R68, R76). An event is always well-formed: the spec gives it no encoding. -/
namespace Sys2Proof

/-- The instruction breaks none of the checks 3 to 6 of R76. -/
def WellFormed (i : Instr) : Bool := (Enc.check (Enc.shape i)).isNone

/-- The instruction is a word of the part, not an event. -/
def Instr.isWord (i : Instr) : Bool :=
  match Enc.shape i with
  | .event => false
  | .a _ _ _ | .c _ _ _ | .m _ _ _ | .e _ _ _ | .q _ _ _ | .i _ _ _ | .s _ _ _ | .p _ _ => true

/-- The word belongs to a matrix stream (R75). -/
def Instr.isStream (i : Instr) : Bool :=
  match Enc.shape i with
  | .q _ _ _ => true
  | .event | .a _ _ _ | .c _ _ _ | .m _ _ _ | .e _ _ _ | .i _ _ _ | .s _ _ _ | .p _ _ => false

end Sys2Proof
end

