-- ==== Sys2Proof/Machine/Operands.lean ====
section
/-! DEFINITION. Every operand form: direct and indirect vector registers with permutes (R25 to R27, R60), spans
of registers, scalar operands (R72), immediates (R70), addresses (R134); the register checks of R19 and R25;
and which registers a word reads and writes (R23). -/
namespace Sys2Proof.Machine

/-- The source lane of reading lane `l` under a permute code (R26, R60). -/
def srcLane (perm : BitVec 3) (k0 k1 : BitVec 16) (l : Nat) : Nat :=
  let a := k0.toNat % 32
  let b := k1.toNat % 32
  match perm.toNat with
  | 0 => l
  | 1 => (l + a) % 32
  | 2 => (l + b) % 32
  | 3 => l ^^^ a
  | 4 => l ^^^ b
  | 5 => a
  | 6 => b
  | _ => 31 - l

/-- IDX, LEN and BASE of an index register (R24). -/
def xIdx (x : Lane) : Nat := (x.extractLsb' 0 10).toNat
def xLen (x : Lane) : Nat := (x.extractLsb' 10 10).toNat
def xBase (x : Lane) : Nat := (x.extractLsb' 20 10).toNat

/-- The register a V-kind code selects in lane `l` (R25). -/
def Group.rowOf (g : Group) (code : BitVec 10) (l : Nat) : Nat :=
  if code.toNat < 768 then code.toNat
  else let x := g.getX (code.toNat - 768) l; xBase x + xIdx x

/-- The value of a register source as delivered to lane `l` (R26, R27): a live source lane's value, else 0. -/
def Group.fetchV (g : Group) (code : BitVec 10) (perm : BitVec 3) (l : Nat) : Lane :=
  let m := srcLane perm g.regs.k0 g.regs.k1 l
  if g.live.getLsbD m then g.getV (g.rowOf code m) m else 0

/-- The detail of a register check: number and operand position (R303). -/
def regTrap (code pos n : Nat) (lane : Option Nat) : TrapReq := mkTrap 3 code (n + pos * 2 ^ 64) lane

/-- The checks of R19 and R25 on one operand of `span` consecutive registers. `lanes` pairs each active lane,
ascending, with the lane whose index register selects the row. -/
def Group.checkV (g : Group) (pos : Nat) (code : BitVec 10) (span : Nat) (lanes : List (Nat × Nat)) : Option TrapReq :=
  if code.toNat < 768 then
    let last := code.toNat + span - 1
    if g.id.claim ≤ last then some (regTrap 3 pos last none) else none
  else
    let k := code.toNat - 768
    lanes.findSome? fun (l, m) =>
      let x := g.getX k m
      if xLen x ≤ xIdx x then some (regTrap 1 pos k (some l))
      else if g.id.claim ≤ xBase x + xIdx x then some (regTrap 2 pos k (some l))
      else none

/-- The lanes whose index registers an unpermuted operand uses: the active lanes themselves. -/
def selfLanes (act : Lane) : List (Nat × Nat) := (lanesOf act).map fun l => (l, l)

/-- The lanes whose index registers a permuted source uses: live source lanes of the active lanes (R25). -/
def Group.srcLanes (g : Group) (perm : BitVec 3) (act : Lane) : List (Nat × Nat) :=
  ((lanesOf act).map fun l => (l, srcLane perm g.regs.k0 g.regs.k1 l)).filter fun (_, m) => g.live.getLsbD m

/-- The first trap of a list of checks, in order. -/
def firstTrap (l : List (Option TrapReq)) : Option TrapReq := l.findSome? id

/-- Writes a value to a V-kind destination in each lane of a mask. -/
def Group.writeV (g : Group) (code : BitVec 10) (act : Lane) (f : Nat → Lane) : Group :=
  (lanesOf act).foldl (fun h l => h.setV (g.rowOf code l) l (f l)) g

/-- The lanes of a mask where a condition holds. -/
def laneMask (f : Nat → Bool) : Lane :=
  BitVec.ofNat 32 ((allLanes.filter f).foldl (fun m l => m + 2 ^ l) 0)

/-- Writes per-lane bits into a predicate in the lanes of a mask. -/
def Group.writePred (g : Group) (n : Nat) (act : Lane) (f : Nat → Bool) : Group :=
  g.setP n ((g.getP n &&& ~~~act) ||| (act &&& laneMask f))

/-- The I-form operand (R70): IMM, or bits 31:0 of the scalar register named by IMM 5:0. -/
def Group.immV (g : Group) (o : OpI) : Lane :=
  if o.sr = 1 then (g.getS (o.imm.toNat % 64)).truncate 32 else o.imm

/-- The second source of an S-form word (R72). -/
def Group.srcB (g : Group) (o : OpS) : Word :=
  if o.isel = 1 then o.imm.signExtend 64 else g.getS o.sb.toNat

/-- Bytes of an access width code (R62). -/
def widBytes (w : BitVec 3) : Nat := 2 ^ w.toNat

/-- The displacement of layout M (R62). -/
def dispBytes (o : OpM) : Nat := o.disp.toNat * 8

/-- The address of lane `l` (R134): base, sign-extended scaled index, displacement, modulo 2^64. -/
def Group.addrOf (g : Group) (o : OpM) (idx : Nat → Lane) (l : Nat) : Word :=
  let i : Word := if o.scl = 7 then 0 else ((idx l).signExtend 64) * BitVec.ofNat 64 (2 ^ o.scl.toNat)
  g.getS o.sb.toNat + i + BitVec.ofNat 64 (dispBytes o)

/-- The target of a branch offset from the word at `pc` (R70). -/
def branchTarget (pc : Word) (imm : BitVec 32) : Word := pc + 8 + (imm.signExtend 64) * 8

/-- The registers a word reads and writes, as keys: v below 1000, s from 1000, c from 2000. -/
structure Uses where
  reads : List Nat := []
  writes : List Nat := []

/-- The register keys of a V-kind code over all lanes. -/
def Group.vKeys (g : Group) (code : BitVec 10) (span : Nat := 1) : List Nat :=
  if code.toNat < 768 then (List.range span).map fun j => code.toNat + j
  else (allLanes.map fun l => g.rowOf code l).eraseDups

/-- The key of a condition bit; c7 is no register that anything writes (R15). -/
def cKey (n : Nat) : List Nat := if n = 7 then [] else [2000 + n]

/-- The register keys of a field of some kind. -/
def Group.kindKeys (g : Group) (kd : Enc.Kind) (code : BitVec 10) (span : Nat := 1) : List Nat :=
  match kd with
  | .v | .vdir => g.vKeys code span
  | .s => [1000 + code.toNat]
  | .sPair => [1000 + code.toNat, 1001 + code.toNat]
  | .c => cKey code.toNat
  | .none | .p | .x | .k | .f | .b | .z | .sel => []

/-- Registers a data field of layout M spans (R135, R248, R256). -/
def memSpan (op : Nat) (wid : BitVec 3) : Nat :=
  if op = 0x84 ∨ op = 0x85 then 8
  else if op = 0xA7 then (if wid = 3 then 4 else 2)
  else if wid = 3 then 2 else if wid = 4 then 4 else 1

/-- Layout M opcodes whose D is read: stores, scatter, stash mapping, puts, atomics, reducing writes. -/
def memReadsD (op : Nat) : Bool :=
  op == 0x81 || op == 0x83 || (0x85 ≤ op && op ≤ 0x8A) || 0xA0 ≤ op

/-- Layout M opcodes whose D is written: loads, gather, gets, atomics. -/
def memWritesD (op : Nat) : Bool :=
  op == 0x80 || op == 0x82 || op == 0x84 || op == 0x8B || (0xA0 ≤ op && op ≤ 0xA7)

/-- Entry `n` of the group's view (R50, R51). -/
def Group.entry (g : Group) (n : Nat) : Fmt.Entry := Fmt.Entry.of (nth 0 g.view n)

/-- Registers of the wide side of a pack or unpack (R121, R122); an invalid entry has no elements, so it adds no register. -/
def packSpan (wide narrow : Fmt.Entry) : Nat :=
  if wide.v && narrow.v then max 1 ((narrow.perLane + wide.perLane - 1) / wide.perLane) else 1

/-- A float word with a block-scaled destination also reads the row it writes, for the lanes it leaves out (R123). -/
def Group.mixes (g : Group) (isFmt : Bool) (fmt : Nat) : Bool := isFmt && (g.entry fmt).sc != 0

/-- A half of a P-form word computes D op A, and so reads D (R69, R130). -/
def halfBinary (h : Half) : Bool :=
  h.op.toNat < 5 || (0x20 ≤ h.op.toNat && h.op.toNat ≤ 0x2E && h.op.toNat != 0x27)

/-- The registers a half of a P-form word reads (R67). -/
def Group.halfReads (g : Group) (h : Half) : List Nat :=
  g.vKeys h.a ++ (if halfBinary h || g.mixes (h.op.toNat < 0x20) h.fmt.toNat then g.vKeys h.d else [])

/-- The registers a word reads and writes (R23), from its shape. -/
def wordUses (g : Group) (i : Instr) : Uses :=
  match Enc.shape i with
  | .a op r o =>
    let d := g.kindKeys r.d o.d
    let fd := g.entry o.fmt.toNat
    let fs := g.entry (o.xf.toNat % 8)
    { reads := g.kindKeys r.a o.a (if op = 0x32 then packSpan fs fd else 1) ++ (if r.b = .sel then [] else g.kindKeys r.b o.b)
        ++ (if g.mixes r.fmt o.fmt.toNat then g.kindKeys r.d o.d else []),
      writes := if op = 0x33 then g.vKeys o.d (packSpan fd fs) else d }
  | .c _ fmt o => { reads := g.vKeys o.a ++ g.vKeys o.b ++ g.vKeys o.c ++ (if g.mixes fmt o.fmt.toNat then g.vKeys o.d else []), writes := g.vKeys o.d }
  | .m op r o =>
    let d := g.kindKeys r.d o.d (memSpan op o.wid)
    let a := if r.a = .c then [] else g.kindKeys r.a o.a (if op = 0x84 ∨ op = 0x85 then 8 else 1)
    { reads := (if memReadsD op then d else []) ++ a ++ (if r.base then [1000 + o.sb.toNat] else []),
      writes := (if memWritesD op then d else []) ++ (if r.a = .c then cKey o.a.toNat else []) }
  | .e op r o =>
    let isCpy := op = 0xC0
    let d := g.kindKeys r.d o.d 2
    let a := if op = 0xC7 then g.vKeys o.a else g.kindKeys r.a o.a 2
    { reads := (if isCpy then d else []) ++ (if op = 0xC7 ∨ op = 0xCC then [] else a)
        ++ (if r.sb1 || (r.acc && o.md = 1) then [1000 + o.sb1.toNat] else []) ++ (if r.sb2 then [1000 + o.sb2.toNat] else []),
      writes := (if isCpy then [] else d) ++ (if op = 0xC7 ∨ op = 0xCC then a else []) }
  | .q _ _ _ | .event => {}
  | .i _ r o =>
    let d := g.kindKeys r.d o.d
    { reads := d ++ (if o.sr = 1 then [1000 + o.imm.toNat % 64] else []), writes := d }
  | .s op r o =>
    let kk (kd : Enc.Kind) (f : BitVec 6) : List Nat := g.kindKeys kd (f.setWidth 10)
    if !g.getC o.cond.toNat then { reads := cKey o.cond.toNat } else
    { reads := cKey o.cond.toNat ++ kk r.sa o.sa ++ (if o.isel = 0 || r.sbKeeps then kk r.sb o.sb else [])
        ++ (if op = 0x14 then cKey (o.imm.toNat % 8) else []) ++ (if op = 0x33 then [1063] else [])
        ++ (if op = 0x13 ∨ op = 0x17 then kk r.sd o.sd else []),
      writes := kk r.sd o.sd ++ (if op = 0x32 then [1063] else []) ++ (if op = 0x35 then kk r.sa o.sa else []) }
  | .p hi lo => { reads := [hi, lo].flatMap g.halfReads, writes := [hi, lo].flatMap fun h => g.vKeys h.d }

/-- A pending load, atomic or get will still write a register that the word reads (R23). -/
def Group.interlocked (g : Group) (u : Uses) : Bool := g.ops.any fun o => o.dests.any fun k => u.reads.contains k

end Sys2Proof.Machine
end

