-- ==== Sys2Proof/Machine/Issue.lean ====
section
/-! DEFINITION. Issuing one word of a group: register interlocks (R23), the consumer of a failed access (R317),
retirement (LTIME, ENACC, counters, digests: R100, R396, R426, R427), and the three ends of a word: it retires,
stalls, or traps. -/
namespace Sys2Proof.Machine

/-- A register a word wrote, for the digests: kind and number of R396 and the lanes written. -/
structure WReg where
  kind : Nat
  num : Nat
  lanes : Lane := 1

/-- What a retired word wrote: registers, further register parts (tile rows), memory runs as mixed words, and
the number of a load whose data is still to come. -/
structure Writes where
  regs : List WReg := []
  parts : List Word := []
  runs : List Word := []
  pend : Option Nat := none

/-- How a word ends: it retires with a new state, group and next PC; it stalls and will issue again; it stays at
its address with the state and group changed (it waits, or was done in part); it traps with nothing changed, or
with the group, or the state and the group, changed as its rule says. -/
inductive WordRes where
  | done (s : State) (g : Group) (pc : Word) (w : Writes)
  | stall
  | hold (s : State) (g : Group)
  | trap (t : TrapReq)
  | trapG (g : Group) (t : TrapReq)
  | trapS (s : State) (g : Group) (t : TrapReq)

/-- One part of a register as mixed into RDIG (R396). -/
def digWord (value lane num kind : Nat) : Word :=
  BitVec.ofNat 64 (value + 2 ^ 32 * lane + 2 ^ 37 * num + 2 ^ 47 * kind)

/-- The parts of a written register in digest order (R396). -/
def WReg.words (g : Group) (r : WReg) : List Word :=
  match r.kind with
  | 0 => (lanesOf r.lanes).map fun l => digWord (g.getV r.num l).toNat l r.num 0
  | 1 => (lanesOf r.lanes).map fun l => digWord (g.getX r.num l).toNat l r.num 1
  | 2 => (List.range 4).map fun j => digWord ((g.getZ r.num).extractLsb' (32 * j) 32).toNat j r.num 2
  | 3 => [digWord (g.getP r.num).toNat 0 r.num 3]
  | 4 => [digWord (if r.num = 0 then g.regs.k0 else g.regs.k1).toNat 0 r.num 4]
  | 5 => (List.range 2).map fun j => digWord ((g.getS r.num).extractLsb' (32 * j) 32).toNat j r.num 5
  | _ => [digWord (g.getC r.num).toNat 0 r.num 6]

/-- The digest item of a retired word. -/
def Writes.item (w : Writes) (g : Group) : DigItem :=
  { inst := w.pend, r := (w.regs.flatMap fun x => x.words g) ++ w.parts, m := w.runs }

/-- A V-kind destination as digest registers, row by row in ascending order. -/
def Group.vWrites (g : Group) (code : BitVec 10) (act : Lane) (span : Nat := 1) : List WReg :=
  if code.toNat < 768 then (List.range span).map fun j => { kind := 0, num := code.toNat + j, lanes := act }
  else ((lanesOf act).map fun l => g.rowOf code l).eraseDups.map fun n =>
    { kind := 0, num := n, lanes := laneMask fun l => act.getLsbD l && g.rowOf code l == n }

/-- The weight class of a word (R427): 0 to 7 by OP bits 61:59, 8 for the S-form, 9 for the P-form. -/
def wordClass (i : Instr) : Nat :=
  match Enc.shape i with
  | .a op _ _ | .c op _ _ | .m op _ _ | .e op _ _ | .q op _ _ | .i op _ _ => op / 32
  | .s _ _ _ => 8
  | .p _ _ => 9
  | .event => 10

/-- The energy weight of a class, or of an `mx.mma` step for class 10, from EWT0 to EWT2 (R427). -/
def classWeight (r : Staged) (c : Nat) : Word :=
  let w (x : Word) (i : Nat) : Word := (x.extractLsb' (16 * i) 16).setWidth 64
  if c < 4 then w r.ewt0 c else if c < 8 then w r.ewt1 (c - 4) else w r.ewt2 (c - 8)

/-- Adds to the counters of a VF that select an event (R426). -/
def State.count (s : State) (vf ev n : Nat) : State :=
  let v := s.vf vf
  if v.csel.any fun c => c.toNat % 256 == ev then
    s.setVf { v with cnt := List.zipWith (fun c x => if c.toNat % 256 = ev then x + BitVec.ofNat 64 n else x) v.csel v.cnt }
  else s

/-- The latch of an operand position after a word that reads it (R21). -/
def newLatch (g : Group) (code : BitVec 10) (perm : BitVec 3) : Option Latch :=
  let k := if perm = 1 ∨ perm = 3 ∨ perm = 5 then g.regs.k0 else if perm = 2 ∨ perm = 4 ∨ perm = 6 then g.regs.k1 else 0
  some { reg := code.toNat, perm, kval := k, values := allLanes.map fun l => g.fetchV code perm l }

/-- The hold latches after the operand reads of an F-form word (R21): layouts A and C name A and B, layouts M and E read A. -/
def Group.latched (g : Group) (i : Instr) : Group :=
  let isV (kd : Enc.Kind) : Bool := kd == .v || kd == .vdir
  match Enc.shape i with
  | .a _ r o =>
    { g with latchA := if isV r.a then newLatch g o.a o.ap else g.latchA,
             latchB := if isV r.b then newLatch g o.b o.bp else g.latchB }
  | .c _ _ o => { g with latchA := newLatch g o.a o.ap, latchB := newLatch g o.b o.bp }
  | .m _ r o => if isV r.a && (r.scl.isEmpty || o.scl != 7) then { g with latchA := newLatch g o.a 0 } else g
  | .e op r o => if isV r.a && op != 0xC7 then { g with latchA := newLatch g o.a 0 } else g
  | .q _ _ _ | .i _ _ _ | .s _ _ _ | .p _ _ | .event => g

/-- The staged registers in force for a VF: the energy weights (R427) and SIGL (R398) among them. -/
def State.weights (s : State) (vf : Nat) : Staged := ((s.partOf vf).map (·.force)).getD Staged.reset

/-- The word enters the forward queue (R28): every word but those of the S-form. -/
def isVector (i : Instr) : Bool :=
  match Enc.shape i with
  | .s _ _ _ | .event | .q _ _ _ => false
  | .a _ _ _ | .c _ _ _ | .m _ _ _ | .e _ _ _ | .i _ _ _ | .p _ _ => true

/-- The word is a memory-class vector word for R29; `wait` counts as one (R151), and the words on copy tags do (R272). -/
def isMemClass (i : Instr) : Bool :=
  match Enc.shape i with
  | .m _ _ _ => true
  | .i op _ _ => op == 0xC5
  | .e op _ _ => 0xC1 ≤ op && op ≤ 0xC4
  | .a _ _ _ | .c _ _ _ | .q _ _ _ | .s _ _ _ | .p _ _ | .event => false

/-- Forward-queue slots taken by every `vput` that waits and the words behind it (R28). -/
def Group.fqUsed (g : Group) : Nat := g.fqHeld.foldl (fun n (w, _) => n + w) 0

/-- One more vector word is queued behind the last `vput` that waits. -/
def heldMore (l : List (Nat × Nat)) (mem : Bool) : List (Nat × Nat) :=
  match l with
  | [] => []
  | [(w, m)] => [(w + 1, m + mem.toNat)]
  | x :: r => x :: heldMore r mem

/-- A partition that replays has made progress (R405). -/
def State.progressed (s : State) (vf : Nat) : State :=
  if s.log vf = 2 then match s.partOf vf with
    | some p => s.setPart { p with log := { p.log with progressAt := s.ns } }
    | none => s
  else s

/-- A memory-class instruction is counted on its core, and each MN-th is sampled (R421, R423); its report is made once no access
of it is pending. -/
def State.sampleWord (s : State) (g : Group) (i : Instr) : State :=
  match Enc.shape i, s.partOf g.id.vf with
  | .m _ _ o, some p =>
    let mn := p.force.smpctl.toNat / 2 ^ 48
    if wordClass i ≠ 4 ∨ mn = 0 then s
    else
      let n := (Sparse.get 0 p.sampled g.id.core + 1) % mn
      let s1 := s.setPart { p with sampled := Sparse.set 0 p.sampled g.id.core n }
      let parts := (g.ops.filter fun x => x.ltime == g.ltime).flatMap fun x => x.parts
      let act := g.active o.pred
      if n ≠ 0 then s1
      else { s1 with samples := s1.samples ++ [({ key := g.id.key, vf := g.id.vf, pc := g.pc, ltime := g.ltime, mask := act
                                                  sectors := ((parts.map fun x => x.addr / 32).eraseDups).length, replays := g.replays
                                                  lane := ((lanesOf act).getLast?).getD 0, issued := s.clock } : Sample)] }
  | _, _ => s

/-- A word ends in a trap; a sampled memory instruction reports it unless it will be replayed. -/
def State.trapWord (s : State) (g : Group) (i : Instr) (t : TrapReq) : State :=
  (if replayable t.grp t.code then s else s.sampleWord g i).takeTrap g { t with pc := g.pc }

/-- The registers a word has written, by key and lane. -/
def Writes.keys (w : Writes) : List (Nat × Nat) :=
  w.regs.flatMap fun r => match r.kind with
    | 0 => (lanesOf r.lanes).map fun l => (r.num, l)
    | 5 => [(1000 + r.num, 0)]
    | 6 => [(2000 + r.num, 0)]
    | _ => []

/-- A word retires: the group's PC, LTIME and ENACC advance, a written register no longer awaits a failed
access, and the digests receive what was written when the run is recorded or replayed. -/
def State.retire (s : State) (g : Group) (i : Instr) (pc : Word) (w : Writes) : State :=
  let log := s.log g.id.vf
  let ks := w.keys ++ (g.ops.filter fun o => o.ltime == g.ltime).flatMap MemOp.targets
  let g' := { g with
    pc := pc, ltime := g.ltime + 1, exempt := false, again := false
    enacc := g.enacc + classWeight (s.weights g.id.vf) (wordClass i)
    failed := g.failed.map fun f => { f with regs := f.regs.filter fun k => !ks.contains k }
    fqHeld := if isVector i then heldMore g.fqHeld (isMemClass i) else g.fqHeld
    fqSince := if isVector i then g.fqSince + 1 else g.fqSince
    dig := if log = 0 then g.dig else g.dig ++ [w.item g] }
  let s' := (((s.sampleWord g i).setGroup g').count g.id.vf 1 1).progressed g.id.vf
  match s'.team? g.id.team with
  | none => s'
  | some t =>
    let n := t.retired + 1
    let due : Bool := log != 0 && n % 2 ^ ((s.weights g.id.vf).qrcfg.extractLsb' 8 5).toNat == 0
    s'.setTeam { t with retired := n, sig := { t.sig with mark := t.sig.mark || due } }

/-- A trap of one half: PF, and HALF 1 for the high half (R303). -/
def TrapReq.ofHalf (t : TrapReq) (high : Bool) : TrapReq :=
  { t with detail := t.detail ||| BitVec.ofNat 96 (2 ^ 94 + high.toNat * 2 ^ 95) }

/-- A trap that a word raises for a register: for a P-form word it names the half that the register is of, the low one where both
are (R67, R303). -/
def TrapReq.atWord (t : TrapReq) (i : Instr) (mine : Half → Bool) : TrapReq :=
  match Enc.shape i with
  | .p hi lo => if mine lo then t.ofHalf false else if mine hi then t.ofHalf true else t
  | .a _ _ _ | .c _ _ _ | .m _ _ _ | .e _ _ _ | .q _ _ _ | .i _ _ _ | .s _ _ _ | .event => t

/-- A register row of a matrix group, as a location of the conflict checker (R299). -/
def rowLoc (key row : Nat) : Nat := 2 ^ 62 + key * 1024 + row

/-- The register rows that a word of a group writes, at its issue and at the return of what it asked for; `g'` is the group after it. -/
def Group.rowsWritten (g g' : Group) (w : Writes) : List Nat :=
  (w.regs.filter fun r => r.kind == 0 && r.lanes != 0).map (·.num)
    ++ ((((g'.ops.filter fun o => g.nextInst ≤ o.id).flatMap MemOp.targets).map (·.1)).filter fun n => n < 768).eraseDups

/-- With DET = 1 a matrix group's register writes, those of its loads among them, are checked against the rows that its team's sequencer
has read, and are recorded (R299). -/
def State.rowWrites (s : State) (g g' : Group) (i : Instr) (w : Writes) : Except TrapReq State :=
  if s.det g.id.vf && ((s.team? g.id.team).map fun t => t.mx.contains g.id.grpid).getD false then
    let c := s.confOf g g.ltime true false false
    let rows := g.rowsWritten g' w
    match rows.findSome? fun n => (s.conflictAt (rowLoc g.id.key n) c g.mxSeen).map fun a => (n, a) with
    | some (n, a) => .error ((conflictTrap n 2 a false none).atWord i fun h => h.d.toNat == n)
    | none => .ok (rows.foldl (fun s n => s.conflictPut (rowLoc g.id.key n) c) s)
  else .ok s

/-- The group as its word leaves it, without operations that ended while the word issued: the walk of its translation, or a row it
reads, may have let a pending stash store of the group into its row (R200). -/
def State.current (s : State) (g g' : Group) : Group :=
  match s.group? g.id.key with
  | none => g'
  | some h => { g' with ops := g'.ops.filter fun o => h.ops.contains o || !g.ops.contains o }

/-- The group after its word's writes and new operations: older operations lose the registers that the word wrote, or that a new
operation will write (R23), and the new ones stand behind the `vput` that wait (R28). -/
def Group.sequenced (g' : Group) (g : Group) (i : Instr) (w : Writes) : Group :=
  let n := g.nextInst
  let g1 := g'.supersede n (w.keys ++ (g'.ops.filter fun o => n ≤ o.id).flatMap MemOp.targets)
  if isVector i then { g1 with ops := g1.ops.map fun o => if n ≤ o.id then { o with behind := g.fqHeld.length } else o } else g1

/-- The word of a group-stream instruction issues in the current group; in REPLAY a logged trap at its count is raised in its
place (R406). It waits for registers that loads will
write and for a slot of the forward queue, consumes a failed access, then runs; its trap is taken at the group's PC. -/
def runWord (s : State) (i : Instr) (f : State → Group → WordRes) : Host.Outcome State Fault Refusal :=
  match s.curGroup with
  | none => .fault .noGroup
  | some g =>
    let u := wordUses g i
    match s.logged g 6 with
    | some e => .next (s.takeTrap g { TrapReq.ofEvent e with pc := g.pc })
    | none =>
    if g.interlocked u || (isVector i && 32 ≤ g.fqUsed) || (g.speculative && s.log g.id.vf != 0) then .next s
    else match g.failed.find? fun x => x.regs.any fun k => u.reads.contains k.1 with
      | some x =>
        let t := x.trap.atWord i fun h => (g.halfReads h).any fun k => x.regs.any fun r => r.1 == k
        .next (s.takeTrap { g with failed := g.failed.erase x } { t with pc := g.pc })
      | none => match f s (g.latched i) with
        | .stall => .next s
        | .hold s' g' => .next (s'.setGroup ((s'.current g g').sequenced g i {}))
        | .trap t => .next (s.trapWord g i t)
        | .trapG g' t => .next ((s.setGroup g').trapWord g' i t)
        | .trapS s' g' t =>
          let g1 := (s'.current g g').sequenced g i {}
          if t.grp = 31 then .next s else .next ((s'.setGroup g1).trapWord g1 i t)
        | .done s' g' pc w => match s'.rowWrites g g' i w with
          | .error t => .next (s.takeTrap g { t with pc := g.pc })
          | .ok s1 => .next (s1.retire ((s'.current g g').sequenced g i w) i pc w)

/-- A word that retires at the following word. -/
def WordRes.next (s : State) (g : Group) (w : Writes := {}) : WordRes := .done s g (g.pc + 8) w

/-- Words whose effect reaches beyond the group wait until every older access has passed its checks (R23). -/
def settled (g : Group) (r : WordRes) : WordRes := if g.speculative then .stall else r

/-- A word that waits on the counters of failed accesses consumes the first of them: a fence, a barrier, `reform` or `exit` waits on
both counters, `wait` on those it names. Of an access that a drain has waited for, the registers must have been written
since (R317). -/
def consuming (s : State) (g : Group) (r : WordRes) (loads : Bool := true) (stores : Bool := true) : WordRes :=
  match g.failed.find? fun x => (if x.isStore then stores else loads) && (!x.drained || x.regs.isEmpty) with
  | some x => .trapS s { g with failed := g.failed.erase x } x.trap
  | none => r

end Sys2Proof.Machine
end

