-- ==== Sys2Proof/Machine/Control.lean ====
section
/-! DEFINITION. Divergent control (R143 to R147), the words that end threads and groups and enter or leave
handlers (R148, R308, R309), `yield` (R175), `ckpt` and `halt` (R330). -/
namespace Sys2Proof.Machine

/-- The entries on the divergence stack, top first. -/
def Group.stack (g : Group) : List DivEntry := (g.dv.take g.dvDepth).reverse

/-- Pushes an entry. -/
def Group.push (g : Group) (e : DivEntry) : Group := { g with dv := putNth g.dv g.dvDepth e, dvDepth := g.dvDepth + 1 }

/-- Words that decide the next PC on the vector side wait for the forward queue (R146). -/
def vectorSide (g : Group) (r : WordRes) : WordRes := if g.fqHeld.isEmpty then r else .stall

/-- `vbr` splits M by a predicate (R144). -/
def execVbr (o : OpI) (s : State) : Host.Outcome State Fault Refusal :=
  runWord s (.vbr o) fun s g => vectorSide g <|
    let m := g.mask &&& g.live
    let t := m &&& g.getP o.pred.toNat
    let f := m &&& ~~~(g.getP o.pred.toNat)
    let both := t ≠ 0 ∧ f ≠ 0
    if 16 < g.dvDepth + (if both then 2 else 1) then .trap (mkTrap 14 1 g.dvDepth)
    else
      let g1 := g.push { isPath := false, pc := 0, mask := m }
      let target := branchTarget g.pc o.imm
      if both then .done s { g1.push { isPath := true, pc := g.pc + 8, mask := f } with mask := t } target {}
      else .done s g1 (if t ≠ 0 then target else g.pc + 8) {}

/-- The entry below a popped PATH takes the address of the word after the `vjoin`. -/
def setBelow (l : List DivEntry) (n : Nat) (pc : Word) : List DivEntry :=
  putNth l n { nth { isPath := false, pc := 0, mask := 0 } l n with pc := pc }

/-- `vjoin` pops one entry (R145). -/
def execVjoin (o : OpA) (s : State) : Host.Outcome State Fault Refusal :=
  runWord s (.vjoin o) fun s g => vectorSide g <|
    match g.stack with
    | [] => .trap (mkTrap 14 2 0)
    | e :: _ =>
      let n := g.dvDepth - 1
      if e.isPath then
        .done s { g with dv := if n = 0 then g.dv else setBelow g.dv (n - 1) (g.pc + 8), dvDepth := n, mask := e.mask } e.pc {}
      else .next s { g with dvDepth := n, mask := e.mask }

/-- What the loop of R147 finds on a stack, top first: a place to go on, nothing, or a JOIN with lanes not yet
reached. -/
inductive Unwound where
  | goTo (mask : Lane) (pc : Word) (depth : Nat)
  | empty
  | stuck
  deriving DecidableEq, Repr

/-- The loop of R147. -/
def unwind : List DivEntry → Unwound
  | [] => .empty
  | e :: r =>
    if e.mask = 0 then unwind r
    else if e.isPath || e.pc != 0 then .goTo e.mask e.pc r.length
    else .stuck

/-- The group with lanes removed from M, and from the mask of every entry on the stack. -/
def Group.without (g : Group) (m : Lane) : Group :=
  { g with dv := g.dv.zipIdx.map fun (e, i) => if i < g.dvDepth then { e with mask := e.mask &&& ~~~m } else e,
           mask := g.mask &&& ~~~m }

/-- A group's energy goes to its team's record, at a filing and when the group ends; each part once (R189, R428; log entry 107). -/
def State.bankEnergy (s : State) (g : Group) : State :=
  match s.team? g.id.team with
  | some t => s.setTeam { t with enacc := t.enacc + (g.enacc - g.enBanked) }
  | none => s

/-- `vexit` ends the threads of M and resumes the group by the loop of R147. -/
def execVexit (o : OpA) (s : State) : Host.Outcome State Fault Refusal :=
  runWord s (.vexit o) fun s g => vectorSide g <| settled g <|
    let m := g.mask &&& g.live
    let g' := { g.without m with live := g.live &&& ~~~m }
    match unwind g'.stack with
    | .stuck => .trap (mkTrap 14 3 g.dvDepth)
    | .empty => .done s g'.finish (g.pc + 8) {}
    | .goTo mk pc n => .done s { g' with mask := mk, dvDepth := n } pc {}

/-- `exit` ends every thread of the group (R148, R149). -/
def execExit (o : OpA) (s : State) : Host.Outcome State Fault Refusal :=
  runWord s (.exit o) fun s g => vectorSide g <| settled g <| consuming s g <| .next s g.finish

/-- `yield` makes the group the youngest of its quadrant (R175). -/
def execYield (o : OpA) (s : State) : Host.Outcome State Fault Refusal :=
  runWord s (.yield o) fun s g =>
    let here := s.groups.filter fun h => h.id.core == g.id.core && h.id.quad == g.id.quad
    .next s { g with id := { g.id with age := (here.foldl (fun n h => max n h.id.age) 0) + 1 } }

/-- `trap` raises its software trap (R309). -/
def execTrap (o : OpI) (s : State) : Host.Outcome State Fault Refusal :=
  runWord s (.trap o) fun _ _ => .trap (mkTrap 19 (o.imm.toNat % 65536) 0)

/-- `brk` stops the group for an attached debug agent, and has no effect otherwise (R148, R320). -/
def execBrk (o : OpI) (s : State) : Host.Outcome State Fault Refusal :=
  runWord s (.brk o) fun s g =>
    if s.attached g.id.vf then .trap (mkTrap 18 1 (o.imm.toNat % 65536)) else .next s g

/-- `rtt` returns from a handler (R308). -/
def execRtt (o : OpA) (s : State) : Host.Outcome State Fault Refusal :=
  runWord s (.rtt o) fun s g => settled g <|
    if g.trap.lvl = 0 then .trap (mkTrap 1 5 0)
    else if g.dvDepth ≠ (if g.trap.lvl = 1 then g.trap.udepth else g.trap.sdepth).toNat then .trap (mkTrap 14 4 g.dvDepth)
    else .done s g.leaveHandler g.leaveHandler.pc {}

/-- `ckpt` stops the group when a HALT with ATCK is pending for its cluster (R330). -/
def execCkpt (o : OpA) (s : State) : Host.Outcome State Fault Refusal :=
  runWord s (.ckpt o) fun s g =>
    match s.cluster? g.id.cluster with
    | some c => if c.halting && c.atck then .next s { g with wait := .stopped } else .next s g
    | none => .next s g

/-- `halt` at level 2 halts its cluster in place and sets the HLT bit of its VF slot (R330). -/
def execHalt (o : OpA) (s : State) : Host.Outcome State Fault Refusal :=
  runWord s (.halt o) fun s g => settled g <|
    if g.trap.lvl.toNat < 2 then .trap (mkTrap 7 16 0)
    else
      let s1 := match s.cluster? g.id.cluster with
        | some c => s.setCluster { c with halting := true, atck := false, resumable := false, cause := 1, told := s.ns }
        | none => s
      let s2 := match s1.partOf g.id.vf with
        | some p => match p.slotOf g.id.vf with
          | some i => s1.setPart { p with hlt := p.hlt ||| (1#16 <<< i) }
          | none => s1
        | none => s1
      .next s2 g

end Sys2Proof.Machine
end

