-- ==== Sys2Proof/Decode.lean ====
section
/-! DEFINITION. Decoding of group-stream words in the order of R76 and of stream words in the order of R75,
and the encoder: the word of a well-formed instruction, packed from the layouts of R58, R61 to R64, R66, R70
and R72. Decoding is total: any 64 bits give an instruction or a named failure. -/
namespace Sys2Proof

namespace Dec

/-- Layout A fields of a word (R58, R61). -/
def opA (w : Word) : OpA :=
  { pred := w.extractLsb' 51 3, fmt := w.extractLsb' 48 3, d := w.extractLsb' 38 10, a := w.extractLsb' 28 10,
    ap := w.extractLsb' 25 3, b := w.extractLsb' 15 10, bp := w.extractLsb' 12 3, rnd := w.extractLsb' 9 3,
    sat := w.extractLsb' 8 1, xf := w.extractLsb' 2 6, ha := w.extractLsb' 1 1, hb := w.extractLsb' 0 1 }

/-- Layout C fields of a word (R58, R61). -/
def opC (w : Word) : OpC :=
  { pred := w.extractLsb' 51 3, fmt := w.extractLsb' 48 3, d := w.extractLsb' 38 10, a := w.extractLsb' 28 10,
    ap := w.extractLsb' 25 3, b := w.extractLsb' 15 10, bp := w.extractLsb' 12 3, c := w.extractLsb' 2 10,
    ha := w.extractLsb' 1 1, hb := w.extractLsb' 0 1 }

/-- Layout M fields of a word (R62); DISP is split over bits 27:25 and 2:0. -/
def opM (w : Word) : OpM :=
  { pred := w.extractLsb' 51 3, fmt := w.extractLsb' 48 3, d := w.extractLsb' 38 10, a := w.extractLsb' 28 10,
    disp := w.extractLsb' 25 3 ++ w.extractLsb' 0 3, sb := w.extractLsb' 19 6, scl := w.extractLsb' 16 3,
    wid := w.extractLsb' 13 3, uc := w.extractLsb' 9 4, dz := w.extractLsb' 8 1, sco := w.extractLsb' 5 3,
    ord := w.extractLsb' 3 2 }

/-- Layout E fields of a word (R63). -/
def opE (w : Word) : OpE :=
  { pred := w.extractLsb' 51 3, fmt := w.extractLsb' 48 3, d := w.extractLsb' 38 10, a := w.extractLsb' 28 10,
    sb1 := w.extractLsb' 19 6, sb2 := w.extractLsb' 13 6, num := w.extractLsb' 6 6, sco := w.extractLsb' 3 3,
    md := w.extractLsb' 0 3 }

/-- Layout Q fields of a word (R64). -/
def opQ (w : Word) : OpQ :=
  { fmt := w.extractLsb' 48 3, tgt := w.extractLsb' 38 10, brow := w.extractLsb' 28 10,
    arow := w.extractLsb' 12 13, fb := w.extractLsb' 9 3 }

/-- I-form fields of a word (R70). -/
def opI (w : Word) : OpI :=
  { pred := w.extractLsb' 51 3, fmt := w.extractLsb' 48 3, d := w.extractLsb' 38 10, sr := w.extractLsb' 37 1,
    rnd := w.extractLsb' 34 3, sat := w.extractLsb' 33 1, imm := w.extractLsb' 0 32 }

/-- S-form fields of a word (R72). -/
def opS (w : Word) : OpS :=
  { cond := w.extractLsb' 51 3, sd := w.extractLsb' 45 6, sa := w.extractLsb' 39 6, sb := w.extractLsb' 33 6,
    isel := w.extractLsb' 32 1, imm := w.extractLsb' 0 32 }

/-- The half of a P-form word whose lowest bit is `base` (R66). -/
def half (w : Word) (base : Nat) : Half :=
  { op := w.extractLsb' (base + 25) 6, d := w.extractLsb' (base + 15) 10, a := w.extractLsb' (base + 5) 10,
    ap := w.extractLsb' (base + 2) 3, fmt := w.extractLsb' base 2 }

/-- The F-form opcode map of a group stream (R74): the instruction of an assigned OP. -/
def buildF (op : Nat) (w : Word) : Option Instr :=
  match op with
  | 0x00 => some (.fadd (opA w))
  | 0x01 => some (.fsub (opA w))
  | 0x02 => some (.fmul (opA w))
  | 0x03 => some (.fma (opC w))
  | 0x04 => some (.fms (opC w))
  | 0x05 => some (.fnma (opC w))
  | 0x06 => some (.fmin (opA w))
  | 0x07 => some (.fmax (opA w))
  | 0x08 => some (.fabs (opA w))
  | 0x09 => some (.fneg (opA w))
  | 0x0A => some (.fcmpEq (opA w))
  | 0x0B => some (.fcmpLt (opA w))
  | 0x0C => some (.fcmpLe (opA w))
  | 0x0D => some (.fcmpUn (opA w))
  | 0x0E => some (.fsel (opA w))
  | 0x20 => some (.fcvt (opA w))
  | 0x21 => some (.frnd (opA w))
  | 0x22 => some (.fsqrt (opA w))
  | 0x23 => some (.fdiv (opA w))
  | 0x24 => some (.fexp2q (opA w))
  | 0x25 => some (.fexp2r (opA w))
  | 0x26 => some (.flog2q (opA w))
  | 0x27 => some (.flog2r (opA w))
  | 0x28 => some (.fsinpq (opA w))
  | 0x29 => some (.fsinpr (opA w))
  | 0x2A => some (.fcospq (opA w))
  | 0x2B => some (.fcospr (opA w))
  | 0x2C => some (.ftanhq (opA w))
  | 0x2D => some (.ftanhr (opA w))
  | 0x2E => some (.frcpq (opA w))
  | 0x2F => some (.frcpr (opA w))
  | 0x30 => some (.frsqq (opA w))
  | 0x31 => some (.frsqr (opA w))
  | 0x32 => some (.fpack (opA w))
  | 0x33 => some (.funpack (opA w))
  | 0x40 => some (.iadd (opA w))
  | 0x41 => some (.isub (opA w))
  | 0x42 => some (.imul (opA w))
  | 0x43 => some (.imulh (opA w))
  | 0x44 => some (.imad (opC w))
  | 0x45 => some (.iand (opA w))
  | 0x46 => some (.ior (opA w))
  | 0x47 => some (.ixor (opA w))
  | 0x48 => some (.inot (opA w))
  | 0x49 => some (.ishl (opA w))
  | 0x4A => some (.ishr (opA w))
  | 0x4B => some (.isra (opA w))
  | 0x4C => some (.imin (opA w))
  | 0x4D => some (.imax (opA w))
  | 0x4E => some (.iminu (opA w))
  | 0x4F => some (.imaxu (opA w))
  | 0x50 => some (.iabs (opA w))
  | 0x51 => some (.ineg (opA w))
  | 0x52 => some (.ipopc (opA w))
  | 0x53 => some (.iclz (opA w))
  | 0x54 => some (.ibrev (opA w))
  | 0x55 => some (.isel (opA w))
  | 0x56 => some (.icmpEq (opA w))
  | 0x57 => some (.icmpNe (opA w))
  | 0x58 => some (.icmpLt (opA w))
  | 0x59 => some (.icmpLe (opA w))
  | 0x5A => some (.icmpLtu (opA w))
  | 0x5B => some (.icmpLeu (opA w))
  | 0x60 => some (.vmov (opA w))
  | 0x61 => some (.vperm (opA w))
  | 0x62 => some (.vredx (opA w))
  | 0x63 => some (.vscan (opA w))
  | 0x64 => some (.vlane (opA w))
  | 0x65 => some (.vput (opA w))
  | 0x66 => some (.pand (opA w))
  | 0x67 => some (.por (opA w))
  | 0x68 => some (.pxor (opA w))
  | 0x69 => some (.pnot (opA w))
  | 0x6A => some (.pmov (opA w))
  | 0x6B => some (.pany (opA w))
  | 0x6C => some (.pall (opA w))
  | 0x6D => some (.ppopc (opA w))
  | 0x6E => some (.pfirst (opA w))
  | 0x6F => some (.zset (opA w))
  | 0x70 => some (.zget (opA w))
  | 0x71 => some (.zmov (opA w))
  | 0x72 => some (.xset (opA w))
  | 0x73 => some (.xidx (opA w))
  | 0x74 => some (.xinc (opA w))
  | 0x75 => some (.xget (opA w))
  | 0x76 => some (.fmtget (opA w))
  | 0x80 => some (.vldG (opM w))
  | 0x81 => some (.vstG (opM w))
  | 0x82 => some (.vldS (opM w))
  | 0x83 => some (.vstS (opM w))
  | 0x84 => some (.vgath (opM w))
  | 0x85 => some (.vscat (opM w))
  | 0x86 => some (.stmap (opM w))
  | 0x87 => some (.stunmap (opM w))
  | 0x88 => some (.stflush (opM w))
  | 0x89 => some (.stinv (opM w))
  | 0x8A => some (.mboxPut (opM w))
  | 0x8B => some (.mboxGet (opM w))
  | 0xA0 => some (.vatomAdd (opM w))
  | 0xA1 => some (.vatomMin (opM w))
  | 0xA2 => some (.vatomMax (opM w))
  | 0xA3 => some (.vatomAnd (opM w))
  | 0xA4 => some (.vatomOr (opM w))
  | 0xA5 => some (.vatomXor (opM w))
  | 0xA6 => some (.vatomXchg (opM w))
  | 0xA7 => some (.vatomCas (opM w))
  | 0xA8 => some (.vredAdd (opM w))
  | 0xA9 => some (.vredMin (opM w))
  | 0xAA => some (.vredMax (opM w))
  | 0xAB => some (.vredAnd (opM w))
  | 0xAC => some (.vredOr (opM w))
  | 0xAD => some (.vredXor (opM w))
  | 0xAE => some (.fence (opM w))
  | 0xAF => some (.barT (opA w))
  | 0xB0 => some (.barC (opA w))
  | 0xB1 => some (.barG (opA w))
  | 0xC0 => some (.cpy (opE w))
  | 0xC1 => some (.cpyWany (opE w))
  | 0xC2 => some (.cpyWall (opE w))
  | 0xC3 => some (.cpyFfr (opE w))
  | 0xC4 => some (.cpyCancel (opE w))
  | 0xC5 => some (.comb (opE w))
  | 0xC6 => some (.mxgo (opE w))
  | 0xC7 => some (.accRd (opE w))
  | 0xC8 => some (.accWr (opE w))
  | 0xC9 => some (.accZero (opE w))
  | 0xCA => some (.fsend (opE w))
  | 0xCB => some (.fsendS (opE w))
  | 0xCC => some (.frecv (opE w))
  | 0xCD => some (.dlinkStat (opE w))
  | 0xE0 => some (.vjoin (opA w))
  | 0xE1 => some (.vexit (opA w))
  | 0xE2 => some (.yield (opA w))
  | 0xE3 => some (.exit (opA w))
  | 0xE4 => some (.rtt (opA w))
  | 0xE5 => some (.ckpt (opA w))
  | 0xE6 => some (.sigMark (opA w))
  | 0xE7 => some (.halt (opA w))
  | _ => none

/-- The codes of a matrix stream (R64, R74). -/
def buildQ (op : Nat) (w : Word) : Option Instr :=
  match op with
  | 0xD8 => some (.mxMma (opQ w))
  | 0xD9 => some (.mxZero (opQ w))
  | 0xDA => some (.mxBar (opQ w))
  | 0xDB => some (.mxFmt (opQ w))
  | 0xDC => some (.mxEnd (opQ w))
  | _ => none

/-- The I-form map (R71). -/
def buildI (op : Nat) (w : Word) : Option Instr :=
  match op with
  | 0x00 => some (.faddImm (opI w))
  | 0x01 => some (.fsubImm (opI w))
  | 0x02 => some (.fmulImm (opI w))
  | 0x06 => some (.fminImm (opI w))
  | 0x07 => some (.fmaxImm (opI w))
  | 0x40 => some (.iaddImm (opI w))
  | 0x41 => some (.isubImm (opI w))
  | 0x42 => some (.imulImm (opI w))
  | 0x45 => some (.iandImm (opI w))
  | 0x46 => some (.iorImm (opI w))
  | 0x47 => some (.ixorImm (opI w))
  | 0x49 => some (.ishlImm (opI w))
  | 0x4A => some (.ishrImm (opI w))
  | 0x4B => some (.israImm (opI w))
  | 0x4C => some (.iminImm (opI w))
  | 0x4D => some (.imaxImm (opI w))
  | 0x4E => some (.iminuImm (opI w))
  | 0x4F => some (.imaxuImm (opI w))
  | 0x60 => some (.vli (opI w))
  | 0x70 => some (.kset (opI w))
  | 0x72 => some (.xsetImm (opI w))
  | 0x76 => some (.fmtset (opI w))
  | 0xC5 => some (.wait (opI w))
  | 0xCE => some (.dlinkTurn (opI w))
  | 0xE0 => some (.vbr (opI w))
  | 0xE2 => some (.reform (opI w))
  | 0xF0 => some (.trap (opI w))
  | 0xF1 => some (.brk (opI w))
  | _ => none

/-- The S-form map (R73). -/
def buildS (op : Nat) (w : Word) : Option Instr :=
  match op with
  | 0x00 => some (.sadd (opS w))
  | 0x01 => some (.ssub (opS w))
  | 0x02 => some (.smul (opS w))
  | 0x03 => some (.smulh (opS w))
  | 0x04 => some (.sdiv (opS w))
  | 0x05 => some (.srem (opS w))
  | 0x06 => some (.sand (opS w))
  | 0x07 => some (.sor (opS w))
  | 0x08 => some (.sxor (opS w))
  | 0x09 => some (.sshl (opS w))
  | 0x0A => some (.sshr (opS w))
  | 0x0B => some (.ssra (opS w))
  | 0x0C => some (.smin (opS w))
  | 0x0D => some (.smax (opS w))
  | 0x0E => some (.sminu (opS w))
  | 0x0F => some (.smaxu (opS w))
  | 0x10 => some (.sclz (opS w))
  | 0x11 => some (.spopc (opS w))
  | 0x12 => some (.sext (opS w))
  | 0x13 => some (.sins (opS w))
  | 0x14 => some (.ssel (opS w))
  | 0x15 => some (.smov (opS w))
  | 0x16 => some (.sli (opS w))
  | 0x17 => some (.slih (opS w))
  | 0x20 => some (.scmpEq (opS w))
  | 0x21 => some (.scmpNe (opS w))
  | 0x22 => some (.scmpLt (opS w))
  | 0x23 => some (.scmpLe (opS w))
  | 0x24 => some (.scmpLtu (opS w))
  | 0x25 => some (.scmpLeu (opS w))
  | 0x26 => some (.cand (opS w))
  | 0x27 => some (.cor (opS w))
  | 0x28 => some (.cnot (opS w))
  | 0x30 => some (.bra (opS w))
  | 0x31 => some (.bcc (opS w))
  | 0x32 => some (.call (opS w))
  | 0x33 => some (.ret (opS w))
  | 0x34 => some (.jr (opS w))
  | 0x35 => some (.loop (opS w))
  | 0x40 => some (.sldB (opS w))
  | 0x41 => some (.sldH (opS w))
  | 0x42 => some (.sldW (opS w))
  | 0x43 => some (.sldD (opS w))
  | 0x44 => some (.sstB (opS w))
  | 0x45 => some (.sstH (opS w))
  | 0x46 => some (.sstW (opS w))
  | 0x47 => some (.sstD (opS w))
  | 0x50 => some (.spop (opS w))
  | 0x51 => some (.srd (opS w))
  | 0x52 => some (.swr (opS w))
  | _ => none

/-- The reserved bits that the operand fields of a layout do not hold, in ascending order of position (R63,
R64, R70): check 3 of R76 reads them on the word itself. -/
def reservedBits (sh : Enc.Shape) (w : Word) : List (Nat × Nat) :=
  match sh with
  | .e _ _ _ => [(12, (w.extractLsb' 12 1).toNat), (25, (w.extractLsb' 25 3).toNat)]
  | .q _ _ _ => [(0, (w.extractLsb' 0 9).toNat), (25, (w.extractLsb' 25 3).toNat)]
  | .i _ _ _ => [(32, (w.extractLsb' 32 1).toNat)]
  | .a _ _ _ | .c _ _ _ | .m _ _ _ | .s _ _ _ | .p _ _ | .event => []

/-- The result of decoding a word: an instruction, or the first failing check (R76). -/
inductive Result where
  | ok (i : Instr)
  | bad (b : Enc.Bad)
  deriving DecidableEq, Repr

/-- The instruction of a result, if it decoded. -/
def Result.instr : Result → Option Instr
  | .ok i => some i
  | .bad _ => none

/-- Checks 3 to 6 of R76 on a word whose operation is assigned. -/
def checked (i : Instr) (w : Word) : Result :=
  match Enc.firstBit (reservedBits (Enc.shape i) w) with
  | some b => .bad { group := 2, code := 1, bit := b }
  | none => match Enc.check (Enc.shape i) with
    | some b => .bad b
    | none => .ok i

/-- Whether an F-form code belongs to a matrix stream only (R64, R74). -/
def isStreamOp (op : Nat) : Bool := decide (0xD8 ≤ op) && decide (op ≤ 0xDC)

/-- A word of a group stream, in the order of R76: assigned operation, stream code, then `checked`. -/
def group (w : Word) : Result :=
  let op := (w.extractLsb' 54 8).toNat
  let from? (o : Option Instr) : Result :=
    match o with
    | some i => checked i w
    | none => .bad { group := 1, code := 1, bit := 54 }
  match (w.extractLsb' 62 2).toNat with
  | 0 => if isStreamOp op then .bad { group := 1, code := 3, bit := 54 } else from? (buildF op w)
  | 1 => checked (.pair (half w 31) (half w 0)) w
  | 2 => from? (buildI op w)
  | _ => from? (buildS op w)

/-- A word of a matrix stream (R75): any word that is not F-form 0xD8 to 0xDC is group 1, code 1; a PRED other
than 111 is a nonzero unused field, found after every lower field of check 4. -/
def stream (w : Word) : Result :=
  if w.extractLsb' 62 2 ≠ 0 then .bad { group := 1, code := 1, bit := 54 }
  else match buildQ (w.extractLsb' 54 8).toNat w with
    | none => .bad { group := 1, code := 1, bit := 54 }
    | some i =>
      let p := 7 - (w.extractLsb' 51 3).toNat
      match checked i w with
      | .bad b =>
        if b.group = 1 ∧ p ≠ 0 then .bad { group := 2, code := 2, bit := 51 + Enc.lowBit p 3 } else .bad b
      | .ok j => if p ≠ 0 then .bad { group := 2, code := 2, bit := 51 + Enc.lowBit p 3 } else .ok j

end Dec

namespace Enc

/-- Packing of a P-form half (R66). -/
def packHalf (h : Half) : BitVec 31 := h.op ++ h.d ++ h.a ++ h.ap ++ h.fmt

/-- The 64 bits of a word of a given shape (R56, R58, R61 to R64, R66, R70, R72); none for an event. -/
def pack : Shape → Option Word
  | .a op _ o => some (0#2 ++ BitVec.ofNat 8 op ++ o.pred ++ o.fmt ++ o.d ++ o.a ++ o.ap ++ o.b ++ o.bp ++ o.rnd
      ++ o.sat ++ o.xf ++ o.ha ++ o.hb)
  | .c op _ o => some (0#2 ++ BitVec.ofNat 8 op ++ o.pred ++ o.fmt ++ o.d ++ o.a ++ o.ap ++ o.b ++ o.bp ++ o.c
      ++ o.ha ++ o.hb)
  | .m op _ o => some (0#2 ++ BitVec.ofNat 8 op ++ o.pred ++ o.fmt ++ o.d ++ o.a ++ o.disp.extractLsb' 3 3 ++ o.sb
      ++ o.scl ++ o.wid ++ o.uc ++ o.dz ++ o.sco ++ o.ord ++ o.disp.extractLsb' 0 3)
  | .e op _ o => some (0#2 ++ BitVec.ofNat 8 op ++ o.pred ++ o.fmt ++ o.d ++ o.a ++ 0#3 ++ o.sb1 ++ o.sb2 ++ 0#1
      ++ o.num ++ o.sco ++ o.md)
  | .q op _ o => some (0#2 ++ BitVec.ofNat 8 op ++ 7#3 ++ o.fmt ++ o.tgt ++ o.brow ++ 0#3 ++ o.arow ++ o.fb ++ 0#9)
  | .i op _ o => some (2#2 ++ BitVec.ofNat 8 op ++ o.pred ++ o.fmt ++ o.d ++ o.sr ++ o.rnd ++ o.sat ++ 0#1 ++ o.imm)
  | .s op _ o => some (3#2 ++ BitVec.ofNat 8 op ++ o.cond ++ o.sd ++ o.sa ++ o.sb ++ o.isel ++ o.imm)
  | .p hi lo => some (1#2 ++ packHalf hi ++ packHalf lo)
  | .event => none

end Enc

/-- The word of an instruction (R56); an event has none. -/
def encode (i : Instr) : Option Word := Enc.pack (Enc.shape i)

/-- Decoding of the word of a group stream. -/
def decodeWord (w : Word) : Option Instr := (Dec.group w).instr

/-- The instruction of an opcode-table row given as bits: a word of a group stream, or, for the codes 0xD8 to
0xDC, a word of a matrix stream. -/
def decodeTableWord (_nbits w : Nat) : Option Instr :=
  match Dec.group (BitVec.ofNat 64 w) with
  | .ok i => some i
  | .bad _ => (Dec.stream (BitVec.ofNat 64 w)).instr

end Sys2Proof
end

