-- ==== Sys2Proof/Machine/Order.lean ====
section
/-! DEFINITION. Record and replay of order (R388 to R393): order records and tokens, and the events of a signature (R396,
R397) as they are logged, or met in a replay. -/
namespace Sys2Proof.Machine

-- ## order records (R392, R393)

/-- An order record that is none or of another epoch. -/
def OrderRec.fresh (ep : BitVec 8) : OrderRec := { epoch := ep, seq := 0, x := false, rc := 0, w := 0xFFFF }

/-- The default of the map of order records. -/
def OrderRec.absent : OrderRec := OrderRec.fresh 0

/-- The record of a location in the partition's epoch. -/
def State.orderRec (s : State) (ep : BitVec 8) (key : Nat) : OrderRec :=
  let r := Sparse.get OrderRec.absent s.orders key
  if r.epoch = ep then r else OrderRec.fresh ep

/-- A token of the procedure of R393: its code, SEQ and NR. -/
structure Token where
  code : Nat
  seq : BitVec 24
  nr : Nat
  deriving DecidableEq, Repr

/-- The procedure of R393 on one access; a read-modify-write is a write. -/
def OrderRec.step (r : OrderRec) (a : Nat) (write : Bool) : OrderRec × List Token :=
  if write then
    ({ r with seq := r.seq + 1, rc := 0, x := false, w := a },
     if (r.w ≠ 0xFFFF ∧ r.w ≠ a) ∨ r.x then [{ code := 2, seq := r.seq + 1, nr := r.rc }] else [])
  else
    let (r1, m) : OrderRec × List Token := if r.rc = 32767 then
        ({ r with seq := r.seq + 1, rc := 0, x := false }, [{ code := 3, seq := r.seq + 1, nr := 32767 }]) else (r, [])
    let other : Bool := r1.w != a
    ({ r1 with rc := r1.rc + 1, x := r1.x || other },
     m ++ if r1.w ≠ 0xFFFF ∧ other then [{ code := 1, seq := r1.seq, nr := 0 }] else [])

/-- One access at its coherence point: location, agent, whether it writes, LTIME of its word, element, source code,
and the further word of an engine piece (R393, R396). -/
structure Access1 where
  key : Nat
  agent : Agent
  write : Bool
  time : Word := 0
  elem : Nat := 0
  src : Nat := 0
  piece : List Word := []

/-- The event of a token. -/
def Access1.event (x : Access1) (coll : LogTo) (k : Token) : LogEvent :=
  { code := k.code, grp := (match coll with | .team _ t => t | .spine vf => vf), time := (match coll with | .team _ _ => x.time | .spine _ => 0)
    a := k.seq ++ BitVec.ofNat 8 x.elem
    more := BitVec.ofNat 64 (x.key % 2 ^ 45 * 2 ^ 19 + x.src * 2 ^ 16 + k.nr % 2 ^ 15) :: x.piece }

/-- The ranges of R195: 0 HBM, 1 companion-processor memory, 2 device registers. -/
def rangeOf (pa : Nat) : Option Nat :=
  if pa < 0x8000000000 then some 0
  else if 0x8000000000000 ≤ pa ∧ pa < 0xC000000000000 then some 1
  else if 0xF000000000000 ≤ pa ∧ pa < 0x10000000000000 then some 2
  else none

-- ## ordered streams (R206)

/-- The streams of this device: to another device by a port, of a spine copy engine to memory, to the companion processor and from it;
one for each class. -/
def fabricStream (dev cls : Nat) : Nat := dev * 4 + cls
def engineStream (engine cls : Nat) : Nat := 2 ^ 16 + engine * 4 + cls
def wiunoOut (cls : Nat) : Nat := 2 ^ 17 + cls
def wiunoIn (cls : Nat) : Nat := 2 ^ 17 + 4 + cls

/-- A packet enters a stream and takes its next 16-bit number. -/
def State.stamp (s : State) (k : Nat) : Nat × State :=
  let n := Sparse.get 0 s.streams k
  (n, { s with streams := Sparse.set 0 s.streams k ((n + 1) % 2 ^ 16) })

/-- An interrupt message to the companion processor: traffic of class 0 (R206). -/
def State.interrupt (s : State) (i : Irq) : State := { (s.stamp (wiunoOut 0)).2 with irqs := s.irqs ++ [i] }

/-- The Wiuno link carries traffic (R372). -/
def State.linkUp (s : State) : Bool := s.wiuno.up && !s.wiuno.training

/-- An access to a line needs the Wiuno link, and the link is down or retraining (R370, R372): companion-processor memory, or a line
that the companion processor holds modified. -/
def State.linkBlocks (s : State) (line : Nat) : Bool :=
  !s.linkUp && (rangeOf (line * 128) == some 1 || s.dir.any fun e => e.line == line && e.host == .modified)

/-- A read token of the log, or a repeat of one as `parseEvents` keeps it: the token's word and A field follow (R396). -/
def LogEvent.repeats (e : LogEvent) : Bool := e.code == 0x0A
def LogEvent.seq (e : LogEvent) : BitVec 24 := if e.repeats then (nth (0 : Word) e.more 1).extractLsb' 8 24 else e.a.extractLsb' 8 24

/-- The logged event belongs to this access: group, word, element, line and source agree; a repeat is of a later word. -/
def Access1.isMine (x : Access1) (coll : LogTo) (e : LogEvent) : Bool :=
  let y := x.event coll { code := e.code, seq := 0, nr := 0 }
  e.grp == y.grp && (e.more.map fun w => w.extractLsb' 16 48).head? == (y.more.map fun w => w.extractLsb' 16 48).head?
    && (if e.repeats then !x.write && wfield (nth 0 e.more 1) 0 8 == x.elem && decide ((y.time - e.time).toNat % 2 ^ 22 < 2 ^ 21)
        else (e.code == 1 || e.code == 2 || e.code == 3) && sameTime e.time y.time && e.a.extractLsb' 0 8 == y.a.extractLsb' 0 8
          && e.more.drop 1 == x.piece)

/-- A logged write from outside to a line. -/
def LogEvent.outside (e : LogEvent) (line : Nat) : Bool := (e.code == 0x22 || e.code == 0x23) && (nth (0 : Word) e.more 0).toNat / 128 == line

/-- The logged events that an access may be: of a group, those of its word. Those of a spine agent carry no count: they are the ones of
its line that no write from outside precedes in the log, or, for a word that issues again after its logged fault, every one of the
line (R406, R413; log entry 108). -/
def Access1.mine (x : Access1) (coll : LogTo) (again : Bool) (l : List LogEvent) : List LogEvent :=
  match coll with
  | .team _ _ => l.filter (x.isMine coll)
  | .spine _ => if again then l.filter (x.isMine coll) else (l.filter fun e => x.isMine coll e || e.outside x.key).takeWhile (x.isMine coll)

/-- What an access finds in order: it performs with the state's records updated, it is held, or it diverges. -/
inductive Ordered where
  | go (s : State)
  | hold
  | diverge

/-- The order step of an access of a VF (R393): RECORD logs, REPLAY holds until the logged token is next. An access that needs the
Wiuno link waits for it (R372). -/
def State.order (s : State) (vf : Nat) (coll : LogTo) (x : Access1) : Ordered :=
  if s.linkBlocks x.key then .hold
  else match s.partOf vf with
  | none => .go s
  | some p =>
    let log := s.log vf
    if log = 0 then .go s
    else
      let ep := p.log.epoch
      let r := s.orderRec ep x.key
      let (r1, toks) := r.step x.agent.num x.write
      let put (s : State) (r : OrderRec) : State := { s with orders := Sparse.set OrderRec.absent s.orders x.key r }
      if log = 1 then .go (toks.foldl (fun s k => s.logEvent coll (x.event coll k)) (put s r1))
      else
        let logged := match coll with | .team _ _ => s.eventsAt coll | .spine _ => p.log.spine
        match x.mine coll ((s.curGroup.map (·.again)).getD false) logged with
        | [] => if toks.isEmpty then .go (put s r1) else .diverge
        | e :: rest =>
          let nr (e : LogEvent) : Nat := (nth (0 : Word) e.more 0).toNat % 2 ^ 15
          let (r2, e2, s1) := if e.code = 3 ∧ r.seq + 1 = e.seq ∧ r.rc = 32767 then
              ({ r with seq := r.seq + 1, rc := 0, x := false }, rest.head?, s.meetEvent coll e) else (r, some e, s)
          match e2 with
          | none => .go (put s1 (r2.step x.agent.num x.write).1)
          | some e => if e.code = 3 then .hold
            else if x.write then
              (if r2.seq + 1 = e.seq ∧ nr e ≤ r2.rc then .go (put (s1.meetEvent coll e) (r2.step x.agent.num true).1) else .hold)
            else if r2.seq = e.seq then .go (put (s1.meetEvent coll e) (r2.step x.agent.num false).1) else .hold

/-- A value that depends on timing: logged in RECORD, taken from the log in REPLAY (R388, R406). -/
def State.timed (s : State) (g : Group) (src : Nat) (w : Word) : Word × State :=
  let v := match s.logged g 4 with | some e => nth w e.more 0 | none => w
  (v, s.note g 4 (BitVec.ofNat 32 src) [v])

/-- The walkers as an agent (R391). -/
def walker (vf : Nat) : Agent := { Agent.nobody with kind := 7, vf }

/-- What a translation answers when a replay holds the walk at a table entry: no trap, the asker tries again. -/
def heldWalk : TrapReq := mkTrap 31 0 0

/-- A replay divergence (R405): its code and kind, with the LTIME at which it is found. -/
def divergence (code kind : Nat) (ltime : Word) : TrapReq := mkTrap 17 code (ltime.toNat + 2 ^ 64 * kind)

/-- RPSTAT with a STATE and an RCODE; SIGN and DCODE keep the last breakpoint's and divergence's (R403). -/
def rpstatNow (w : Word) (rcode state : Nat) : Word := (w &&& ~~~0xFFFF) ||| BitVec.ofNat 64 (rcode * 256 + state)

/-- RPSTAT with a signature number. -/
def rpstatSign (w : Word) (sign : Nat) : Word := (w &&& 0xFFFFFFFF) ||| BitVec.ofNat 64 (sign % 2 ^ 32 * 2 ^ 32)

/-- A divergence that is no group's (R405): the partition is DIVERGED, with DCODE and SIGN, and its grids stop as a fatal trap stops
them (R319; log entry 109). -/
def State.divergePart (s : State) (part code kind sign : Nat) : State :=
  let p := s.part part
  let s1 := s.setPart { p with log := { p.log with rpstat := BitVec.ofNat 64 (sign % 2 ^ 32 * 2 ^ 32 + code * 2 ^ 16 + 5) } }
  (s1.clusters.filter fun c => (p.slotOf c.vf).isSome).foldl (fun s c => s.fatal c.vf c.key (divergence code kind 0)) s1

/-- The spine signature of a VF that is open, or being met (R397). -/
def State.spineSig (s : State) (vf : Nat) : Nat := ((s.partOf vf).map fun p => Sparse.get 0 p.log.spineSign vf).getD 0

/-- A spine access that its log does not have diverges (R393, R405). -/
def State.divergeSpine (s : State) (vf : Nat) : State :=
  match s.partOf vf with
  | some p => s.divergePart p.num 5 4 (s.spineSig vf)
  | none => s

end Sys2Proof.Machine
end

