-- ==== Sys2Proof/Machine/Coherence.lean ====
section
/-! DEFINITION. The copies of a line (R198 to R212, R223): stash rows and their recall, fill and write-back, the lines
of the slices with their allocation, use counts and dead-at-zero lines, the L3 with its directory, and the dirty
state of a partition (R336). `State.mem` holds every byte as the coherence point below the stash rows holds it. -/
namespace Sys2Proof.Machine

/-- Bytes of a line or stash row. -/
def lineBytes : Nat := 128

/-- The leaf of a physical core (R158). -/
def leafOf (core : Nat) : Nat := core / 64

/-- A row that no claim has mapped (R198). -/
def Row.plain : Row := { st := .p, line := 0, gpa := 0, dirty := 0, checked := false }

/-- Rows are keyed by core × 4,096 + row, stash bytes by core × 524,288 + offset. -/
def State.row (s : State) (key : Nat) : Row := Sparse.get Row.plain s.rows key

def State.setRow (s : State) (key : Nat) (r : Row) : State := { s with rows := Sparse.set Row.plain s.rows key r }

-- ## locations

/-- The location of a byte for order, conflict and overlap: its physical address; a byte of a row in P has one of its own. -/
def State.locOf (s : State) (sp : Space) (a : Nat) : Nat :=
  match sp with
  | .mem | .device => a
  | .stash =>
    let r := s.row (a / lineBytes)
    if r.st = .p then 2 ^ 60 + a else r.line * lineBytes + a % lineBytes

/-- The line, or the row in P, that holds a location. -/
def locLine (loc : Nat) : Nat := if loc < 2 ^ 60 then loc / lineBytes else 2 ^ 60 + (loc - 2 ^ 60) / lineBytes

/-- Two half-open ranges share a byte. -/
def overlap (a b c d : Nat) : Bool := decide (a < d ∧ c < b ∧ a < b ∧ c < d)

/-- The bytes of a list that a mask selects, the others from a second list. -/
def maskBytes (m : BitVec 128) (new old : List Byte) : List Byte :=
  (List.range lineBytes).map fun i => if m.getLsbD i then nth 0 new i else nth 0 old i

-- ## slices and the L3 (R204 to R212)

/-- The slice of a line (R204), from its line number. -/
def sliceOf (line : Nat) : Nat :=
  let pa := line * 128
  (field pa 7 17 ^^^ field pa 24 17 ^^^ field pa 41 11) % 96

/-- The set of a line in its slice (R204). -/
def sliceSet (line : Nat) : Nat := line / 96 % 192

/-- The L3 bank and set of a line (R212). -/
def bankOf (line : Nat) : Nat :=
  let pa := line * 128
  field pa 7 8 ^^^ field pa 15 8 ^^^ field pa 23 8 ^^^ field pa 31 8
def bankSet (line : Nat) : Nat :=
  let pa := line * 128
  field pa 15 10 ^^^ field pa 39 10

-- ## HBM (R213)

/-- Where a line of HBM lies: its stack, its channel there, and its pseudo-channel (R213). -/
structure HbmPlace where
  stack : Nat
  channel : Nat
  pseudo : Nat
  deriving DecidableEq, Repr

/-- The place of a physical address of HBM, in granules of 256 bytes over 8 stacks of 32 channels (R213). -/
def hbmPlace (pa : Nat) : HbmPlace :=
  let chsel := field pa 8 8 ^^^ field pa 16 8 ^^^ field pa 24 8 ^^^ field pa 32 7
  { stack := chsel / 32, channel := chsel % 32, pseudo := field pa 7 1 }

/-- A line lies in HBM (R195). -/
def lineInHbm (line : Nat) : Bool := decide (line * 128 < 0x8000000000)

-- ## budgets (R332)

/-- The unit that keeps a budget, by number: slice (leaf × 96 + slice), L3 bank, link of a leaf, the spine copy engines. -/
def sliceUnit (leaf line : Nat) : Nat := leaf * 96 + sliceOf line
def bankUnit (line : Nat) : Nat := 384 + bankOf line
def linkUnit (leaf : Nat) : Nat := 640 + leaf
def engineUnit : Nat := 644

/-- The key of the budget of a unit, a VF and a class. -/
def budgetKey (unit vf cls : Nat) : Nat := (unit * 256 + vf) * 4 + cls

/-- The VF numbers of a partition's slots that a mask selects and that are in use (R325). -/
def Partition.vfsOf (p : Partition) (mask : Nat) : List Nat :=
  (List.range 16).filterMap fun i =>
    let w := nth (0 : Word) p.force.vfid i
    if mask.testBit i ∧ w.getLsbD 63 then some (w.toNat % 256) else none

/-- The VF whose spine collator logs what outside agents do to a partition: that of its lowest slot in use. -/
def Partition.spineVf (p : Partition) : Nat := ((p.vfsOf 65535).head?).getD 0

/-- The rate of a VF and class, in GB/s; 0xFFFF is unlimited, and 0 blocks the class (R325). -/
def Partition.rate (p : Partition) (vf cls : Nat) : Nat :=
  match p.slotOf vf with
  | some i => (nth (0 : Word) p.force.vfrate i).toNat / 2 ^ (16 * cls) % 65536
  | none => 0

/-- The rate of a VF and class; a VF of no partition is not limited. -/
def State.rateOf (s : State) (vf cls : Nat) : Nat := ((s.partOf vf).map fun p => p.rate vf cls).getD 65535

/-- What is left of a budget: at most 64 KiB (R332). -/
def State.budget (s : State) (unit vf cls : Nat) : Nat := 65536 - Sparse.get 0 s.spent (budgetKey unit vf cls)

/-- A request of `n` bytes may be injected at a unit: its class is not blocked and its budget is not short (R325, R332). -/
def State.affords (s : State) (unit vf cls n : Nat) : Bool :=
  s.rateOf vf cls == 65535 || (s.rateOf vf cls != 0 && decide (n ≤ s.budget unit vf cls))

/-- Bytes are charged at a unit; an unlimited class is charged nothing (R332). -/
def State.charge (s : State) (unit vf cls n : Nat) : State :=
  if s.rateOf vf cls = 65535 then s
  else { s with spent := Sparse.set 0 s.spent (budgetKey unit vf cls) (Sparse.get 0 s.spent (budgetKey unit vf cls) + n) }

/-- A write-back of one line crosses the link of its leaf to its bank: it is counted, and charged to a VF and class, never held (R209,
R210, R332, R426). -/
def State.chargeBack (s : State) (leaf line vf cls : Nat) : State :=
  ((s.charge (linkUnit leaf) vf cls lineBytes).charge (bankUnit line) vf cls lineBytes).count vf 10 lineBytes

-- ## the L3 and its directory (R212)

/-- The default of the map of scope records. -/
def noScope : ScopeRec := { agent := Agent.nobody, sco := 0 }

/-- The entry of a line that no cache holds. -/
def DirLine.new (line clock : Nat) : DirLine := { line, used := clock, leaves := [.none, .none, .none, .none], host := .none }

/-- The directory entry of a line; one of no copies where there is none. -/
def State.dirAt (s : State) (line : Nat) : DirLine := (s.dir.find? fun e => e.line == line).getD (DirLine.new line 0)

/-- Changes the directory entry of a line, if there is one. -/
def State.dirMap (s : State) (line : Nat) (f : DirLine → DirLine) : State :=
  { s with dir := s.dir.map fun e => if e.line = line then f e else e }

/-- Rows in V or D that map a line. -/
def State.owners (s : State) (line : Nat) : List Nat :=
  (s.rows.filter fun (_, r) => r.line == line && (r.st == .v || r.st == .d)).map (·.1)

/-- The line is held on a leaf: by its slice, or by a stash row of one of its cores. -/
def State.onLeaf (s : State) (leaf line : Nat) : Bool :=
  (s.slices.any fun x => x.leaf == leaf && x.line == line) || (s.owners line).any fun k => leafOf (k / 4096) == leaf

/-- A copy has left a leaf: with the last one the leaf's directory state is none, and the scope record of a line that neither the L3
nor any copy holds any more is gone (R212, R232). -/
def State.leaveLeaf (s : State) (leaf line : Nat) : State :=
  let s1 := if s.onLeaf leaf line then s else s.dirMap line fun e => { e with leaves := putNth e.leaves leaf .none }
  let held : Bool := (s1.l3.any fun e => e.line == line) || (s1.slices.any fun x => x.line == line) || !(s1.owners line).isEmpty
  if held then s1 else { s1 with scopes := Sparse.set noScope s1.scopes line noScope }

/-- A line leaves the L3; dirty, it is written back to memory (R212), and its scope record leaves with it where no slice and no row
holds the line (R232). -/
def State.dropL3 (s : State) (e : L3Line) : State :=
  let s1 := { s with l3 := s.l3.filter fun y => y.line != e.line }
  let s2 := if e.dirty && lineInHbm e.line then s1.count e.vf 9 lineBytes else s1
  if (s2.slices.any fun x => x.line == e.line) || !(s2.owners e.line).isEmpty then s2
  else { s2 with scopes := Sparse.set noScope s2.scopes e.line noScope }

/-- The line is in the L3, which makes room when its set of the bank is full: one line chosen freely leaves (R212). -/
def State.l3Enter (s : State) (vf line : Nat) : State :=
  if s.l3.any fun e => e.line == line then
    { s with l3 := s.l3.map fun (e : L3Line) => if e.line = line then { e with used := s.clock } else e }
  else
    let here := s.l3.filter fun e => bankOf e.line == bankOf line && bankSet e.line == bankSet line
    let s1 := if here.length < 12 then s else
      let (n, s) := s.free
      match here[n % here.length]? with
      | some e => s.dropL3 e
      | none => s
    let s2 := { s1 with l3 := s1.l3 ++ [({ line, vf, dirty := false, used := s1.clock, back := [] } : L3Line)] }.count vf 7 1
    if lineInHbm line then s2.count vf 8 lineBytes else s2

/-- An L3 line takes bytes that memory does not have; `below` is what it held before. -/
def L3Line.written (e : L3Line) (below : List Byte) : L3Line := { e with dirty := true, back := if e.dirty then e.back else below }

/-- The L3 holds bytes of a line that memory does not have, over the bytes `below`. -/
def State.l3Dirty (s : State) (vf line : Nat) (below : List Byte) : State :=
  let s1 := s.l3Enter vf line
  { s1 with l3 := s1.l3.map fun (e : L3Line) => if e.line = line then e.written below else e }

/-- The bytes of a line at the coherence point below the stash rows. -/
def State.lineNow (s : State) (line : Nat) : List Byte := Memory.readN s.mem (line * lineBytes) lineBytes

/-- A dirty slice line is written back to the L3, charged to a VF and class: its bytes below are now what it holds. -/
def State.cleanLine (s : State) (x : SliceLine) (vf cls : Nat) : State :=
  if x.dirty = 0 then s
  else
    let s1 := { s with slices := s.slices.map fun (y : SliceLine) => if y.leaf = x.leaf ∧ y.line = x.line then { y with dirty := 0, back := [] } else y }
    (s1.l3Dirty x.vf x.line (maskBytes x.dirty x.back (s.lineNow x.line))).chargeBack x.leaf x.line vf cls

/-- A line leaves a slice after its dirty bytes are written back, charged to a VF and class. -/
def State.evictLine (s : State) (x : SliceLine) (vf cls : Nat) : State :=
  let s1 := s.cleanLine x vf cls
  { s1 with slices := s1.slices.filter fun y => !(y.leaf == x.leaf && y.line == x.line) }.leaveLeaf x.leaf x.line

/-- A dead line is invalidated: with DET = 0 and LOG = OFF its dirty bytes return to what was last written back
(R201, R208); otherwise they are written back first. -/
def State.killLine (s : State) (x : SliceLine) : State :=
  if x.dirty ≠ 0 ∧ !s.det x.vf ∧ s.log x.vf = 0 then
    let base := x.line * lineBytes
    let old := Memory.readN s.mem base lineBytes
    { s with mem := Memory.writeN s.mem base (maskBytes x.dirty x.back old),
             slices := s.slices.filter fun y => !(y.leaf == x.leaf && y.line == x.line) }.leaveLeaf x.leaf x.line
  else s.evictLine x x.vf 0

/-- Counted lines whose use count has reached 0 with DZ = 1 are dead (R208); it follows the request that took the count there. -/
def State.reapDead (s : State) (line : Nat) : State :=
  (s.slices.filter fun x => x.line == line && x.cnt && x.uc == 0 && x.dz).foldl (fun s x => s.killLine x) s

-- ## the dirty state of a partition (R335 to R337)

/-- Bytes of dirty slice lines of a VF (R336). -/
def State.dirtyLines (s : State) (vf : Nat) : Nat :=
  lineBytes * (s.slices.filter fun x => x.vf == vf && x.dirty != 0).length

/-- The size of one group's unit (R336): its register rows and group state. -/
def Group.dirty (g : Group) : Nat := if g.wait = .ended then 0 else g.id.claim * 128 + 1024

/-- Rows of run `i` of a team's stash claim. -/
def Team.runRows (t : Team) (i : Nat) : List Nat := (List.range (min 32 (t.stashRows - 32 * i))).map fun k => 32 * i + k

/-- The units of a team's stash and tiles (R328). -/
def Team.runs (t : Team) : List SpillUnit := (List.range ((t.stashRows + 31) / 32)).map .run
def Team.tileUnits (t : Team) : List SpillUnit := t.tiles.zipIdx.flatMap fun (l, q) => (List.range l.length).map fun i => .tile (q * 8 + i)

/-- The bytes of a unit of stash or of a tile. -/
def Team.unitBytes (t : Team) (u : SpillUnit) : Nat :=
  match u with
  | .run i => (t.runRows i).length * 128
  | .tile _ => 8192
  | .group _ => 0

/-- The size of a team's stash rows and tiles, and the part of it that is D: what no spill has moved (R336). -/
def Team.size (t : Team) : Nat := ((t.runs ++ t.tileUnits).map t.unitBytes).sum
def Team.dirty (t : Team) : Nat := (((t.runs ++ t.tileUnits).filter fun u => !t.out.contains u).map t.unitBytes).sum

/-- A group is in the save area (R328). -/
def State.isOut (s : State) (g : Group) : Bool := ((s.team? g.id.team).map fun t => t.out.contains (.group g.id.tidx)).getD false

/-- The size of a cluster's units, and what of it stands. -/
def State.clusterSize (s : State) (key : Nat) : Nat :=
  ((s.groups.filter fun g => g.id.cluster == key).map Group.dirty).sum + ((s.clusterTeams key).map Team.size).sum
def State.clusterDirty (s : State) (key : Nat) : Nat :=
  ((s.groups.filter fun g => g.id.cluster == key && !s.isOut g).map Group.dirty).sum + ((s.clusterTeams key).map Team.dirty).sum

/-- Bytes a core copy has still to move. -/
def CopyCmd.left (c : CopyCmd) : Nat := if c.isComb then 0 else c.xlen * c.ycnt * c.zcnt - c.done

/-- Bytes of a chunk of a copy node's record, the last one possibly shorter (R268, R277, R278). -/
def chunkBytes (r : List Word) (chunk : Nat) : Nat :=
  let w := nth (0 : Word) r 8
  let total := wfield w 0 24 * wfield w 24 16 * wfield w 40 16
  min total ((chunk + 1) * 4096) - chunk * 4096

/-- D of the queue of a VF and class (R336). -/
def State.queueDirty (s : State) (vf cls : Nat) : Nat :=
  let cl := s.clusters.filter fun c => c.vf == vf && c.cls == cls && c.residence != .saved
  let isIn (k : Nat) : Bool := cl.any fun c => c.key == k
  (cl.map fun c => s.clusterDirty c.key).sum
    + ((s.copies.filter fun c => (s.groups.any fun g => g.id.key == c.group && isIn g.id.cluster)).map CopyCmd.left).sum
    + (((s.vf vf).slots.flatMap fun (_, sl) => match sl.running with
        | some l => l.nodes.flatMap fun n =>
            let rec' := nth [] sl.nodes n.idx
            if ((nth (0 : Word) rec' 0).extractLsb' 6 2).toNat = cls then
              (match n.copy with | some k => k.running.map fun r => chunkBytes rec' r.2 | none => [])
            else []
        | none => []).sum)

/-- D of a partition (R336). -/
def State.partDirty (s : State) (p : Partition) : Nat :=
  let vfs := (p.force.vfid.filter fun w => w.getLsbD 63).map fun w => (w.extractLsb' 0 8).toNat
  (vfs.map fun v => s.dirtyLines v + (((List.range 4).map fun c => s.queueDirty v c).sum)).sum

/-- CAP in bytes for a notice period in µs (R335). -/
def capOf (notice : Nat) : Nat := (notice - 20) * 1280000

/-- CAP that placement, copies and dirty lines are held to: that of the notice period applied last (R322, R337). -/
def Partition.cap (p : Partition) : Nat := capOf (p.force.pnotice.toNat % 2 ^ 32)

/-- The notice period in force for deadlines: the one applied last, or the longer one before it until D falls to the new CAP
(R322). -/
def State.notice (s : State) (p : Partition) : Nat :=
  let new := p.force.pnotice.toNat % 2 ^ 32
  if p.capNp ≤ new ∨ s.partDirty p ≤ capOf new then new else p.capNp

-- ## the order of a group's operations (R226)

/-- Acquire and release operations of R226. -/
def MemOp.acquires (o : MemOp) : Bool :=
  o.ord.getLsbD 0 && (match o.kind with
    | .store | .fsend _ => false
    | .load | .sload _ | .rmw _ | .red _ | .mboxPut _ | .mboxGet _ | .frecv _ _ => true)
def MemOp.releases (o : MemOp) : Bool :=
  match o.kind with
  | .fsend _ => true
  | .store | .rmw _ | .red _ | .mboxPut _ | .mboxGet _ => o.ord.getLsbD 1
  | .load | .sload _ | .frecv _ _ => false

/-- Read-modify-writes (R221): they count both as loads and as writes (R226). -/
def MemOp.rmw (o : MemOp) : Bool :=
  match o.kind with
  | .rmw _ | .red _ | .mboxPut _ | .mboxGet _ => true
  | .load | .store | .sload _ | .frecv _ _ | .fsend _ => false

/-- A `wait` that has ld = 0 or st = 0 issues: read-modify-writes that its counters do not show come before every later access
(R226). -/
def Group.waitedFor (g : Group) : Group :=
  { g with ops := g.ops.map fun o => if o.rmw ∧ o.waited = 0 then { o with waited := g.nextInst } else o }

/-- The operation only reads, or is a plain store. -/
def MemOp.reads (o : MemOp) : Bool := match o.kind with | .load | .sload _ => true | _ => false
def MemOp.stores (o : MemOp) : Bool := match o.kind with | .store => true | _ => false

/-- Two parts of operations share a byte. -/
def State.partsMeet (s : State) (a b : MemOp) (p q : Part) : Bool :=
  let x := s.locOf a.space p.addr
  let y := s.locOf b.space q.addr
  overlap x (x + p.size) y (y + q.size)

/-- What a pending plain store gives a part of a younger load: nothing, all its bytes, or a reason to wait. -/
inductive Given where
  | none | wait
  | bytes (bs : List Byte)

/-- The youngest of older plain stores that a part of a load meets, the highest lane first (R137, R202): the load takes its
bytes when it holds them all. -/
def State.forwarded (s : State) (o : MemOp) (q : Part) (older : List MemOp) : Given :=
  let parts := (older.filter MemOp.stores).reverse.flatMap fun a => a.parts.reverse.map fun p => (a, p)
  match parts.find? fun (a, p) => s.partsMeet a o p q with
  | none => .none
  | some (a, p) =>
    let x := s.locOf a.space p.addr
    let y := s.locOf o.space q.addr
    if x ≤ y ∧ y + q.size ≤ x + p.size then .bytes ((p.data.drop (y - x)).take q.size) else .wait

/-- Operation `b` must not perform before the older operation `a` (R226, R227, R23); elements of one `vgath` or `vscat` perform in
ascending order (R249). -/
def State.precedes (s : State) (a b : MemOp) : Bool :=
  a.acquires || b.releases || (a.unchecked && !b.reads) || (a.waited != 0 && decide (a.waited ≤ b.id))
    || (a.inst == b.inst && decide (a.elem < b.elem))
    || (!(b.reads && a.stores) && a.parts.any fun p => b.parts.any fun q => s.partsMeet a b p q)

/-- The operations of a group older than one. -/
def Group.olderThan (g : Group) (o : MemOp) : List MemOp := g.ops.takeWhile fun a => a.id != o.id

/-- An operation may perform: nothing older must come first, and older stores give whole parts of a load or none. -/
def State.eligible (s : State) (g : Group) (o : MemOp) : Bool :=
  let older := g.olderThan o
  o.behind == 0 && !(older.any fun a => s.precedes a o)
    && (!o.reads || o.parts.all fun q => match s.forwarded o q older with | .wait => false | .none | .bytes _ => true)

-- ## the on-leaf networks (R203, R205)

/-- The classes of the messages between cores and slices (R205): requests and write-backs on the request network, replies and recalls
on the reply network. A row's write-back and the recall that asks for it are one step here, in the order of R200. -/
inductive MsgClass where
  | req | wb | rsp | prb
  deriving DecidableEq, Repr

/-- A first-in first-out path (R203, R205): the class, or none on the neighbour mesh; the source and the destination core or slice; the
traffic class whose queue the slice keeps the message in (R204). -/
structure NetPath where
  cls : Option MsgClass
  src : Nat
  dst : Nat
  queue : Nat
  deriving DecidableEq, Repr

/-- The paths that the requests of an operation travel: one to the slice of each line, one to each peer core whose stash it
accesses (R203, R205). -/
def MemOp.paths (o : MemOp) (g : Group) : List NetPath :=
  match o.space with
  | .mem => (o.parts.map fun p => ({ cls := some .req, src := g.id.core, dst := sliceUnit (leafOf g.id.core) (p.addr / lineBytes), queue := g.id.cls } : NetPath)).eraseDups
  | .stash => ((o.parts.filter fun p => p.addr / Config.stashBytes != g.id.core).map fun p =>
      ({ cls := none, src := g.id.core, dst := p.addr / Config.stashBytes, queue := 0 } : NetPath)).eraseDups
  | .device => []

/-- Bytes of an operation's request for a line. -/
def MemOp.bytesOn (o : MemOp) (line : Nat) : Nat := ((o.parts.filter fun p => p.addr / lineBytes == line).map (·.size)).sum

/-- The lines an operation requests for the first time in its instruction (R219). -/
def MemOp.newLines (o : MemOp) : List Nat := ((o.parts.map fun p => p.addr / lineBytes).eraseDups).filter fun k => !o.again.contains k

/-- The budgets of a class cover a request for a line: at the slice, and at the bank and the die link when no slice of the leaf
holds it (R332). -/
def State.lineAffords (s : State) (vf cls leaf line n : Nat) : Bool :=
  s.affords (sliceUnit leaf line) vf cls n &&
    ((s.slices.any fun x => x.leaf == leaf && x.line == line) || (s.affords (bankUnit line) vf cls lineBytes && s.affords (linkUnit leaf) vf cls lineBytes))

/-- The requests of an operation may be injected: to slices for memory, and for the fill of a stash row (R332). -/
def State.injectable (s : State) (g : Group) (o : MemOp) : Bool :=
  match o.space with
  | .mem => o.newLines.all fun k => s.lineAffords g.id.vf g.id.cls (leafOf g.id.core) k (o.bytesOn k)
  | .stash => ((o.parts.map fun p => p.addr / lineBytes).eraseDups).all fun k =>
      (s.row k).st != .i || s.lineAffords g.id.vf g.id.cls (leafOf (k / 4096)) (s.row k).line lineBytes
  | .device => true

/-- Requests that may be injected enter their paths, in the order of their groups' operations (R205). -/
def State.inject (s : State) : State :=
  s.groups.foldl (fun s g => (g.ops.filter fun o => o.sent.isNone && s.eligible g o && s.injectable g o).foldl (fun s o =>
    { s with sends := s.sends + 1
             groups := s.groups.map fun h => if h.id.key = g.id.key then
               { h with ops := h.ops.map fun x => if x.id = o.id then { x with sent := some s.sends } else x } else h
             shadows := s.shadows.map fun h => if h.key = g.id.key then
               { h with group := { h.group with ops := h.group.ops.map fun x => if x.id = o.id then { x with sent := some s.sends } else x } } else h }) s) s

/-- The request of `a` entered before that of `b`. -/
def sentBefore (a b : MemOp) : Bool :=
  match a.sent, b.sent with
  | some x, some y => decide (x < y)
  | some _, none => true
  | none, _ => false

/-- Two requests meet where the path delivers them: accesses to one peer stash act as they are delivered (R203); a slice takes
requests for one line in the order in which they reach it (R205, R207, R223, R234), and may serve those for others earlier. -/
def State.pathMeets (s : State) (a b : MemOp) : Bool :=
  a.space == .stash || a.parts.any fun p => b.parts.any fun q => locLine (s.locOf a.space p.addr) == locLine (s.locOf b.space q.addr)

/-- An earlier request of the same core, on a path of the operation, is still to be served where this one goes (R203, R205). In
REPLAY the order of the log decides instead (R393). -/
def State.overtakes (s : State) (g : Group) (o : MemOp) : Bool :=
  s.log g.id.vf != 2 && s.groups.any fun h => h.id.core == g.id.core && h.ops.any fun a =>
    !(h.id.key == g.id.key && a.id == o.id) && sentBefore a o && a.space == o.space
      && ((a.paths h).any fun p => (o.paths g).contains p) && s.pathMeets a o && s.eligible h a && s.injectable h a

/-- An operation of a group is over: the group, and its copies that hold the operation, go on without it. `f` has the operation as
that copy of the group holds it. -/
def State.finishOp (s : State) (key id : Nat) (f : MemOp → Group → Group) : State :=
  let above (g : Group) : Group := match g.ops.find? fun o => o.id == id with
    | some o => f o { g with ops := g.ops.filter fun o => o.id != id }
    | none => g
  { s with groups := s.groups.map fun g => if g.id.key = key then above g else g
           shadows := (s.shadows.filter fun h => !(h.key == key && h.inst == id)).map fun h => if h.key = key then { h with group := above h.group } else h }

/-- How an operation takes its place in the order of a location of its VF (R393). -/
def State.accessOf (s : State) (g : Group) (o : MemOp) (key : Nat) : Access1 := { key, agent := s.agentOf g, write := !o.reads, time := o.ltime, elem := o.elem }

/-- One stash store bound for a row is written into it, when it may perform. -/
def State.drainOne (s : State) (row : Nat) (key id : Nat) : State :=
  match s.group? key with
  | none => s
  | some g => match g.ops.find? fun o => o.id == id with
    | none => s
    | some o =>
      let loc := ((o.parts.head?).map fun p => locLine (s.locOf .stash p.addr)).getD 0
      if !s.eligible g o then s
      else match s.order g.id.vf g.collator (s.accessOf g o loc) with
        | .hold | .diverge => s
        | .go s1 =>
          let put (s : State) (p : Part) : State :=
            let r : Row := s.row row
            let d : BitVec 128 := BitVec.ofNat 128 ((2 ^ p.size - 1) * 2 ^ (p.addr % lineBytes))
            let r2 : Row := if r.st = .p then r else { r with st := if r.st = .v then .d else r.st, dirty := r.dirty ||| d }
            { s with stash := Memory.writeN s.stash p.addr p.data }.setRow row r2
          (o.parts.foldl put s1).finishOp key id fun _ g => g

/-- Stash stores of any group bound for a row are written into it (R200); those with a check still to pass, or an older
access before them, wait. -/
def State.drainForward (s : State) (row : Nat) : State :=
  let bound (o : MemOp) : Bool := o.space == .stash && !o.unchecked && o.stores && o.parts.all fun p => p.addr / lineBytes == row
  let todo := s.groups.flatMap fun g => (g.ops.filter bound).map fun o => (g.id.key, o.id)
  if (s.row row).st = .i then s else todo.foldl (fun s (k, id) => s.drainOne row k id) s

/-- A line after a write of some bytes: what lies below is kept when it was clean. -/
def SliceLine.written (x : SliceLine) (below : List Byte) (m : BitVec 128) : SliceLine :=
  if m = 0 then x else { x with dirty := x.dirty ||| m, back := if x.dirty = 0 then below else x.back }

/-- D of the partition of a VF, and L of a VF under an eviction, have room for one more dirty line (R337, R338). -/
def State.dirtyRoom (s : State) (p : Partition) (vf : Nat) : Bool × Bool :=
  let evicting : Bool := match p.evict with
    | some e => (p.slotOf vf).any fun i => e.vfm.getLsbD i
    | none => false
  (decide (s.partDirty p + lineBytes ≤ p.cap),
   !evicting || decide (s.dirtyLines vf + lineBytes ≤ (match p.evict with | some e => nth 0 e.dirtyCap vf | none => 0)))

/-- The dirty bytes of a row in D are written back to the slice that holds the line for its leaf, and to the L3 where none does, or
where the slice must take no further dirty line (R199, R200, R337): the row is then in V. -/
def State.writeBackRow (s : State) (key : Nat) : State :=
  let r := s.row key
  if r.st = .d then
    let leaf := leafOf (key / 4096)
    let base := r.line * lineBytes
    let below := Memory.readN s.mem base lineBytes
    let new := Memory.readN s.stash (key * lineBytes) lineBytes
    let s1 := { s with mem := Memory.writeN s.mem base (maskBytes r.dirty new below) }.setRow key { r with st := .v, dirty := 0 }
    match s1.slices.find? fun x => x.leaf == leaf && x.line == r.line with
    | some x =>
      let s2 := { s1 with slices := s1.slices.map fun (y : SliceLine) => if y.leaf = leaf ∧ y.line = r.line then y.written below r.dirty else y }
      let room := ((s1.partOf x.vf).map fun p => s1.dirtyRoom p x.vf).getD (true, true)
      if x.dirty ≠ 0 ∨ (room.1 && room.2) then s2
      else match s2.slices.find? fun y => y.leaf == leaf && y.line == r.line with
        | some y => s2.cleanLine y x.vf 0
        | none => s2
    | none => s1.l3Dirty 192 r.line below
  else s

/-- A recall of one row (R199, R200): forwarded stores, write-back, then I. -/
def State.recallRow (s : State) (key : Nat) : State :=
  let s1 := (s.drainForward key).writeBackRow key
  let r := s1.row key
  if r.st = .v then (s1.setRow key { r with st := .i }).leaveLeaf (leafOf (key / 4096)) r.line else s1

/-- Every stash row that owns the line gives it up (R200). -/
def State.recallLine (s : State) (line : Nat) : State := (s.owners line).foldl State.recallRow s

/-- Copies in other leaves: written back for a read, written back and invalidated for a write (R200, R212); their directory states
become shared or none. A line that the companion processor has modified is recalled across the link (R370). -/
def State.claimLine (s : State) (leaf : Option Nat) (line : Nat) (write : Bool) : State :=
  let s1 := (s.slices.filter fun x => x.line == line && some x.leaf != leaf).foldl
    (fun s x => if write then s.evictLine x x.vf 0 else s.cleanLine x x.vf 0) s
  let after (d : DirState) : DirState := if write then .none else if d = .modified then .shared else d
  s1.dirMap line fun e => { e with host := after e.host
                                   leaves := e.leaves.zipIdx.map fun (d, n) => if some n = leaf then d else after d }

/-- A directory entry is evicted after every copy it covers is recalled (R212). -/
def State.dropDir (s : State) (line : Nat) : State :=
  let s1 := (s.recallLine line).claimLine none line true
  { s1 with dir := s1.dir.filter fun y => y.line != line }

/-- The line has a directory entry; where its set is full, an entry chosen freely is evicted for it (R212; the set is that of the L3, log
entry 105). -/
def State.dirEnter (s : State) (line : Nat) : State :=
  if s.dir.any fun e => e.line == line then s
  else
    let here := s.dir.filter fun e => bankOf e.line == bankOf line && bankSet e.line == bankSet line
    let s1 := if here.length < 16 then s else
      let (n, s) := s.free
      match here[n % here.length]? with
      | some e => s.dropDir e.line
      | none => s
    { s1 with dir := s1.dir ++ [DirLine.new line s1.clock] }

/-- A leaf's state of a line in the directory (R212). -/
def State.setLeaf (s : State) (leaf line : Nat) (d : DirState) : State :=
  (s.dirEnter line).dirMap line fun e => { e with used := s.clock, leaves := putNth e.leaves leaf d }

/-- The companion processor's state of a line in the directory (R370). -/
def State.setHostState (s : State) (line : Nat) (d : DirState) : State :=
  (s.dirEnter line).dirMap line fun e => { e with used := s.clock, host := d }

/-- The stash owners that a slice of a leaf has on record: rows in V or D of the leaf's cores whose line is of the slice (R200,
R212). -/
def State.stashOwners (s : State) (leaf slice : Nat) : List (Nat × Nat) :=
  (s.rows.filter fun (k, r) => (r.st == .v || r.st == .d) && leafOf (k / 4096) == leaf && sliceOf r.line == slice).map fun (k, r) => (k, r.line)

/-- The set of a line in its slice's directory of stash owners: 4,096 entries, 8-way (R212; the index is the model's, log entry 105). -/
def ownerSet (line : Nat) : Nat := line / 96 % 512

/-- Room in the slice's directory for one more stash owner: where its set is full, the row of an entry chosen freely is
recalled (R212). -/
def State.ownerRoom (s : State) (leaf line : Nat) : State :=
  let here := (s.stashOwners leaf (sliceOf line)).filter fun x => ownerSet x.2 == ownerSet line
  if here.length < 8 then s
  else
    let (n, s) := s.free
    match here[n % here.length]? with
    | some x => s.recallRow x.1
    | none => s

/-- One request to a slice, or to the L3 when the line is not to be allocated. -/
structure SliceReq where
  leaf : Nat
  vf : Nat
  line : Nat
  read : Bool
  wmask : BitVec 128
  uc : BitVec 4
  dz : Bool
  uncached : Bool
  /-- traffic class of the requester, and the bytes that are charged (R332) -/
  cls : Nat
  bytes : Nat
  /-- the line is taken exclusively, for a stash row (R200) -/
  excl : Bool := false
  /-- the instruction has requested the line before (R208, R219) -/
  again : Bool := false

/-- The victim classes of R209 among the allowed ways of a set: the way to use, with the line it holds. -/
def victim (set : List SliceLine) (ways : List Nat) (above : Bool) (vf : Nat) : Option (Nat × Option SliceLine) :=
  let at' (w : Nat) : Option SliceLine := set.find? fun x => x.way == w
  let cand := ways.filter fun w => ((at' w).map fun x => !(x.cnt && x.uc == 15)).getD true
  let lru (l : List SliceLine) : Option SliceLine :=
    l.foldl (fun b x => match b with | none => some x | some y => if x.used < y.used then some x else b) none
  let lines := cand.filterMap at'
  match cand.find? fun w => (at' w).isNone with
  | some w => some (w, none)
  | none =>
    let own := if above then lines.filter fun x => x.vf == vf else []
    let zero := lines.filter fun x => x.cnt && x.uc == 0
    let plain := lines.filter fun x => !x.cnt
    let counted := lines.filter fun x => x.cnt
    let low := counted.filter fun x => counted.all fun y => x.uc ≤ y.uc
    (([own, zero, plain, low].findSome? lru)).map fun x => (x.way, some x)

/-- The least recently used of some lines. -/
def leastRecent (l : List SliceLine) : Option SliceLine :=
  l.foldl (fun b x => match b with | none => some x | some y => if x.used < y.used then some x else b) none

/-- A store that would dirty one more line at CAP first cleans the least recently used dirty line of the partition in the set, and
under an eviction one of its own VF where L of that VF may not rise; with none, the line is not allocated (R337, R338). The flag
says that the store may go on in the slice. -/
def State.holdDirty (s : State) (p : Partition) (r : SliceReq) : State × Bool :=
  match s.dirtyRoom p r.vf with
  | (true, true) => (s, true)
  | (_, free) =>
    let mine := s.slices.filter fun x => x.leaf == r.leaf && x.slice == sliceOf r.line && x.set == sliceSet r.line && x.part == p.num
      && x.dirty != 0 && (free || x.vf == r.vf)
    match leastRecent mine with
    | some x => (s.cleanLine x r.vf r.cls, true)
    | none => (s, false)

/-- A request that its slice does not serve is performed at the line's L3 bank, with every copy recalled (R211). -/
def State.bankAccess (s : State) (r : SliceReq) : State :=
  let write := r.wmask != 0
  let s1 := (s.claimLine none r.line (write || r.excl))
  if write then s1.l3Dirty r.vf r.line (s1.lineNow r.line) else s1.l3Enter r.vf r.line

/-- The use count of a line at a hit (R208): a hint sets it, and the first read request of an instruction lowers it. -/
def SliceLine.hitBy (x : SliceLine) (r : SliceReq) (pinned : Nat) : SliceLine :=
  if r.uc ≠ 0 then
    (if r.uc = 15 ∧ 12 ≤ pinned then { x with uc := 0, cnt := false } else { x with uc := r.uc, cnt := true, dz := r.dz })
  else if r.read ∧ !r.again ∧ x.cnt ∧ 1 ≤ x.uc ∧ x.uc ≤ 14 then { x with uc := x.uc - 1 } else x

/-- One request on a line (R208 to R212): rows that own it and other leaves give it up, then the slice hits or allocates, keeping use
counts, pins, dirty bytes and the directory. Memory still holds the bytes as before the request; a line whose use count falls to 0
is invalidated after it (`State.reapDead`). Hints of uncached requests and of a partition with an empty mask are ignored
(R245). -/
def State.sliceAccess (s : State) (r0 : SliceReq) : State :=
  let s := s.recallLine r0.line
  let below := Memory.readN s.mem (r0.line * lineBytes) lineBytes
  let write := r0.wmask != 0
  match s.partOf r0.vf with
  | none => s.bankAccess r0
  | some p =>
    let mask := p.force.pway.toNat % 65536
    let r := if r0.uncached ∨ mask = 0 then { r0 with uc := 0, dz := false } else r0
    let s := if r.again then s else (s.charge (sliceUnit r.leaf r.line) r.vf r.cls r.bytes).count r.vf 5 1
    let state : DirState := if write || r.excl then .modified else .shared
    match s.slices.find? fun x => x.leaf == r.leaf && x.line == r.line with
    | some x =>
      let s := s.claimLine (some r.leaf) r.line (write || r.excl)
      let (s, ok) := if write ∧ x.dirty = 0 then s.holdDirty p r else (s, true)
      if !ok then (s.evictLine x r.vf r.cls).bankAccess r
      else
        let pinned := (s.slices.filter fun y => y.leaf == r.leaf && y.slice == x.slice && y.set == x.set && y.cnt && y.uc == 15
          && y.line != x.line).length
        let x1 := ({ x.hitBy r pinned with used := s.clock } : SliceLine).written below r.wmask
        let s1 := { s with slices := s.slices.map fun (y : SliceLine) => if y.leaf = r.leaf ∧ y.line = r.line then x1 else y }
        if state = .modified ∨ nth .none (s1.dirAt r.line).leaves r.leaf ≠ .modified then s1.setLeaf r.leaf r.line state else s1
    | none =>
      let s := if rangeOf (r.line * lineBytes) = some 1 ∧ !(s.l3.any fun e => e.line == r.line) then (s.stamp (wiunoOut r.cls)).2 else s
      let s := (((s.claimLine (some r.leaf) r.line (write || r.excl)).count r.vf 6 1).charge (bankUnit r.line) r.vf r.cls lineBytes).charge
        (linkUnit r.leaf) r.vf r.cls lineBytes
      if r.uncached ∨ mask = 0 then s.bankAccess r
      else
        let (s, ok) := if write then s.holdDirty p r else (s, true)
        let set := s.slices.filter fun x => x.leaf == r.leaf && x.slice == sliceOf r.line && x.set == sliceSet r.line
        let occ := (s.slices.filter fun x => x.leaf == r.leaf && x.slice == sliceOf r.line && x.vf == r.vf).length
        let soft := (p.slotOf r.vf).map fun i => (nth (0 : Word) p.force.vfsoft i).toNat % 4096
        match (if ok then victim set (bitsOf mask 16) (soft.getD 3072 ≤ occ) r.vf else none) with
        | none => s.bankAccess r
        | some (w, old) =>
          let s := match old with | some x => s.evictLine x r.vf r.cls | none => s
          let pinned := (set.filter fun y => y.cnt && y.uc == 15 && some y != old).length
          let above := r.uc = 15 ∧ 12 ≤ pinned
          let x : SliceLine := {
            leaf := r.leaf, slice := sliceOf r.line, set := sliceSet r.line, way := w, line := r.line, vf := r.vf, part := p.num
            uc := if above then 0 else r.uc, cnt := r.uc != 0 && !above, dz := r.dz, dirty := 0, used := s.clock, back := [] }
          let s1 := { s with slices := s.slices ++ [x.written below r.wmask] }
          ((s1.l3Enter r.vf r.line).setLeaf r.leaf r.line state).count r.vf 10 lineBytes

-- ## coherent reads and writes by agents that allocate nothing

/-- A coherent read of physical memory: rows that own its lines give them up first. -/
def State.readMem (s : State) (a n : Nat) : List Byte × State :=
  let s1 := ((List.range ((a % lineBytes + n + lineBytes - 1) / lineBytes)).foldl
    (fun s i => (s.recallLine (a / lineBytes + i)).claimLine none (a / lineBytes + i) false) s)
  (Memory.readN s1.mem a n, s1)

/-- A coherent write of physical memory: every copy is recalled first; an L3 line that holds the bytes is dirty. -/
def State.writeMem (s : State) (a : Nat) (bs : List Byte) : State :=
  let s1 := ((List.range ((a % lineBytes + bs.length + lineBytes - 1) / lineBytes)).foldl
    (fun s i => (s.recallLine (a / lineBytes + i)).claimLine none (a / lineBytes + i) true) s)
  { s1 with mem := Memory.writeN s1.mem a bs
            l3 := s1.l3.map fun (e : L3Line) =>
              if overlap a (a + bs.length) (e.line * lineBytes) (e.line * lineBytes + lineBytes) then e.written (s1.lineNow e.line) else e }

-- ## writes from outside that a replay puts back (R388, R404, R413)

/-- The agents outside the device: the companion processor and another device. -/
def companion : Agent := outsideAgent 4 0
def remoteDevice (dev : Nat) : Agent := { outsideAgent 5 0 with key := dev }

/-- The bytes of an HWR or RWR event. -/
def LogEvent.bytes (e : LogEvent) : List Byte := ((e.more.drop 2).flatMap fun w => leBytes 8 w.toNat).take (e.a.toNat % 256)

/-- The first logged write from outside to a line of a partition performs, once the line's SEQ is the one before its own. -/
def State.putBackLine (s : State) (vf line : Nat) : Option State :=
  match s.partOf vf with
  | none => none
  | some p => match p.log.spine.find? fun e => e.outside line with
    | none => none
    | some e =>
      let r := s.orderRec p.log.epoch line
      let pa := (nth (0 : Word) e.more 0).toNat
      if r.seq + 1 ≠ (nth (0 : Word) e.more 1).extractLsb' 8 24 ∨ rangeOf pa ≠ some 0 then none
      else
        let a := if e.code = 0x22 then companion else remoteDevice (wfield (nth 0 e.more 1) 51 13)
        let s1 := s.meetEvent (.spine e.grp) e
        some ({ s1 with orders := Sparse.set OrderRec.absent s1.orders line (r.step a.num true).1 }.writeMem pa e.bytes)

/-- The order step of an access; one that a replay holds for a write from outside has it put back first (R413). -/
def State.orderIn (s : State) (vf : Nat) (coll : LogTo) (x : Access1) : Ordered :=
  match s.order vf coll x with
  | .hold => match s.putBackLine vf x.key with
    | some s1 => s1.order vf coll x
    | none => .hold
  | o => o

/-- The order step of a spine agent; an error leaves the state of an access that is held, or that diverges. -/
def State.spineOrder (s : State) (vf : Nat) (x : Access1) : Except State State :=
  match s.orderIn vf (.spine vf) x with
  | .go s1 => .ok s1
  | .hold => .error s
  | .diverge => .error (s.divergeSpine vf)

/-- A touch of a row in I fills it (R199, R200): the slice for its core's leaf obtains the line exclusively, records the core as its
stash owner, and the row takes the bytes and is in V. `cls` is the class of the agent that touches it. -/
def State.fillRow (s : State) (key : Nat) (vf : Nat) (cls : Nat := 0) : State :=
  let r := s.row key
  if r.st = .i then
    let leaf := leafOf (key / 4096)
    let s1 := (s.sliceAccess { leaf, vf, line := r.line, read := true, wmask := 0, uc := 0, dz := false, uncached := false, cls, bytes := lineBytes
                               excl := true }).ownerRoom leaf r.line
    let s2 := { s1 with stash := Memory.writeN s1.stash (key * lineBytes) (Memory.readN s1.mem (r.line * lineBytes) lineBytes) }.setRow key
      { r with st := .v, dirty := 0 }
    (s2.reapDead r.line).setLeaf leaf r.line .modified
  else s

/-- Bytes of a mapped row have been stored to: it is in D (R199). -/
def State.dirtyRow (s : State) (a n : Nat) : State :=
  let key := a / lineBytes
  let r := s.row key
  match r.st with
  | .v | .d => s.setRow key { r with st := .d, checked := false
                                     dirty := r.dirty ||| BitVec.ofNat 128 ((2 ^ n - 1) * 2 ^ (a % lineBytes)) }
  | .p | .i => s

/-- Ownership of a row's line is released: the row is in P with its bytes kept (R199). -/
def State.releaseRow (s : State) (key : Nat) : State :=
  let s1 := (s.drainForward key).writeBackRow key
  let r := s1.row key
  let s2 := s1.setRow key { r with st := .p, line := 0, gpa := 0, dirty := 0, checked := false }
  if r.st = .v then s2.leaveLeaf (leafOf (key / 4096)) r.line else s2

end Sys2Proof.Machine
end

