-- ==== Sys2Proof/Machine/Scope.lean ====
section
/-! DEFINITION. The scope checker (R222, R232, R233): one record per line of its last synchronising access. -/
namespace Sys2Proof.Machine

/-- Agent `b` is in the scope instance of an access of agent `a` (R222). -/
def Agent.includes (a : Agent) (sco : BitVec 3) (b : Agent) : Bool :=
  let work : Bool := a.kind ≤ 2 && b.kind ≤ 2 && a.cluster == b.cluster
  match sco.toNat with
  | 0 => (work && a.team == b.team) || (a.kind == b.kind && a.key == b.key && a.vf == b.vf)
  | 1 => work || (a.kind == b.kind && a.key == b.key && a.vf == b.vf)
  | 2 => b.kind ≠ 4 && b.kind ≠ 5
  | 3 => b.kind ≠ 5
  | _ => true

/-- The node of a kernel is not done and has not failed: the kernel has not completed (R163, R232). -/
def Launch.unfinished (l : Launch) (node : Nat) : Bool :=
  l.nodes.any fun n => n.idx == node && n.state != .done && n.state != .failed

/-- The kernel of an agent has not completed (R163): its launch still runs its node, or a cluster of it exists. -/
def State.kernelRuns (s : State) (a : Agent) : Bool :=
  2 < a.kind || (s.clusters.any fun c => c.vf == a.vf && c.gslot == a.gslot && c.node == a.node && c.launch == a.launch)
    || (match (s.vf a.vf).slots.find? fun e => e.1 == a.gslot with
        | some (_, sl) => sl.running.any fun l => l.count == a.launch && l.unfinished a.node
        | none => false)

/-- This device's number in the pod (R373). -/
def State.deviceNum (s : State) : Nat := s.device.devcfg.toNat % 8192

/-- The record of a line, absent when its kernel has completed. -/
def State.scopeRec (s : State) (line : Nat) : Option ScopeRec :=
  let r := Sparse.get noScope s.scopes line
  if r = noScope ∨ !s.kernelRuns r.agent then none else some r

/-- The check of R233 for an access to a line. -/
def State.scopeTrap (s : State) (a : Agent) (line : Nat) (sco : BitVec 3) (ord : BitVec 2) (lane : Option Nat) : Option TrapReq :=
  match s.scopeRec line with
  | none => none
  | some r =>
    if a.includes sco r.agent && r.agent.includes r.sco a then none
    else some (mkTrap 9 1 (line % 2 ^ 57 * 128 + sco.toNat * 16 + ord.toNat * 4 + 2 ^ 64 * r.sco.toNat
      + 2 ^ 67 * s.deviceNum + 2 ^ 80 * r.agent.core + 2 ^ 88 * r.agent.slot + 2 ^ 92 * r.agent.quad) lane)

/-- The access is recorded. -/
def State.scopePut (s : State) (a : Agent) (line : Nat) (sco : BitVec 3) : State :=
  { s with scopes := Sparse.set noScope s.scopes line { agent := a, sco } }

end Sys2Proof.Machine
end

