-- ==== Sys2Proof/Machine/Translate.lean ====
section
/-! DEFINITION. Two-stage translation (R195, R196, R215 to R219): the walks, the checks of R218 in their order with
their details, the translation buffers and walk caches, and the addresses of one instruction by 64 KiB granule. A
buffered entry may have left its buffer at any time: a free value decides whether it is still there. -/
namespace Sys2Proof.Machine

/-- Kinds of access in a fault's detail (R303). -/
inductive Access where
  | read | write | fetch | rmw
  deriving DecidableEq, Repr

def Access.code : Access → Nat
  | .read => 0 | .write => 1 | .fetch => 2 | .rmw => 3

/-- Who asks for a translation: its core (none for the spine), its VF, and whether it is a system handler; `dev`
allows device type and `normal` demands normal type (R218). -/
structure Asker where
  core : Option Nat
  vf : Nat
  sys : Bool := false
  dev : Bool := false
  normal : Bool := false
  elem : Nat := 0

/-- The levels of R215: number, lowest index bit, index bits. -/
def levels : List (Nat × Nat × Nat) := [(0, 47, 10), (1, 38, 9), (2, 29, 9), (3, 21, 8), (4, 16, 5)]

/-- The lowest address bit below a page of a level. -/
def pageBits (level : Nat) : Nat := if level = 2 then 29 else if level = 3 then 21 else 16

def entryAddr (e : Word) : Nat := (e.extractLsb' 16 36).toNat * 65536
def entryMt (e : Word) : Nat := (e.extractLsb' 6 2).toNat

/-- What is wrong with a table entry (R218): code 1 or 3 of cause group 6. -/
def entryBad (level : Nat) (e : Word) : Option Nat :=
  let leaf := e.getLsbD 1
  if !e.getLsbD 0 then some 1
  else if e.extractLsb' 52 12 ≠ 0 ∨ e.extractLsb' 8 8 ≠ 0 ∨ e.getLsbD 2 ∨ (leaf ∧ level ≤ 1) ∨ (!leaf ∧ level = 4)
      ∨ entryMt e = 3 ∨ (leaf ∧ entryAddr e % 2 ^ pageBits level ≠ 0) then some 3
  else none

/-- The detail of cause groups 6 and 7 (R303): address, stage, level, access, element, level being walked. -/
def xlTrap (grp code addr stage level acc elem walk : Nat) : TrapReq :=
  mkTrap grp code (addr + 2 ^ 64 * stage + 2 ^ 65 * level + 2 ^ 68 * acc + 2 ^ 70 * elem + 2 ^ 74 * walk)

/-- The walkers read a table entry in memory, in the order of its line (R393): an acquire at system scope, which the scope checker
checks and records as every synchronising access (R219, R233). -/
def State.walkRead (s : State) (vf pa : Nat) : Except TrapReq Word × State :=
  match s.orderIn vf (.spine vf) { key := pa / lineBytes, agent := walker vf, write := false } with
  | .hold => (.error heldWalk, s)
  | .diverge => (.error (divergence 5 4 ((s.curGroup.map (·.ltime)).getD 0)), s)
  | .go s1 => match s1.scopeTrap (walker vf) (pa / lineBytes) 3 1 none with
    | some t => (.error t, s)
    | none =>
      let (bs, s2) := (s1.scopePut (walker vf) (pa / lineBytes) 3).readMem pa 8
      (.ok (BitVec.ofNat 64 (leNat bs)), s2)

/-- A table entry through the walk cache of its stage (R219); entries that fault are not kept (R218). Each stage has 1,024
entries, of which the oldest makes room (log entry 94). Whether a kept entry is used or
read again is free where the two differ or a log tells them apart (log entry 10). -/
def State.tableEntry (s : State) (vf : Nat) (stage2 : Bool) (owner level key pa : Nat) : Except TrapReq Word × State :=
  let same (w : WalkEntry) : Bool := w.stage2 == stage2 && w.owner == owner && w.level == level && w.key == key
  let fetch (s : State) : Except TrapReq Word × State :=
    match s.walkRead vf pa with
    | (.error t, s) => (.error t, s)
    | (.ok e, s) =>
      let rest := s.walks.filter fun x => !same x
      let ofStage (w : WalkEntry) : Bool := w.stage2 == stage2
      let kept := if 1024 ≤ (rest.filter ofStage).length then rest.eraseP ofStage else rest
      (.ok e, if level ≤ 2 ∧ (entryBad level e).isNone then { s with walks := kept ++ [{ stage2, owner, level, key, e }] }
              else { s with walks := rest })
  match s.walks.find? same with
  | some w =>
    let agrees : Bool := s.log vf == 0 && (match (fetch s).1 with | .ok e => e == w.e | .error _ => false)
    if agrees then (.ok w.e, s)
    else
      let (n, s1) := s.free
      if n % 2 = 0 then (.ok w.e, s1) else fetch s1
  | none => fetch s

/-- A walk from the root down (R218): the leaf entry and its level. -/
def walkLevels (rd : State → Nat → Nat → Nat → Except TrapReq Word × State) (bad : Nat → Nat → TrapReq) (a : Nat) :
    List (Nat × Nat × Nat) → Nat → State → Except TrapReq (Word × Nat) × State
  | [], _, s => (.error (bad 3 4), s)
  | (lv, sh, n) :: rest, node, s =>
    match rd s lv (a >>> sh) (node + 8 * (a >>> sh % 2 ^ n)) with
    | (.error t, s) => (.error t, s)
    | (.ok e, s) =>
      match entryBad lv e with
      | some c => (.error (bad c lv), s)
      | none => if e.getLsbD 1 then (.ok (e, lv), s) else walkLevels rd bad a rest (entryAddr e) s

/-- Stage 2 of a guest physical address: its leaf (R215). `acc`, `elem` and `walk` fill the detail. -/
def State.stage2 (s : State) (vf gpa acc elem walk : Nat) : Except TrapReq (Word × Nat) × State :=
  let bad (c lv : Nat) : TrapReq := xlTrap 6 c gpa 1 lv acc elem walk
  match s.partOf vf with
  | none => (.error (bad 1 7), s)
  | some p =>
    if p.ps2root.getLsbD 0 then
      walkLevels (fun s lv key pa => s.tableEntry vf true p.num lv key pa) bad gpa levels
        (entryAddr p.ps2root) s
    else (.error (bad 1 7), s)

/-- The physical address a leaf gives. -/
def leafPa (e : Word) (lv a : Nat) : Nat := entryAddr e + a % 2 ^ pageBits lv

/-- Stage 1 of a virtual address: its leaf; each table entry's address passes stage 2 (R218). -/
def State.stage1 (s : State) (vf va acc elem : Nat) : Except TrapReq (Word × Nat) × State :=
  let bad (c lv : Nat) : TrapReq := xlTrap 6 c va 0 lv acc elem 7
  let root := (s.vf vf).s1root
  if root.getLsbD 0 then
    walkLevels (fun s lv key gpa =>
        match s.stage2 vf gpa 0 elem lv with
        | (.error t, s) => (.error t, s)
        | (.ok (e2, l2), s) =>
          let pa := leafPa e2 l2 gpa
          if (rangeOf pa).isNone then (.error (xlTrap 6 4 gpa 1 l2 0 elem lv), s)
          else s.tableEntry vf false vf lv key pa)
      bad (va % 2 ^ 57) levels (entryAddr root) s
  else (.error (bad 1 7), s)

/-- A found translation: the leaves of both stages. -/
structure Leaves where
  e1 : Word
  l1 : Nat
  e2 : Word
  l2 : Nat

/-- The walk of both stages. -/
def State.walkBoth (s : State) (vf va acc elem : Nat) : Except TrapReq Leaves × State :=
  match s.stage1 vf va acc elem with
  | (.error t, s) => (.error t, s)
  | (.ok (e1, l1), s) =>
    match s.stage2 vf (leafPa e1 l1 va) acc elem 7 with
    | (.error t, s) => (.error t, s)
    | (.ok (e2, l2), s) => (.ok { e1, l1, e2, l2 }, s)

/-- The checks after the walk, in the order of R218; the physical address and the effective type. With LOG on, companion-processor
memory is of uncached type (R390). -/
def checkLeaves (a : Asker) (acc : Access) (va : Nat) (x : Leaves) (logged : Bool) : Except TrapReq (Nat × Nat) :=
  let gpa := leafPa x.e1 x.l1 va
  let pa := leafPa x.e2 x.l2 gpa
  let k := acc.code
  let s1 (g c : Nat) : TrapReq := xlTrap g c va 0 x.l1 k a.elem 7
  let s2 (g c : Nat) : TrapReq := xlTrap g c gpa 1 x.l2 k a.elem 7
  let mt := max (max (entryMt x.e1) (entryMt x.e2)) (logged && rangeOf pa == some 1).toNat
  let refused (m : Nat) : Bool := (m == 2 && !a.dev) || (m != 0 && a.normal)
  let wr : Bool := acc == .write || acc == .rmw
  match rangeOf pa with
  | none => .error (s2 6 4)
  | some rg =>
    if wr ∧ !x.e1.getLsbD 3 then .error (s1 7 1) else if wr ∧ !x.e2.getLsbD 3 then .error (s2 7 1)
    else if acc = .fetch ∧ !x.e1.getLsbD 4 then .error (s1 7 2) else if acc = .fetch ∧ !x.e2.getLsbD 4 then .error (s2 7 2)
    else if !a.sys ∧ x.e1.getLsbD 5 then .error (s1 7 3) else if !a.sys ∧ x.e2.getLsbD 5 then .error (s2 7 3)
    else if refused (entryMt x.e1) then .error (s1 7 4)
    else if refused mt ∨ (decide (mt = 2) != decide (rg = 2)) then .error (s2 7 4)
    else .ok (pa, mt)

/-- A buffered translation covers an address for an asker: first its core's buffer, then its leaf's (R219). -/
def State.buffered (s : State) (a : Asker) (va : Nat) : Option TlbEntry :=
  match a.core with
  | none => none
  | some c =>
    let cover (t : TlbEntry) : Bool := t.vf == a.vf && t.leaf == leafOf c && t.va == va / 2 ^ t.bits * 2 ^ t.bits
    match s.tlb.find? fun t => cover t && t.core == some c with
    | some t => some t
    | none => s.tlb.find? fun t => cover t && t.core.isNone

/-- The set of a translation in a leaf's buffer of 1,024 sets, from the address of its page (R219; the index is the model's, log
entry 105). -/
def tlbSet (t : TlbEntry) : Nat := t.va / 2 ^ t.bits % 1024

/-- Adds a translation to a buffer: to all of a core's 64 entries, or to the 8 ways of its set in a leaf's (R219). -/
def tlbAdd (l : List TlbEntry) (t : TlbEntry) (cap : Nat) : List TlbEntry :=
  let same (u : TlbEntry) : Bool := u.leaf == t.leaf && u.core == t.core && (t.core.isSome || tlbSet u == tlbSet t)
  let l1 := l.filter fun u => !(same u && u.vf == t.vf && u.va == t.va && u.bits == t.bits)
  (if cap ≤ (l1.filter same).length then (match l1.find? same with | some u => l1.erase u | none => l1) else l1) ++ [t]

/-- Both buffers of the asker receive a translation. -/
def State.tlbFill (s : State) (a : Asker) (va : Nat) (x : Leaves) : State :=
  match a.core with
  | none => s
  | some c =>
    let b := min (pageBits x.l1) (pageBits x.l2)
    let t (core : Option Nat) : TlbEntry := { leaf := leafOf c, core, vf := a.vf, va := va / 2 ^ b * 2 ^ b, bits := b,
                                              level1 := x.l1, e1 := x.e1, level2 := x.l2, e2 := x.e2 }
    { s with tlb := tlbAdd (tlbAdd s.tlb (t (some c)) 64) (t none) 8 }

/-- A permission fault removes the translation from every buffer of the leaf, and the entries it used from the walk caches, so that a
replay walks again and finds any entry rewritten (R218). -/
def State.tlbDrop (s : State) (a : Asker) (va : Nat) (x : Leaves) : State :=
  let gpa := leafPa x.e1 x.l1 va
  let part := ((s.partOf a.vf).map (·.num)).getD 12
  let used (w : WalkEntry) : Bool := levels.any fun (lv, sh, _) => w.level == lv &&
    (if w.stage2 then w.owner == part && w.key == gpa >>> sh else w.owner == a.vf && w.key == (va % 2 ^ 57) >>> sh)
  let s1 := { s with walks := s.walks.filter fun w => !used w }
  match a.core with
  | none => s1
  | some c => { s1 with tlb := s1.tlb.filter fun t => !(t.vf == a.vf && t.leaf == leafOf c && t.va == va / 2 ^ t.bits * 2 ^ t.bits) }

/-- The walk, its buffers, and the checks. -/
def State.walkChecked (s : State) (a : Asker) (acc : Access) (va : Nat) : Except TrapReq (Nat × Nat) × State :=
  match s.walkBoth a.vf va acc.code a.elem with
  | (.error t, s) => (.error t, s)
  | (.ok x, s) => match checkLeaves a acc va x (s.log a.vf != 0) with
    | .error t => (.error t, s.tlbDrop a va x)
    | .ok r => (.ok r, s.tlbFill a va x)

/-- Translation of one address: canonical check, buffers, walk, checks (R196, R218, R219). The result is the
physical address and the memory type. Whether a buffered translation is used or walked again is free where the two differ or a
log tells them apart (log entry 10). -/
def State.translate (s : State) (a : Asker) (acc : Access) (va : Word) : Except TrapReq (Nat × Nat) × State :=
  let n := va.toNat
  if (va.extractLsb' 56 8 ≠ 0) ∧ (va.extractLsb' 56 8 ≠ 0xFF) then (.error (mkTrap 6 2 (n + 2 ^ 68 * acc.code)), s)
  else match s.buffered a n with
    | none => s.walkChecked a acc n
    | some t =>
      let x : Leaves := { e1 := t.e1, l1 := t.level1, e2 := t.e2, l2 := t.level2 }
      let held (s : State) : Except TrapReq (Nat × Nat) × State :=
        match checkLeaves a acc n x (s.log a.vf != 0) with
        | .error e => (.error e, s.tlbDrop a n x)
        | .ok r => (.ok r, s)
      let agrees : Bool := s.log a.vf == 0 && (match (s.walkBoth a.vf n acc.code a.elem).1 with
        | .ok x => x.e1 == t.e1 && x.l1 == t.level1 && x.e2 == t.e2 && x.l2 == t.level2
        | .error _ => false)
      if agrees then held s
      else
        let (k, s1) := s.free
        if k % 2 = 0 then held s1 else (s1.tlbDrop a n x).walkChecked a acc n

/-- The asker of a group's accesses; level 2 is a system handler (R302). -/
def Group.asker (g : Group) : Asker := { core := some g.id.core, vf := g.id.vf, sys := g.trap.lvl == 2 }

/-- Translates the lanes of an instruction: each 64 KiB granule once, in the order of the lowest lane naming it; a
fault names that lane (R219). `seen` holds granules already found with their physical bases and types. -/
def State.translateLanes (s : State) (a : Asker) (acc : Access) :
    List (Nat × Word) → List (Nat × Nat × Nat) → Except TrapReq (List (Nat × Nat)) × State
  | [], _ => (.ok [], s)
  | (l, va) :: rest, seen =>
    let gr := va.toNat / 65536
    match seen.find? fun x => x.1 == gr with
    | some (_, base, mt) =>
      match s.translateLanes a acc rest seen with
      | (.error t, s) => (.error t, s)
      | (.ok r, s) => (.ok ((base + va.toNat % 65536, mt) :: r), s)
    | none =>
      match s.translate a acc va with
      | (.error t, s) => (.error { t with lane := some l }, s)
      | (.ok (pa, mt), s) =>
        match s.translateLanes a acc rest (seen ++ [(gr, pa - pa % 65536, mt)]) with
        | (.error t, s) => (.error t, s)
        | (.ok r, s) => (.ok ((pa, mt) :: r), s)

end Sys2Proof.Machine
end

