-- ==== Sys2Proof/Machine/Record.lean ====
section
/-! DEFINITION. Recording (R396 to R401): digests, records, and their writing to the quire ring. -/
namespace Sys2Proof.Machine

-- ## digests (R396)

/-- One step of a digest. -/
def mix (d x : Word) : Word :=
  let z := (d ^^^ x) * 0xBF58476D1CE4E5B9
  z ^^^ (z >>> 31)

/-- The words of a byte run: each 8-byte piece as its address and its bytes (R396). -/
def runWords (a : Nat) (bs : List Byte) : List Word :=
  (List.range ((bs.length + 7) / 8)).flatMap fun i =>
    [BitVec.ofNat 64 (a + 8 * i), BitVec.ofNat 64 (leNat ((bs.drop (8 * i)).take 8))]

/-- An entry of a list ordered by key, whatever its value. -/
def putKey {α : Type} : List (Nat × α) → Nat → α → List (Nat × α)
  | [], k, v => [(k, v)]
  | (k', v') :: r, k, v => if k < k' then (k, v) :: (k', v') :: r else if k = k' then (k, v) :: r else (k', v') :: putKey r k v

/-- The digests of a group's retired words are carried to its team's signature. -/
def State.flushDig (s : State) (g : Group) : State :=
  match s.team? g.id.team with
  | none => s
  | some t =>
    let d0 : Word := BitVec.ofNat 64 t.sig.sign
    let i := g.id.tidx
    let r := (g.dig.flatMap (·.r)).foldl mix (if t.sig.rdig.any fun e => e.1 == i then Sparse.get 0 t.sig.rdig i else d0)
    let m := (g.dig.flatMap (·.m)).foldl mix (if t.sig.mdig.any fun e => e.1 == i then Sparse.get 0 t.sig.mdig i else d0)
    s.setTeam { t with sig := { t.sig with rdig := putKey t.sig.rdig i r, mdig := putKey t.sig.mdig i m } }

/-- Register parts in digest order: by kind, number and lane, which stand above the value. -/
def insertPart (x : Word) : List Word → List Word
  | [] => [x]
  | y :: r => if x.toNat / 2 ^ 32 < y.toNat / 2 ^ 32 then x :: y :: r else y :: insertPart x r

/-- An access has performed: the words of the registers and memory it wrote join the digest item of its word. -/
def Group.resolveDig (g : Group) (inst : Nat) (r m : List Word) (last : Bool) : Group :=
  { g with dig := g.dig.map fun d => if d.inst = some inst then
      { d with r := if last then (d.r ++ r).foldl (fun l x => insertPart x l) [] else d.r ++ r, m := d.m ++ m
               inst := if last then none else d.inst } else d }

-- ## records and the quire ring (R396 to R401)

/-- The first word of an event. -/
def LogEvent.head (e : LogEvent) (grp : Nat) (dlt : Word) : Word :=
  BitVec.ofNat 64 (e.code * 2 ^ 58 + grp * 2 ^ 54 + dlt.toNat % 2 ^ 22 * 2 ^ 32 + e.a.toNat)

/-- The words of events in order, with counts relative to each group's previous event. -/
def eventWords : List LogEvent → Sparse Word → List Word
  | [], _ => []
  | e :: r, prev => e.head e.grp (e.time - prev.get 0 e.grp) :: e.more ++ eventWords r (prev.set 0 e.grp e.time)

/-- A record: header, body, MAC (R396, R429). -/
def mkRecord (part type sign : Nat) (body : List Word) : List Word :=
  let l := BitVec.ofNat 64 (type * 2 ^ 56 + 2 ^ 48 + (body.length + 2) % 2 ^ 16 * 2 ^ 32 + sign % 2 ^ 32) :: body
  l ++ [Config.mac part l]

/-- The most words a record can have: LEN has 16 bits (R396). -/
def recordLimit : Nat := 65535

/-- The events that fit into a number of words, and the others. -/
def fitEvents : Nat → List LogEvent → List LogEvent × List LogEvent
  | _, [] => ([], [])
  | room, e :: r =>
    if room < 1 + e.more.length then ([], e :: r)
    else
      let (a, b) := fitEvents (room - 1 - e.more.length) r
      (e :: a, b)

/-- The words that a signature of a team holds beside its events. -/
def Team.fixedWords (t : Team) : Nat := 5 + 3 * t.sig.starts.length

/-- A signature with the events that fit into its record, and the events left for the next one (R394). -/
def Team.fitted (t : Team) : Team × List LogEvent :=
  let (a, b) := fitEvents (recordLimit - t.fixedWords) t.sig.events
  ({ t with sig := { t.sig with events := a } }, b)

/-- The signature of a team as it closes (R396). -/
def Team.record (t : Team) (c : Cluster) (part : Nat) : List Word :=
  let here := t.sig.starts.map (·.1)
  mkRecord part 1 t.sig.sign
    ([BitVec.ofNat 64 (c.vf * 2 ^ 56 + t.num * 2 ^ 52 + c.clustid % 2 ^ 48), BitVec.ofNat 64 c.gridid,
      BitVec.ofNat 64 ((here.foldl (fun m i => m + 2 ^ i) 0) * 2 ^ 48 + t.sig.pcore * 2 ^ 40)]
     ++ here.map (fun i => Sparse.get 0 t.sig.starts i) ++ eventWords t.sig.events t.sig.starts
     ++ here.flatMap fun i => [Sparse.get 0 t.sig.rdig i, Sparse.get 0 t.sig.mdig i])

/-- Size in bytes and base of the quire ring in force (R398). -/
def Partition.ringSize (p : Partition) : Nat := p.force.qrbase.toNat % 128 * 2 ^ 30
def Partition.ringBase (p : Partition) : Nat := p.force.qrbase.toNat / 2 ^ 30 * 2 ^ 30

/-- A record's bytes are written to the ring as a system-scope release of the spine, charged to the partition (R332, R399). -/
def State.ringBytes (s : State) (p : Partition) (a : Nat) (bs : List Byte) : State :=
  let agent := outsideAgent 3 p.spineVf
  (List.range ((a % lineBytes + bs.length + lineBytes - 1) / lineBytes)).foldl (fun s i =>
    let line := a / lineBytes + i
    let n := min (a + bs.length) (line * lineBytes + lineBytes) - max a (line * lineBytes)
    (s.charge (bankUnit line) p.spineVf 0 n).scopePut agent line 3) (s.writeMem a bs)

/-- Writes words into the ring at QRHEAD, a pad record first where the end would be crossed (R399). The offset of an anchor's record is
kept for its confirmation (R400). -/
def State.ringWrite (s : State) (p : Partition) (ws : List Word) : State :=
  let size := p.ringSize
  let n := ws.length * 8
  let head := p.log.qrhead.toNat
  let off := head % size
  let bytes (l : List Word) : List Byte := l.flatMap fun w => leBytes 8 w.toNat
  let (s1, head1) := if size < off + n then
      (s.ringBytes p (p.ringBase + off) (leBytes 8 (2 ^ 48 + (size - off) / 8 % 2 ^ 16 * 2 ^ 32) ++ List.replicate (size - off - 8) 0), head + (size - off)) else (s, head)
  let s2 := s1.ringBytes p (p.ringBase + head1 % size) (bytes ws)
  let p2 := s2.part p.num
  let w0 := nth (0 : Word) ws 0
  s2.setPart { p2 with log := { p2.log with qrhead := BitVec.ofNat 64 (head1 + n)
                                            anchorAt := if wfield w0 56 8 = 2 then some (wfield w0 0 32, BitVec.ofNat 64 head1) else p2.log.anchorAt } }

/-- A record fits under the reserve of R399; anchor, gap and colophon records use the reserve. -/
def Partition.fits (p : Partition) (n : Nat) (reserve : Bool) : Bool :=
  let size := p.ringSize
  let off := p.log.qrhead.toNat % size
  let pad := if size < off + n * 8 then size - off else 0
  decide (p.log.qrhead.toNat + pad + n * 8 - p.log.qrold.toNat ≤ size - (if reserve then 0 else 65536))

/-- The number of the spine's collator, and of the spine itself, among those that write records. -/
def spineCore : Nat := 256

/-- The type of a record, and one that may use the reserve: anchor, colophon and gap (R399, R400). -/
def recordType (ws : List Word) : Nat := wfield (nth 0 ws 0) 56 8
def usesReserve (ws : List Word) : Bool := recordType ws == 2 || recordType ws == 3 || recordType ws == 5

/-- A record waits for room in the ring. -/
def State.postpone (s : State) (part core : Nat) (ws : List Word) : State :=
  let p := s.part part
  s.setPart { p with log := { p.log with pending := p.log.pending ++ [{ words := ws, core }] } }

/-- A record is written when it fits and no record of its collator waits (R399). -/
def Partition.ringTakes (p : Partition) (core : Nat) (ws : List Word) : Bool :=
  p.fits ws.length (usesReserve ws) && !(p.log.pending.any fun x => x.core == core)

/-- The record of the open gap: its PTIME and the records dropped so far. -/
def Partition.gapWords (p : Partition) : List Word := mkRecord p.num 5 p.log.gapCount [BitVec.ofNat 64 p.log.gapFrom, BitVec.ofNat 64 p.log.dropped, 0, 0]

/-- A gap opens, with one record dropped (R401): its record is written from the reserve, once there is room. -/
def State.openGap (s : State) (part : Nat) : State :=
  let p := s.part part
  let n := p.log.gapCount + 1
  let q := { p with log := { p.log with dropping := true, gapCount := n, dropped := 1, gapFrom := s.ns, gapPos := none
                                        rrstat := p.log.rrstat &&& ~~~0xFFFF0000 ||| BitVec.ofNat 64 (min n 65535 * 65536) } }
  let s1 := s.setPart q
  if q.ringTakes spineCore q.gapWords then
    let s2 := s1.ringWrite q q.gapWords
    let r := s2.part part
    s2.setPart { r with log := { r.log with gapPos := some (r.log.qrhead.toNat - 48) } }
  else s1.postpone part spineCore q.gapWords

/-- One more record is dropped in the open gap, whose record counts it (R400, R401). -/
def State.dropRecord (s : State) (part : Nat) : State :=
  let p := s.part part
  let q := { p with log := { p.log with dropped := p.log.dropped + 1 } }
  let isGap (x : LogPost) : Bool := recordType x.words == 5 && wfield (nth 0 x.words 0) 0 32 == q.log.gapCount
  match p.log.gapPos with
  | some a => (s.setPart q).ringBytes q (q.ringBase + a % q.ringSize) (q.gapWords.flatMap fun w => leBytes 8 w.toNat)
  | none => s.setPart { q with log := { q.log with pending := q.log.pending.map fun (x : LogPost) => if isGap x then { x with words := q.gapWords } else x } }

/-- A record is written, waits for room, or is dropped in a gap (R399, R401). An anchor record is never dropped. -/
def State.writeRecord (s : State) (part core : Nat) (ws : List Word) : State :=
  let p := s.part part
  if p.ringSize = 0 then s
  else if p.log.dropping ∧ !usesReserve ws then s.dropRecord part
  else if p.ringTakes core ws then s.ringWrite p ws
  else if p.force.qrcfg.getLsbD 0 ∧ recordType ws ≠ 2 then (if p.log.dropping then s.dropRecord part else s.openGap part)
  else s.postpone part core ws

/-- The launch that names a spine signature (R397): a graph slot of the VF with a launch that runs, the lowest. -/
def State.launchName (s : State) (vf : Nat) : Word :=
  (((s.vf vf).slots.findSome? fun (k, sl) => sl.running.map fun l => BitVec.ofNat 64 (k * 2 ^ 58 + l.count % 2 ^ 42))).getD 0

/-- A spine signature of a VF closes (R397), with the events that fit; in REPLAY nothing is written, and the events still to be met
stay. -/
def State.closeSpine (s : State) (vf : Nat) (launch : Word) : State :=
  match s.partOf vf with
  | none => s
  | some p =>
    if s.log vf ≠ 1 then s
    else
      let (mine, later) := fitEvents (recordLimit - 4) (p.log.spine.filter fun e => e.grp == vf)
      let n := p.log.spineSign.get 0 vf
      let ws := mkRecord p.num 4 n ([BitVec.ofNat 64 (vf * 2 ^ 56), launch] ++ mine.flatMap fun e => e.head 0 0 :: e.more)
      (s.setPart { p with log := { p.log with spine := (p.log.spine.filter fun e => e.grp != vf) ++ later
                                              spineSign := p.log.spineSign.set 0 vf (n + 1) } }).writeRecord p.num spineCore ws

/-- The open spine signature of a VF closes of itself: at 2^16 events, or where its record reaches 65,535 words (R397; log entry 110). -/
def State.spineDue (s : State) (vf : Nat) : Bool :=
  let l := s.eventsAt (.spine vf)
  s.log vf == 1 && (decide (65536 ≤ l.length) || !(fitEvents (recordLimit - 4) l).2.isEmpty)

/-- Spine signatures that are due close. -/
def State.closeSpines (s : State) : State :=
  s.vfs.foldl (fun s v => if s.spineDue v.num then s.closeSpine v.num (s.launchName v.num) else s) s

/-- A spine event is logged. -/
def State.noteSpine (s : State) (vf code a : Nat) (more : List Word) : State :=
  if s.log vf = 1 then s.logEvent (.spine vf) { code, grp := vf, time := 0, a := BitVec.ofNat 32 a, more } else s

end Sys2Proof.Machine
end

