-- ==== Sys2Proof/Machine/Checks.lean ====
section
/-! DEFINITION. The checks of an access beyond translation: stash addresses (R197), range locks (R231, R274), staging slots (R235, R275) and their fold (R236). -/
namespace Sys2Proof.Machine

-- ## stash addresses (R197)

/-- The team of a cluster with a number. -/
def State.peer (s : State) (cluster num : Nat) : Option Team :=
  s.teams.find? fun t => t.cluster == cluster && t.num == num

/-- The team a stash address names for a group of team `t`: 15 is its own (R197). -/
def State.stashTeam (s : State) (t : Team) (n : Nat) : Option Team := if n = 15 then some t else s.peer t.cluster n

/-- The checks of R197 on a stash address, and the byte it names: the core's stash base + offset. -/
def State.stashByte (s : State) (g : Group) (va : Word) : Except TrapReq Nat :=
  let a := va.toNat
  let n := field a 20 4
  let off := a % 524288
  match s.team? g.id.team, s.cluster? g.id.cluster with
  | some t, some c =>
    if a / 2 ^ 24 ≠ 0 ∨ a.testBit 19 then .error (mkTrap 3 4 a)
    else
      let bad : Bool := n ≠ 15 ∧ (12 ≤ n ∨ c.w * c.h ≤ n)
      match s.stashTeam t n with
      | none => .error (mkTrap 3 5 a)
      | some u =>
        if bad then .error (mkTrap 3 5 a)
        else if u.stashRows * lineBytes ≤ off then .error (mkTrap 3 4 a)
        else .ok (u.core * Config.stashBytes + u.stashBase * lineBytes + off)
  | _, _ => .error (mkTrap 3 4 a)

-- ## range locks (R231, R274)

/-- A lock's destination or source range covers part of a range: global bytes of a VF, or stash bytes of a core. -/
def LockEntry.hits (e : LockEntry) (dst isStash : Bool) (owner lo hi : Nat) : Bool :=
  let sp := if dst then e.dsp else e.ssp
  let own := if isStash then (if dst then e.dcore else e.score) else e.vf
  let (a, b) := if dst then (e.dlo, e.dhi) else (e.slo, e.shi)
  (dst || !e.nosrc) && sp == isStash && own == owner && overlap lo hi a.toNat b.toNat

/-- The table entries of a core in ascending order. -/
def State.locksOf (s : State) (core : Nat) : List LockEntry :=
  (List.range 72).filterMap fun i => s.locks.find? fun e => e.core == core && e.idx == i

/-- The trap of R231 for one access of a group; `named` is the address as the access named it. -/
def State.lockTrap (s : State) (g : Group) (isStash : Bool) (owner lo hi : Nat) (write : Bool) (named : Nat)
    (lane : Option Nat) : Option TrapReq :=
  (s.locksOf g.id.core).findSome? fun e =>
    if e.hits true isStash owner lo hi then some (mkTrap 10 1 (named + 2 ^ 64 * e.idx) lane)
    else if write && e.hits false isStash owner lo hi then some (mkTrap 10 2 (named + 2 ^ 64 * e.idx) lane)
    else none

-- ## read-modify-writes, staging and folds

/-- The new value of a read-modify-write (R256). -/
def RmwOp.apply (op : RmwOp) (wide : Bool) (old d swap : Nat) : Nat :=
  let n := if wide then 64 else 32
  let x := BitVec.ofNat n old
  let y := BitVec.ofNat n d
  match op with
  | .add => (x + y).toNat
  | .min => if x.sle y then old else d
  | .max => if y.sle x then old else d
  | .and => (x &&& y).toNat
  | .or => (x ||| y).toNat
  | .xor => (x ^^^ y).toNat
  | .xchg => d
  | .cas => if old = d then swap else old

/-- Integer operations that do not conflict with each other (R238, R257). -/
def RmwOp.commutes : RmwOp → Bool
  | .add | .min | .max | .and | .or | .xor => true
  | .xchg | .cas => false

/-- Bytes of a staged unit. -/
def Slot.bytes (x : Slot) : Nat := if x.wide then 8 else 4

/-- A contribution at an address, by its name, differs from one staged for the same bytes (R235). -/
def State.stageTrap (s : State) (a named : Nat) (wide : Bool) (op : RmwOp) (lane : Option Nat) : Option TrapReq :=
  if s.slots.any fun x => overlap x.addr (x.addr + x.bytes) a (a + if wide then 8 else 4) && (x.wide != wide || x.op != op)
  then some (mkTrap 16 3 named lane) else none

/-- The slot a contribution joins. -/
def isSlot (y : Agent) (a : Nat) (x : Slot) : Bool :=
  x.addr == a && x.lcore == y.lcore && x.vf == y.vf && x.gslot == y.gslot && x.node == y.node && x.launch == y.launch

/-- The place of a word's slot: its slice on a leaf, or its L3 bank where nothing is allocated (R235). -/
def slotPlace (leaf a : Nat) (l3 : Bool) : Nat := if l3 then 384 + bankOf (a / lineBytes) else leaf * 96 + sliceOf (a / lineBytes)

/-- Both the slots of a place and the staging area are full for a new slot (R275). -/
def State.stageFull (s : State) (p : Partition) (place : Nat) : Bool :=
  let near := (s.slots.filter fun x => x.place == place && !x.spilled).length
  let far := (s.slots.filter fun x => x.spilled && (p.slotOf x.vf).isSome).length
  decide (2048 ≤ near ∧ p.force.pstage.toNat % 65536 * 65536 < (far + 1) * Config.stagedBytes)

/-- Stages a contribution (R235, R275). -/
def State.stage (s : State) (c : ConfAccess) (place a : Nat) (wide : Bool) (op : RmwOp) (v : Nat) : State :=
  if s.slots.any (isSlot c.agent a) then
    { s with slots := s.slots.map fun x => if isSlot c.agent a x then
        { x with value := BitVec.ofNat 64 (op.apply wide x.value.toNat v 0), from1 := c } else x }
  else
    let near := (s.slots.filter fun x => x.place == place && !x.spilled).length
    { s with slots := s.slots ++ [{ vf := c.agent.vf, gslot := c.agent.gslot, launch := c.agent.launch, node := c.agent.node, addr := a
                                    wide, lcore := c.agent.lcore, op, value := BitVec.ofNat 64 v, from1 := c, place, spilled := decide (2048 ≤ near) }] }

/-- Slots in ascending order of LCORE. -/
def insertSlot (x : Slot) : List Slot → List Slot
  | [] => [x]
  | y :: r => if x.lcore < y.lcore then x :: y :: r else y :: insertSlot x r

/-- Folds the slots of a kernel at one address into memory, once (R236). -/
def State.foldOne (s : State) (pick : Slot → Bool) (a : Nat) : State :=
  let mine := (s.slots.filter fun x => pick x && x.addr == a).foldl (fun l x => insertSlot x l) []
  match mine with
  | [] => s
  | x :: _ =>
    let (old, s1) := s.readMem a x.bytes
    let v := mine.foldl (fun v y => y.op.apply x.wide v y.value.toNat 0) (leNat old)
    { s1.writeMem a (leBytes x.bytes v) with slots := s1.slots.filter fun y => !(pick y && y.addr == a) }

/-- Folds every slot that a condition selects. -/
def State.fold (s : State) (pick : Slot → Bool) : State :=
  ((s.slots.filter pick).map (·.addr)).eraseDups.foldl (fun s a => s.foldOne pick a) s

/-- The same as writes of one spine agent in the order of their lines (R393, source 3); an error while a replay holds one. -/
def State.foldOrdered (s : State) (vf : Nat) (pick : Slot → Bool) : Except State State :=
  ((s.slots.filter pick).map (·.addr)).eraseDups.foldl (fun o a => o.bind fun s =>
    (s.spineOrder vf { key := a / lineBytes, agent := outsideAgent 3 vf, write := true, src := 3 }).map fun s => s.foldOne pick a) (.ok s)

end Sys2Proof.Machine
end

