-- ==== Sys2Proof/Machine/Access.lean ====
section
/-! DEFINITION. How a memory instruction issues (R136, R243): watchpoints (R417), stash addresses and alignment,
translation, range locks, and the operations it leaves pending until they perform (R150, R223). An access with a
step-5 check keeps the group as it stood, to take a failing check precisely (R23). -/
namespace Sys2Proof.Machine

/-- One lane's access as named: its address, size and data, and the register its value returns to. -/
structure LaneReq where
  lane : Nat
  va : Word
  size : Nat
  data : List Byte := []
  swap : List Byte := []
  reg : Nat := 0

/-- What an instruction accesses: the kind of its operations, its space, ordering fields and hints. -/
structure MemReq where
  kind : OpKind
  stash : Bool := false
  ord : BitVec 2 := 0
  sco : BitVec 3 := 0
  uc : BitVec 4 := 0
  dz : Bool := false
  elem : Nat := 0
  sync : Bool := false
  /-- cause group 8 code of a misaligned address (R303) -/
  align : Nat := 3
  /-- device pages are allowed (`sld`, `sst`: R218) -/
  dev : Bool := false
  /-- lines that older elements of the instruction have requested (R219) -/
  seen : List Nat := []

/-- The kind of access as permissions and details name it. -/
def OpKind.access : OpKind → Access
  | .load | .sload _ => .read
  | .store => .write
  | .rmw _ | .red _ | .mboxPut _ | .mboxGet _ | .frecv _ _ | .fsend _ => .rmw

def OpKind.writes (k : OpKind) : Bool := k.access != .read

/-- The bit of WPLO that watches a kind of access (R415, R417). -/
def Access.watchBit : Access → Nat
  | .read | .fetch => 2
  | .write => 1
  | .rmw => 0

/-- The watchpoint event of R417, at the lowest lane whose access overlaps an armed range. -/
def watchTrap (g : Group) (acc : Access) (elem : Nat) (l : List LaneReq) : Option TrapReq :=
  if g.exempt then none
  else l.findSome? fun r => [0, 1].findSome? fun n =>
    let lo := nth (0 : Word) g.cmp.wplo n
    let hi := nth (0 : Word) g.cmp.wphi n
    let a := lo.toNat / 8 * 8
    let b := hi.toNat / 8 * 8
    if hi.getLsbD 0 && lo.getLsbD acc.watchBit && overlap r.va.toNat (r.va.toNat + r.size) a b
    then some (mkTrap 18 3 (max a r.va.toNat + 2 ^ 64 * n + 2 ^ 70 * elem) (some r.lane)) else none

/-- log2 of an access size; 7 for a line. -/
def sizeLog (n : Nat) : Nat := Nat.log2 n

/-- Step 2 of R243 for one lane: its stash byte, or its address when global. -/
def State.place (s : State) (g : Group) (q : MemReq) (r : LaneReq) : Except TrapReq Nat :=
  let mis : TrapReq := mkTrap 8 q.align (r.va.toNat + 2 ^ 64 * sizeLog r.size) (some r.lane)
  if q.stash then
    match (if r.va.toNat / 2 ^ 32 ≠ 0 then .error (mkTrap 3 4 r.va.toNat) else s.stashByte g r.va) with
    | .error t => .error { t with lane := some r.lane }
    | .ok a => if r.va.toNat % r.size ≠ 0 then .error mis else .ok a
  else if r.va.toNat % r.size ≠ 0 then .error mis else .ok r.va.toNat

/-- A list of results, or the first failure. -/
def allOk {α : Type} : List (Except TrapReq α) → Except TrapReq (List α)
  | [] => .ok []
  | .error t :: _ => .error t
  | .ok a :: r => match allOk r with
    | .error t => .error t
    | .ok l => .ok (a :: l)

/-- The next store to a row that a stage-2 invalidation has checked translates its line again at stage 2 (R201, R343). -/
def State.recheckRow (s : State) (vf key : Nat) : Option TrapReq × State :=
  let r := s.row key
  if r.checked ∧ (r.st = .v ∨ r.st = .i) then
    match s.stage2 vf r.gpa 1 0 7 with
    | (.error t, s) => (some t, s)
    | (.ok (e, lv), s) => if e.getLsbD 3 then (none, s) else (some (xlTrap 7 1 r.gpa 1 lv 1 0 7), s)
  else (none, s)

/-- The same for a lane's store, which the trap names. -/
def State.recheck (s : State) (g : Group) (a : Nat) (lane : Nat) : Option TrapReq × State :=
  match s.recheckRow g.id.vf (a / lineBytes) with
  | (some t, s) => (some { t with lane := some lane }, s)
  | (none, s) => (none, s)

/-- Step 3 of R243: physical addresses and whether the page is uncached; stash bytes pass, but for checked rows. -/
def State.resolve (s : State) (g : Group) (q : MemReq) (l : List LaneReq) (places : List Nat) :
    Except TrapReq (List (Nat × Nat)) × State :=
  if q.stash then
    if q.kind.writes then
      (l.zip places).foldl (fun (x : Except TrapReq (List (Nat × Nat)) × State) y =>
        match x with
        | (.error t, s) => (.error t, s)
        | (.ok acc, s) => match s.recheck g y.2 y.1.lane with
          | (some t, s) => (.error t, s)
          | (none, s) => (.ok (acc ++ [(y.2, 0)]), s)) (.ok [], s)
    else (.ok (places.map fun a => (a, 0)), s)
  else s.translateLanes { g.asker with dev := q.dev, elem := q.elem } q.kind.access (l.map fun r => (r.lane, r.va)) []

/-- Step 4 of R243: the range locks of the issuing core. -/
def State.locksPass (s : State) (g : Group) (q : MemReq) (l : List LaneReq) (places : List Nat) : Option TrapReq :=
  (l.zip places).findSome? fun (r, a) =>
    if q.stash then s.lockTrap g true (a / Config.stashBytes) (a % Config.stashBytes) (a % Config.stashBytes + r.size) q.kind.writes
      r.va.toNat (some r.lane)
    else s.lockTrap g false g.id.vf a (a + r.size) q.kind.writes r.va.toNat (some r.lane)

/-- Groups the parts of a plain access by line. -/
def byLine : List Part → List (List Part)
  | [] => []
  | p :: r =>
    let rest := byLine r
    match rest.find? fun l => (l.head?.map fun x => x.addr / lineBytes) == some (p.addr / lineBytes) with
    | some _ => rest.map fun l => if (l.head?.map fun x => x.addr / lineBytes) = some (p.addr / lineBytes) then p :: l else l
    | none => [p] :: rest

/-- Rows that some stash bytes lie in. -/
def rowsOf (l : List Nat) : Nat := ((l.map fun a => a / lineBytes).eraseDups).length

/-- Entries of the forwarding table that the group's pending stash stores hold, one for each row of a store (R202). -/
def Group.forwarded (g : Group) : Nat :=
  ((g.ops.filter fun o => o.space == .stash && o.stores).map fun o => rowsOf (o.parts.map (·.addr))).sum

/-- The instruction must wait to issue: a counter stands at 255 (R150). -/
def Group.memStall (g : Group) (q : MemReq) : Bool :=
  (q.kind.isLoad && 255 ≤ g.ldcnt) || (!q.kind.isLoad && 255 ≤ g.stcnt)

/-- A stash store finds no room in the forwarding table for the entries of its rows (R202). One of more than 16 rows needs the
whole table empty (log entry 106). -/
def State.tableFull (s : State) (g : Group) (q : MemReq) (l : List LaneReq) : Bool :=
  q.stash && q.kind == .store && (match allOk (l.map (s.place g q)) with
    | .ok places => decide (16 < g.forwarded + min 16 (rowsOf places))
    | .error _ => false)

/-- Steps 2 to 4 of R243, and the operations left pending; `inst` numbers the instruction, `back` is the group as a
failing step-5 check finds it. Step 1 has passed. -/
def State.issueMem (s : State) (g back : Group) (q : MemReq) (inst : Nat) (l : List LaneReq) : Except TrapReq (State × Group) × State :=
  match watchTrap g q.kind.access q.elem l with
  | some t => (.error t, s)
  | none => match allOk (l.map (s.place g q)) with
    | .error t => (.error t, s)
    | .ok places => match s.resolve g q l places with
      | (.error t, s) => (.error t, s)
      | (.ok pas, s) => match s.locksPass g q l places with
        | some t => (.error t, s)
        | none =>
          let det := s.det g.id.vf
          let late := det || q.sync || q.ord != 0
          let parts : List Part := (l.zip pas).map fun (r, pa, mt) =>
            { lane := r.lane, va := r.va.toNat, addr := pa, size := r.size, data := r.data, swap := r.swap, reg := r.reg
              unc := !q.stash && mt == 1 }
          let range : Option Nat := (pas.map fun (pa, _) => rangeOf pa).head?.join
          let space : Space := if q.stash then .stash else if range = some 2 then .device else .mem
          let mk (id : Nat) (ps : List Part) : MemOp :=
            { id, inst, kind := q.kind, space, parts := ps, ord := q.ord, sco := q.sco, uc := q.uc, dz := q.dz
              elem := q.elem, unchecked := late && space != .device, pc := g.pc, ltime := g.ltime, again := q.seen }
          let groups := if parts.isEmpty then [] else if late then [parts] else byLine parts
          let ops := groups.zipIdx.map fun (ps, i) => mk (g.nextInst + i) ps
          let g1 := { g with ops := g.ops ++ ops, nextInst := g.nextInst + ops.length }
          let s1 := if late && space != .device then { s with shadows := s.shadows ++ (ops.map fun o => { key := g.id.key, inst := o.id, group := s.current back back }) } else s
          (.ok (s1, g1), s1)

/-- A plain or synchronising instruction of one element: it issues whole, or traps (R243). -/
def memWord (s : State) (g : Group) (q : MemReq) (l : List LaneReq) (runs : List Word) (pend : Bool) : WordRes :=
  if g.memStall q || s.tableFull g q l then .stall
  else
    let inst := g.nextInst
    match s.issueMem g g q inst l with
    | (.error t, s1) => .trapS s1 g t
    | (.ok (s1, g1), _) => .next s1 { g1 with nextInst := max g1.nextInst (inst + 1) }
        { runs, pend := if pend ∧ !l.isEmpty then some inst else none }

end Sys2Proof.Machine
end

