-- ==== Sys2Proof/Machine/Flags.lean ====
section
/-! DEFINITION. The flag computations: the FFLAGS image (R16), the flags of a list of elements (R47), and the
relations of compares with the flag they raise (R113, R128, R87). -/
namespace Sys2Proof.Machine
open Sys2Proof.Fmt

/-- The OR of the flags of several elements (R47). -/
def unionFlags (l : List (BitVec 5)) : BitVec 5 := l.foldl (· ||| ·) 0

/-- FFLAGS as `srd` reads it (R16, R98). -/
def Group.fflagsImage (g : Group) : Word := g.fflags.setWidth 64

/-- `swr` of FFLAGS writes bits 4:0 (R98). -/
def Group.writeFflags (g : Group) (w : Word) : Group := { g with fflags := w.setWidth 5 }

/-- The four relations of `fcmp` (R113). -/
inductive FRel where
  | eq | lt | le | un
  deriving DecidableEq, Repr

/-- Whether a floating relation holds, and NV where `.lt` and `.le` meet a NaN (R113). -/
def FRel.eval (r : FRel) (a b : Val) : Bool × BitVec 5 :=
  match r, a.cmp b with
  | .un, o => (o.isNone, 0)
  | .eq, o => (o == some .eq, 0)
  | .lt, some o => (o == .lt, 0)
  | .le, some o => (o != .gt, 0)
  | .lt, none => (false, NV)
  | .le, none => (false, NV)

/-- The six integer relations (R87, R128). -/
inductive IRel where
  | eq | ne | lt | le | ltu | leu
  deriving DecidableEq, Repr

/-- Whether an integer relation holds; no flag is touched. -/
def IRel.eval {n : Nat} (r : IRel) (a b : BitVec n) : Bool :=
  match r with
  | .eq => a == b
  | .ne => a != b
  | .lt => a.slt b
  | .le => a.sle b
  | .ltu => a.ult b
  | .leu => a.ule b

end Sys2Proof.Machine
end

