-- ==== Sys2Proof/Machine/Special.lean ====
section
/-! DEFINITION. The special functions of R117 to R119 on exact values. A function's value is found in fixed
point with 400 fraction bits and rounded to odd, so that a later rounding to any entry is the rounding of the
exact value; the exact cases of R117 are exact. The quick forms take a value the device model fixes within the
bound of R117 and R119. -/
namespace Sys2Proof.Fmt

/-- Fraction bits of the fixed-point values. -/
def fxBits : Nat := 400

/-- 1 in fixed point. -/
def fxOne : Nat := 2 ^ fxBits

/-- π in fixed point, truncated. -/
def fxPi : Nat :=
  0x3243f6a8885a308d313198a2e03707344a4093822299f31d0082efa98ec4e6c89452821e638d01377be5466cf34e90c6cc0ac

/-- ln 2 in fixed point, truncated. -/
def fxLn2 : Nat :=
  0xb17217f7d1cf79abc9e3b39803f2f6af40f343267298b62d8a0d175b8baafa2be7b876206debac98559552fb4afa1b10ed2e

/-- Product in fixed point. -/
def fxMul (a b : Nat) : Nat := (a * b) >>> fxBits

/-- A fixed-point magnitude as a value rounded to odd. -/
def fxVal (neg : Bool) (r : Nat) : Val := .fin neg (2 * r + 1) (-401)

/-- The series of e^y, from term `k` down: 1 + y/1 × (1 + y/2 × ( … )). -/
def expSeries (y : Nat) : Nat → Nat → Nat
  | 0, r => r
  | k + 1, r => expSeries y k (fxOne + fxMul y r / (k + 1))

/-- e^y for 0 ≤ y < 1 in fixed point. -/
def fxExp (y : Nat) : Nat := expSeries y 90 fxOne

/-- The odd series of atanh z over z: 1 + z²/3 + z⁴/5 + …, from term `k` down, `z2` being z². -/
def atanhSeries (z2 : Nat) : Nat → Nat → Nat
  | 0, r => r
  | k + 1, r => atanhSeries z2 k (fxOne / (2 * k + 1) + fxMul z2 r)

/-- ln t for 1 ≤ t < 2 in fixed point. -/
def fxLn (t : Nat) : Nat :=
  let z := (t - fxOne) * fxOne / (t + fxOne)
  2 * fxMul z (atanhSeries (fxMul z z) 140 0)

/-- The series of sin y over y: 1 − y²/(2·3) × (1 − y²/(4·5) × ( … )), from term `k` down. -/
def sinSeries (y2 : Nat) : Nat → Nat → Nat
  | 0, r => r
  | k + 1, r => sinSeries y2 k (fxOne - fxMul y2 r / ((2 * k + 2) * (2 * k + 3)))

/-- sin(πx) for 0 ≤ x ≤ 1/2 in fixed point. -/
def fxSinPi (x : Nat) : Nat :=
  let y := fxMul fxPi x
  fxMul y (sinSeries (fxMul y y) 60 fxOne)

/-- A magnitude m × 2^e in fixed point; exact for e ≥ −400. -/
def fxOf (m : Nat) (e : Int) : Nat := shl m (e + fxBits)

/-- 2^a (R117). Exponents beyond ±4000 are far outside every entry, and a value that is not exact stays so. -/
def exp2 (a : Val) : Val × BitVec 5 :=
  match a with
  | .nan => (.nan, 0)
  | .inf neg => (if neg then .zero false else .inf false, 0)
  | .fin neg m e =>
    if m = 0 then (.fin false 1 0, 0)
    else if 12 < log2 m e then
      let k : Int := if neg then -4000 else 4000
      (if fxOf m e % fxOne = 0 then .fin false 1 k else .fin false (2 ^ 100 + 1) (k - 100), 0)
    else
      let x := fxOf m e
      let i : Int := (x / fxOne : Nat)
      let f := x % fxOne
      if f = 0 then (.fin false 1 (if neg then -i else i), 0)
      else if neg then (.fin false (2 * fxExp (fxMul (fxOne - f) fxLn2) + 1) (-i - 1 - 401), 0)
      else (.fin false (2 * fxExp (fxMul f fxLn2) + 1) (i - 401), 0)

/-- log2 a (R117). -/
def logb2 (a : Val) : Val × BitVec 5 :=
  match a with
  | .nan => (.nan, 0)
  | .inf neg => if neg then (.nan, NV) else (.inf false, 0)
  | .fin neg m e =>
    if m = 0 then (.inf true, DZ)
    else if neg then (.nan, NV)
    else
      let l := log2 m e
      if m = 2 ^ Nat.log2 m then (if l = 0 then .zero false else .fin (l < 0) l.natAbs 0, 0)
      else
        let t := shl m (fxBits - (Nat.log2 m : Int))
        let v : Int := l * (fxOne : Nat) + (fxLn t * fxOne / fxLn2 : Nat)
        (if v < 0 then fxVal true (v.natAbs - 1) else fxVal false v.natAbs, 0)

/-- a mod 2 in units of 2^-400, for a finite magnitude. -/
def mod2 (m : Nat) (e : Int) : Nat := fxOf m e % (2 * fxOne)

/-- sin(πx) for 0 ≤ x < 2 in fixed point: sign, and magnitude when it is exact 0 or 1, else rounded to odd. -/
def sinTurn (x : Nat) : Val :=
  let neg := decide (fxOne ≤ x)
  let y := x % fxOne
  let half := fxOne / 2
  if y = 0 then .zero neg
  else if y = half then .fin neg 1 0
  else
    let r := fxSinPi (if y < half then y else fxOne - y)
    fxVal neg (min r (fxOne - 1))

/-- sin(πa) (R117). -/
def sinpi (a : Val) : Val × BitVec 5 :=
  match a with
  | .nan => (.nan, 0)
  | .inf _ => (.nan, NV)
  | .fin neg m e =>
    let r := sinTurn (mod2 m e)
    (match r with
      | .fin s k x => if k = 0 then .zero neg else .fin (s != neg) k x
      | .nan | .inf _ => r, 0)

/-- cos(πa) = sin(π(|a| + 1/2)) (R117); a zero result is +0. -/
def cospi (a : Val) : Val × BitVec 5 :=
  match a with
  | .nan => (.nan, 0)
  | .inf _ => (.nan, NV)
  | .fin _ m e =>
    let r := sinTurn ((mod2 m e + fxOne / 2) % (2 * fxOne))
    (match r with
      | .fin s k x => if k = 0 then .zero false else .fin s k x
      | .nan | .inf _ => r, 0)

/-- tanh a = (e^2a − 1) / (e^2a + 1) (R117); beyond 300 it is 1 less than any quantum. -/
def tanh (a : Val) : Val × BitVec 5 :=
  match a with
  | .nan => (.nan, 0)
  | .inf neg => (.fin neg 1 0, 0)
  | .fin neg m e =>
    if m = 0 then (.zero neg, 0)
    else if 8 < log2 m e then (fxVal neg (fxOne - 1), 0)
    else
      let u := 2 * fxOf m e * fxOne / fxLn2
      let p := fxExp (fxMul (u % fxOne) fxLn2) <<< (u / fxOne)
      let r := (p - fxOne) * fxOne / (p + fxOne)
      (fxVal neg (min r (fxOne - 1)), 0)

/-- 1/a (R117). -/
def rcp (a : Val) : Val × BitVec 5 := (Val.fin false 1 0).div a

/-- 1/√a (R117): the root of the quotient, both exact only for powers of 4. -/
def rsqrt (a : Val) : Val × BitVec 5 :=
  match a with
  | .nan => (.nan, 0)
  | .inf neg => if neg then (.nan, NV) else (.zero false, 0)
  | .fin neg m e =>
    if m = 0 then (.inf neg, DZ)
    else if neg then (.nan, NV)
    else
      let m' := if e % 2 = 0 then m else 2 * m
      let e' := if e % 2 = 0 then e else e - 1
      let k := oddBits + Nat.log2 m'
      let r := isqrt (2 ^ (2 * k) / m')
      let exact := decide (r * r * m' = 2 ^ (2 * k))
      (.fin false (2 * r + (if exact then 0 else 1)) (-(e' / 2) - k - 1), 0)

/-- The seven functions of R117 in code order. -/
inductive Func where
  | exp2 | log2 | sinpi | cospi | tanh | rcp | rsqrt
  deriving DecidableEq, Repr

def Func.eval (f : Func) (a : Val) : Val × BitVec 5 :=
  match f with
  | .exp2 => Fmt.exp2 a | .log2 => Fmt.logb2 a | .sinpi => Fmt.sinpi a | .cospi => Fmt.cospi a
  | .tanh => Fmt.tanh a | .rcp => Fmt.rcp a | .rsqrt => Fmt.rsqrt a

/-- The quick form's opcode (R117). -/
def Func.code (f : Func) : Nat :=
  match f with
  | .exp2 => 0x24 | .log2 => 0x26 | .sinpi => 0x28 | .cospi => 0x2A | .tanh => 0x2C | .rcp => 0x2E | .rsqrt => 0x30

/-- The bound of a quick form: ulps of binary32, and the exponent of an absolute bound if there is one (R117). -/
def Func.bound (f : Func) : Nat × Option Int :=
  match f with
  | .exp2 | .tanh => (2, none)
  | .log2 => (2, some (-22))
  | .sinpi | .cospi => (2, some (-24))
  | .rcp | .rsqrt => (1, none)

/-- A candidate lies within a bound of a value that is not exact (R119): n ulps of binary32 at the value, or the
absolute bound where that is larger. -/
def withinBound (b : Nat × Option Int) (q x : Val) : Bool :=
  match x, q.add x.neg false with
  | .fin _ m e, (.fin _ d g, _) =>
    let ulp := max (log2 m e) (-126) - 23
    let rel := cmpMag d g b.1 ulp == .lt
    let abs := match b.2 with | some k => cmpMag d g 1 k == .lt | none => false
    rel || abs
  | .nan, _ | .inf _, _ | .fin _ _ _, (.nan, _) | .fin _ _ _, (.inf _, _) => false

/-- Whether a value of `eval` is an exact case: a special value, or a dyadic on a coarse grid (R117). -/
def isExact (x : Val) : Bool :=
  match x with
  | .nan | .inf _ => true
  | .fin _ m _ => m % 2 == 0 || decide (m < 2 ^ 64)

/-- Trailing zero bits of a number, at most `fuel`. -/
def trailing (m : Nat) : Nat → Nat
  | 0 => 0
  | n + 1 => if m % 2 = 1 then 0 else trailing (m / 2) n + 1

/-- The device model's value for an operand: one value for each real number, whatever entry it comes from. -/
def modelQuick (f : Func) (a : Val) : Val :=
  match a with
  | .fin neg m e =>
    let k := trailing m (Nat.log2 m)
    decode binary32 (Config.quickForm f.code neg (m / 2 ^ k) (e + k)).toNat
  | .nan => decode binary32 (Config.quickForm f.code false 0 0).toNat
  | .inf neg => decode binary32 (Config.quickForm f.code neg 0 1).toNat

/-- The value Q of a quick form for operand `a` with F(a) = `x` (R119): the device model's value when it lies within the bound, and
a nearest binary32 value otherwise; exact cases are exact. Where no binary32 value lies within the bound of F(a) (it exceeds the
largest one, under an entry of wider range), the spec states no Q: it is the device model's value, free (DESIGN CHOICE, log entry
4). -/
def quickValue (f : Func) (a x : Val) : Val :=
  if isExact x then x
  else
    let q := modelQuick f a
    match [q, decode binary32 (encode binary32 x .rne false).1, decode binary32 (encode binary32 x .rtz false).1].find?
        fun y => withinBound f.bound y x with
    | some y => y
    | none => q

/-- The element a special-function form delivers, with its flags (R118, R119). -/
def special (f : Func) (quick : Bool) (ent : Entry) (bits : Nat) : Nat × BitVec 5 :=
  let (x, fl) := f.eval (decode ent bits)
  let (b, fl') := encode ent x .rne false
  if quick then ((encode ent (quickValue f (decode ent bits) x) .rne false).1, fl ||| fl')
  else (b, fl ||| fl')

end Sys2Proof.Fmt
end

