-- ==== Sys2Proof/Machine/Elements.lean ====
section
/-! DEFINITION. How an element-wise vector word executes: the issue checks of R104 in their order, the delivery of
elements (R103), the write of an unscaled or block-scaled destination (R44, R102, R123), and the plan of a word:
its trap, or what it writes. A pair word runs the plans of its two halves (R67). -/
namespace Sys2Proof.Machine
open Sys2Proof.Fmt

/-- The number in the grid of the group of a team with an origin number (R157). -/
def State.groupIndex (s : State) (g : Group) (origin : Nat) : Nat :=
  match s.cluster? g.id.cluster, s.team? g.id.team with
  | some c, some t => (c.clustid * (c.w * c.h) + t.num) * t.ngroups + origin
  | _, _ => 0

/-- The thread's global index of lane `l` (R157). -/
def State.globalIndex (s : State) (g : Group) (l : Nat) : Nat := s.groupIndex g (Sparse.get 0 g.origin l) * 32 + l

/-- What an element-wise word does: its trap at issue, or the registers it writes. -/
structure Plan where
  trap : Option TrapReq := none
  write : Group → Group := fun g => g
  regs : List WReg := []

/-- A word that carries out one plan and retires. -/
def Plan.run (p : Plan) (s : State) (g : Group) : WordRes :=
  match p.trap with
  | some t => .trap t
  | none => .next s (p.write g) { regs := p.regs }

-- ## checks at issue

/-- A register operand of a checked word: its position, code, permute, span and entry. -/
structure Opnd where
  pos : Nat
  code : BitVec 10
  perm : BitVec 3 := 0
  span : Nat := 1
  ent : Option Nat := none

/-- The bound checks of R19 and R25 on one operand: a permuted source is checked in the lanes that are sources of
an active lane. -/
def Group.boundTrap (g : Group) (act : Lane) (o : Opnd) : Option TrapReq :=
  g.checkV o.pos o.code o.span (if o.pos = 0 then selfLanes act else g.srcLanes o.perm act)

/-- Code 2 of R36: entry `n` named at position `pos` is invalid. -/
def Group.invalidTrap (g : Group) (pos n : Nat) : Option TrapReq :=
  if (g.entry n).v then none else some (mkTrap 4 2 (n + 8 * pos))

/-- Code 3 of R36: a block-scaled entry is named for a register outside v0 to v63 (R43). -/
def Group.scaledTrap (g : Group) (act : Lane) (o : Opnd) : Option TrapReq :=
  match o.ent with
  | none => none
  | some n =>
    if (g.entry n).sc = 0 then none
    else
      let mk (r : Nat) (l : Option Nat) : TrapReq := mkTrap 4 3 (n + 8 * o.pos + 32 * r) l
      if o.code.toNat < 768 then
        if o.code.toNat + o.span ≤ 64 then none else some (mk (max 64 o.code.toNat) none)
      else
        (if o.pos = 0 then selfLanes act else g.srcLanes o.perm act).findSome? fun (l, m) =>
          if g.rowOf o.code m < 64 then none else some (mk (g.rowOf o.code m) (some l))

/-- The checks of R104 in order; `ents` are the positions and entries named, `ok` the entry class, and `ent` the
entry that a class failure names. -/
def Group.floatTrap (g : Group) (act : Lane) (os : List Opnd) (ents : List (Nat × Nat)) (ok : Bool) (ent : Nat) :
    Option TrapReq :=
  firstTrap (os.map (g.boundTrap act) ++ ents.map (fun e => g.invalidTrap e.1 e.2)
    ++ os.map (g.scaledTrap act) ++ [if ok then none else some (mkTrap 4 4 ent)])

-- ## elements

/-- A source of an element-wise operation: a permuted register, or one value for every element (R102). -/
inductive Src where
  | reg (code : BitVec 10) (perm : BitVec 3)
  | val (v : Val)

/-- Element `i` of a source as delivered to lane `l` (R103). -/
def Group.elem (g : Group) (f : Entry) (x : Src) (l i : Nat) : Val :=
  match x with
  | .val v => v
  | .reg code perm =>
    if f.sc = 0 then decode f (elemBits f (g.fetchV code perm l) i)
    else
      let m := srcLane perm g.regs.k0 g.regs.k1 l
      if g.live.getLsbD m then
        let row := g.rowOf code m
        elemValue f (elemBits f (g.getV row m) i) (g.getZ row) ((m * f.perLane + i) / f.block)
      else .zero false

/-- The bits of element `i` of a source as delivered to lane `l`; none for a value that has no bits. -/
def Group.elemRaw (g : Group) (f : Entry) (x : Src) (l i : Nat) : Option Nat :=
  match x with
  | .val _ => none
  | .reg code perm => some (elemBits f (g.fetchV code perm l) i)

/-- The result of one element: its exact value, the operation's own flags, and the bits delivered as they are
under an unscaled entry. -/
structure Res where
  x : Val
  fl : BitVec 5 := 0
  raw : Option Nat := none

/-- How results are rounded: code, saturation, seed, and the global index of each lane's thread (R45, R48). -/
structure Rnd where
  code : BitVec 3 := 0
  sat : Bool := false
  seed : Word := 0
  idx : Nat → Nat := fun _ => 0

/-- The mode of element `i` of lane `l`. -/
def Rnd.mode (r : Rnd) (l i : Nat) : Mode := Mode.of r.code (if r.code = 5 then hashH r.seed (r.idx l) i else 0)

/-- The rounding of a word; a lane slot with no thread has no index, and takes a free one that timing does not change (log entry 6, R5). -/
def State.rnd (s : State) (g : Group) (code : BitVec 3) (sat : Bool) : Rnd :=
  { code, sat, seed := g.seed,
    idx := fun l => if g.live.getLsbD l then s.globalIndex g l else Config.emptyLane (s.groupIndex g g.id.grpid) g.ltime.toNat l }

/-- The element bits and flags of one result under an unscaled entry (R46). -/
def Res.bits (r : Res) (f : Entry) (m : Mode) (sat : Bool) : Nat × BitVec 5 :=
  match r.raw with
  | some b => (b, r.fl)
  | none => let (b, fl) := Fmt.encode f r.x m sat; (b, r.fl ||| fl)

/-- Writes an unscaled destination in the lanes of a mask (R102). -/
def Group.storePlain (g : Group) (f : Entry) (code : BitVec 10) (act : Lane) (res : Nat → Nat → Res) (r : Rnd) : Group :=
  (lanesOf act).foldl (fun h l =>
    let es := (List.range f.perLane).map fun i => (res l i).bits f (r.mode l i) r.sat
    (h.setV (h.rowOf code l) l (joinElems f (es.map (·.1)))).orFlags (unionFlags (es.map (·.2)))) g

/-- Block `j` of a row holds an element of a lane of the mask (R44). -/
def blockTouched (f : Entry) (act : Lane) (j : Nat) : Bool :=
  (List.range f.block).any fun k => act.getLsbD ((j * f.block + k) / f.perLane)

/-- The lanes that hold elements of touched blocks. -/
def blockLanes (f : Entry) (act : Lane) : Lane :=
  laneMask fun l => (List.range f.perLane).any fun i => blockTouched f act ((l * f.perLane + i) / f.block)

/-- Blocks of a register row (R41). -/
def Entry.blocks (f : Entry) : Nat := 32 * f.perLane / f.block

/-- Writes the touched blocks of one block-scaled row and the whole scale register (R41, R44, R123): elements of
lanes outside the mask enter with the value they hold and raise no flag. -/
def Group.storeBlockRow (h : Group) (f : Entry) (row : Nat) (act : Lane) (res : Nat → Nat → Res) (r : Rnd) : Group :=
  let n := f.perLane
  let sz := f.block
  let z := h.getZ row
  let old (e : Nat) : Nat := elemBits f (h.getV row (e / n)) (e % n)
  let blocks := (List.range (Entry.blocks f)).map fun j =>
    if blockTouched f act j then
      some (encodeBlock f
        ((List.range sz).map fun k =>
          let e := j * sz + k
          if act.getLsbD (e / n) then (res (e / n) (e % n)).x else elemValue f (old e) z j)
        (fun k => r.mode ((j * sz + k) / n) ((j * sz + k) % n)) r.sat)
    else none
  let bits (e : Nat) : Nat := match nth none blocks (e / sz) with
    | some (_, es) => (nth (0, 0) es (e % sz)).1
    | none => old e
  let fl (e : Nat) : BitVec 5 := match nth none blocks (e / sz) with
    | some (_, es) => (nth (0, 0) es (e % sz)).2 ||| (res (e / n) (e % n)).fl
    | none => 0
  let scale (b : Nat) : Nat :=
    if b / f.sc < Entry.blocks f then
      match nth none blocks (b / f.sc) with
      | some (cs, _) => nth 0x7F cs (b % f.sc)
      | none => scaleByte z b
    else 0x7F
  let zNew : BitVec 128 := BitVec.ofNat 128 (leNat ((List.range 16).map fun b => BitVec.ofNat 8 (scale b)))
  let flags := unionFlags ((lanesOf act).flatMap fun l => (List.range n).map fun i => fl (l * n + i))
  (((lanesOf (blockLanes f act)).foldl (fun h' l =>
    h'.setV row l (joinElems f ((List.range n).map fun i => bits (l * n + i)))) h).setZ row zNew).orFlags flags

/-- The rows a destination names in the lanes of a mask, with the lanes that name each. -/
def Group.destRows (g : Group) (code : BitVec 10) (act : Lane) : List (Nat × Lane) :=
  ((lanesOf act).map fun l => g.rowOf code l).eraseDups.map fun n =>
    (n, laneMask fun l => act.getLsbD l && g.rowOf code l == n)

/-- Writes a destination under an entry. -/
def Group.store (g : Group) (f : Entry) (code : BitVec 10) (act : Lane) (res : Nat → Nat → Res) (r : Rnd) : Group :=
  if f.sc = 0 then g.storePlain f code act res r
  else (g.destRows code act).foldl (fun h (n, m) => h.storeBlockRow f n m res r) g

/-- The registers that such a write changes. -/
def Group.storeRegs (g : Group) (f : Entry) (code : BitVec 10) (act : Lane) : List WReg :=
  if f.sc = 0 then g.vWrites code act
  else (g.destRows code act).flatMap fun (n, m) =>
    [{ kind := 0, num := n, lanes := blockLanes f m }, { kind := 2, num := n }]

/-- A plan that writes one destination under an entry. -/
def storePlan (g : Group) (trap : Option TrapReq) (f : Entry) (code : BitVec 10) (act : Lane) (res : Nat → Nat → Res)
    (r : Rnd) : Plan :=
  { trap, write := fun h => h.store f code act res r, regs := g.storeRegs f code act }

/-- A plan that writes a lane value into a destination. -/
def lanePlan (g : Group) (trap : Option TrapReq) (code : BitVec 10) (act : Lane) (f : Nat → Lane) : Plan :=
  { trap, write := fun h => h.writeV code act f, regs := g.vWrites code act }

/-- A plan that writes the lanes of a predicate, with flags. -/
def predPlan (trap : Option TrapReq) (n : Nat) (act : Lane) (f : Nat → Bool) (fl : BitVec 5) : Plan :=
  { trap, write := fun h => (h.writePred n act f).orFlags fl, regs := if n = 7 then [] else [{ kind := 3, num := n }] }

end Sys2Proof.Machine
end

