-- ==== Sys2Proof/Machine/VecFloat.lean ====
section
/-! DEFINITION. The vector floating-point words (R102 to R122): element-wise arithmetic, minimum and maximum,
compare and select, division, roots, rounding, special functions, conversion, packing and unpacking. The plans
take the fields they need, so that a half of a pair word runs the same plan (R130). -/
namespace Sys2Proof.Machine
open Sys2Proof.Fmt

-- ## plans

/-- An element-wise operation of two operands that are checked as given (R102). -/
def planBin (g : Group) (act : Lane) (fmt : Nat) (d : BitVec 10) (a b : Src) (os : List Opnd) (r : Rnd) (ok : Entry → Bool)
    (op : Entry → Nat → Nat → Val → Val → Res) : Plan :=
  let f := g.entry fmt
  storePlan g (g.floatTrap act os [(0, fmt)] (ok f) fmt) f d act
    (fun l i => op f l i (g.elem f a l i) (g.elem f b l i)) r

/-- An element-wise operation of one operand (R102). -/
def planUn (g : Group) (act : Lane) (fmt : Nat) (d : BitVec 10) (a : Src) (os : List Opnd) (r : Rnd) (ok : Entry → Bool)
    (op : Entry → Nat → Nat → Val → Res) : Plan :=
  let f := g.entry fmt
  storePlan g (g.floatTrap act os [(0, fmt)] (ok f) fmt) f d act (fun l i => op f l i (g.elem f a l i)) r

/-- Every valid entry is accepted (R104). -/
def anyEntry (_ : Entry) : Bool := true

/-- The class of the special functions (R104). -/
def floatUnscaled (f : Entry) : Bool := decide (1 ≤ f.e) && f.sc == 0

/-- An operation whose result is only a value and flags. -/
def valued (x : Val × BitVec 5) : Res := { x := x.1, fl := x.2 }

/-- The lesser or greater of two operands (R111): the bits of the chosen register operand, or the value. -/
def minMax (mx : Bool) (a b : Val) (ra rb : Option Nat) : Res :=
  if a = .nan ∧ b = .nan then { x := .nan }
  else
    let pickB : Bool := if a = .nan then true else if b = .nan then false
      else if mx then a.below b else b.below a
    if pickB then { x := b, raw := rb } else { x := a, raw := ra }

/-- Rounding to an integral value (R116); special values keep their bits. -/
def integral (a : Val) (raw : Option Nat) (m : Mode) : Res :=
  match a with
  | .nan => { x := .nan, raw }
  | .inf n => { x := .inf n, raw }
  | .fin _ _ _ => valued (a.toIntegral m)

/-- A conversion within each lane (R120): `n` elements are converted, the others are zero bits. -/
def convert (g : Group) (fs : Entry) (a : Src) (n l i : Nat) : Res :=
  if i < n then { x := g.elem fs a l i } else { x := .zero false, raw := some 0 }

-- operands of an F-form word with sources A and B, with A only, and of an I-form word
def opsAB (o : OpA) : List Opnd :=
  [{ pos := 0, code := o.d, ent := some o.fmt.toNat }, { pos := 1, code := o.a, perm := o.ap, ent := some o.fmt.toNat },
   { pos := 2, code := o.b, perm := o.bp, ent := some o.fmt.toNat }]

def opsA (o : OpA) : List Opnd :=
  [{ pos := 0, code := o.d, ent := some o.fmt.toNat }, { pos := 1, code := o.a, perm := o.ap, ent := some o.fmt.toNat }]

def opsI (o : OpI) : List Opnd := [{ pos := 0, code := o.d, ent := some o.fmt.toNat }]

/-- A two-operand F-form word. -/
def floatAB (s : State) (g : Group) (o : OpA) (r : Rnd) (op : Entry → Nat → Nat → Val → Val → Res) : WordRes :=
  (planBin g (g.active o.pred) o.fmt.toNat o.d (.reg o.a o.ap) (.reg o.b o.bp) (opsAB o) r anyEntry op).run s g

/-- A one-operand F-form word. -/
def floatA (s : State) (g : Group) (o : OpA) (r : Rnd) (ok : Entry → Bool) (op : Entry → Nat → Nat → Val → Res) : WordRes :=
  (planUn g (g.active o.pred) o.fmt.toNat o.d (.reg o.a o.ap) (opsA o) r ok op).run s g

/-- An I-form word: D op the binary32 value of the immediate (R102). -/
def floatI (s : State) (g : Group) (o : OpI) (r : Rnd) (op : Entry → Nat → Nat → Val → Val → Res) : WordRes :=
  (planBin g (g.active o.pred) o.fmt.toNat o.d (.reg o.d 0) (.val (decode binary32 (g.immV o).toNat)) (opsI o) r
    anyEntry op).run s g

/-- The rounding of an F-form word of layout A, and of an I-form word. -/
def State.rndA (s : State) (g : Group) (o : OpA) : Rnd := s.rnd g o.rnd (o.sat == 1)
def State.rndI (s : State) (g : Group) (o : OpI) : Rnd := s.rnd g o.rnd (o.sat == 1)

-- ## add, subtract, multiply, fused multiply-add (R108 to R110)

def opAdd (rnd : BitVec 3) (_ : Entry) (_ _ : Nat) (a b : Val) : Res := valued (a.add b (rnd == 3))
def opSub (rnd : BitVec 3) (_ : Entry) (_ _ : Nat) (a b : Val) : Res := valued (a.add b.neg (rnd == 3))
def opMul (_ : Entry) (_ _ : Nat) (a b : Val) : Res := valued (a.mul b)

def execFadd (o : OpA) (s : State) : Host.Outcome State Fault Refusal :=
  runWord s (.fadd o) fun s g => floatAB s g o (s.rndA g o) (opAdd o.rnd)

def execFsub (o : OpA) (s : State) : Host.Outcome State Fault Refusal :=
  runWord s (.fsub o) fun s g => floatAB s g o (s.rndA g o) (opSub o.rnd)

def execFmul (o : OpA) (s : State) : Host.Outcome State Fault Refusal :=
  runWord s (.fmul o) fun s g => floatAB s g o (s.rndA g o) opMul

def execFaddImm (o : OpI) (s : State) : Host.Outcome State Fault Refusal :=
  runWord s (.faddImm o) fun s g => floatI s g o (s.rndI g o) (opAdd o.rnd)

def execFsubImm (o : OpI) (s : State) : Host.Outcome State Fault Refusal :=
  runWord s (.fsubImm o) fun s g => floatI s g o (s.rndI g o) (opSub o.rnd)

def execFmulImm (o : OpI) (s : State) : Host.Outcome State Fault Refusal :=
  runWord s (.fmulImm o) fun s g => floatI s g o (s.rndI g o) opMul

/-- A word of layout C (R110): one rounding in `.rne`, no saturation; C is not permuted. -/
def floatC (s : State) (g : Group) (o : OpC) (op : Val → Val → Val → Val × BitVec 5) : WordRes :=
  let act := g.active o.pred
  let n := o.fmt.toNat
  let f := g.entry n
  let os : List Opnd := [{ pos := 0, code := o.d, ent := some n }, { pos := 1, code := o.a, perm := o.ap, ent := some n },
    { pos := 2, code := o.b, perm := o.bp, ent := some n }, { pos := 3, code := o.c, ent := some n }]
  (storePlan g (g.floatTrap act os [(0, n)] true n) f o.d act
    (fun l i => valued (op (g.elem f (.reg o.a o.ap) l i) (g.elem f (.reg o.b o.bp) l i) (g.elem f (.reg o.c 0) l i)))
    {}).run s g

def execFma (o : OpC) (s : State) : Host.Outcome State Fault Refusal :=
  runWord s (.fma o) fun s g => floatC s g o fun a b c => a.fma b c

def execFms (o : OpC) (s : State) : Host.Outcome State Fault Refusal :=
  runWord s (.fms o) fun s g => floatC s g o fun a b c => a.fma b c.neg

def execFnma (o : OpC) (s : State) : Host.Outcome State Fault Refusal :=
  runWord s (.fnma o) fun s g => floatC s g o fun a b c => a.neg.fma b c

-- ## minimum, maximum, absolute value, negation (R111, R112)

def opMinMax (g : Group) (mx : Bool) (a b : Src) (f : Entry) (l i : Nat) (x y : Val) : Res :=
  minMax mx x y (g.elemRaw f a l i) (g.elemRaw f b l i)

def execFmin (o : OpA) (s : State) : Host.Outcome State Fault Refusal :=
  runWord s (.fmin o) fun s g => floatAB s g o {} (opMinMax g false (.reg o.a o.ap) (.reg o.b o.bp))

def execFmax (o : OpA) (s : State) : Host.Outcome State Fault Refusal :=
  runWord s (.fmax o) fun s g => floatAB s g o {} (opMinMax g true (.reg o.a o.ap) (.reg o.b o.bp))

def execFminImm (o : OpI) (s : State) : Host.Outcome State Fault Refusal :=
  runWord s (.fminImm o) fun s g => floatI s g o {} (opMinMax g false (.reg o.d 0) (.val .nan))

def execFmaxImm (o : OpI) (s : State) : Host.Outcome State Fault Refusal :=
  runWord s (.fmaxImm o) fun s g => floatI s g o {} (opMinMax g true (.reg o.d 0) (.val .nan))

def opAbs (_ : Entry) (_ _ : Nat) (a : Val) : Res := { x := a.abs }
def opNeg (_ : Entry) (_ _ : Nat) (a : Val) : Res := { x := a.neg }

def execFabs (o : OpA) (s : State) : Host.Outcome State Fault Refusal :=
  runWord s (.fabs o) fun s g => floatA s g o {} anyEntry opAbs

def execFneg (o : OpA) (s : State) : Host.Outcome State Fault Refusal :=
  runWord s (.fneg o) fun s g => floatA s g o {} anyEntry opNeg

-- ## compare and select (R113, R114)

/-- A compare sets, in each active lane, the bit of D to whether the relation holds for every element. -/
def floatCmp (s : State) (g : Group) (o : OpA) (r : FRel) : WordRes :=
  let act := g.active o.pred
  let n := o.fmt.toNat
  let f := g.entry n
  let rel (l i : Nat) : Bool × BitVec 5 := r.eval (g.elem f (.reg o.a o.ap) l i) (g.elem f (.reg o.b o.bp) l i)
  let os := (opsAB o).drop 1
  (predPlan (g.floatTrap act os [(0, n)] true n) o.d.toNat act (fun l => (List.range f.perLane).all fun i => (rel l i).1)
    (unionFlags ((lanesOf act).flatMap fun l => (List.range f.perLane).map fun i => (rel l i).2))).run s g

def execFcmpEq (o : OpA) (s : State) : Host.Outcome State Fault Refusal :=
  runWord s (.fcmpEq o) fun s g => floatCmp s g o .eq

def execFcmpLt (o : OpA) (s : State) : Host.Outcome State Fault Refusal :=
  runWord s (.fcmpLt o) fun s g => floatCmp s g o .lt

def execFcmpLe (o : OpA) (s : State) : Host.Outcome State Fault Refusal :=
  runWord s (.fcmpLe o) fun s g => floatCmp s g o .le

def execFcmpUn (o : OpA) (s : State) : Host.Outcome State Fault Refusal :=
  runWord s (.fcmpUn o) fun s g => floatCmp s g o .un

/-- The low three bits of XF: a source entry or a selector predicate (R61). -/
def xfLow (o : OpA) : Nat := o.xf.toNat % 8

/-- Selects between the delivered elements of A and B (R114). Under an unscaled entry of 6-bit elements bits 31:30 of the chosen lane
are copied with the rest, where R40 and R102 write them as 0: R114 copies the lane's bits (DESIGN CHOICE, log entry 104). -/
def execFsel (o : OpA) (s : State) : Host.Outcome State Fault Refusal :=
  runWord s (.fsel o) fun s g =>
    let act := g.active o.pred
    let n := o.fmt.toNat
    let f := g.entry n
    let sel (l : Nat) : Bool := (g.getP (xfLow o)).getLsbD l
    let trap := g.floatTrap act (opsAB o) [(0, n)] true n
    if f.sc = 0 then
      (lanePlan g trap o.d act fun l => if sel l then g.fetchV o.a o.ap l else g.fetchV o.b o.bp l).run s g
    else
      (storePlan g trap f o.d act
        (fun l i => { x := if sel l then g.elem f (.reg o.a o.ap) l i else g.elem f (.reg o.b o.bp) l i }) {}).run s g

-- ## division, square root, rounding to integral (R115, R116)

def opDiv (_ : Entry) (_ _ : Nat) (a b : Val) : Res := valued (a.div b)
def opSqrt (_ : Entry) (_ _ : Nat) (a : Val) : Res := valued a.sqrt

def execFdiv (o : OpA) (s : State) : Host.Outcome State Fault Refusal :=
  runWord s (.fdiv o) fun s g => floatAB s g o (s.rndA g o) opDiv

def execFsqrt (o : OpA) (s : State) : Host.Outcome State Fault Refusal :=
  runWord s (.fsqrt o) fun s g => floatA s g o (s.rndA g o) anyEntry opSqrt

/-- The integer is found in the mode of the word, and encoded in `.rne`. -/
def opRnd (g : Group) (a : Src) (r : Rnd) (f : Entry) (l i : Nat) (x : Val) : Res :=
  integral x (g.elemRaw f a l i) (r.mode l i)

def execFrnd (o : OpA) (s : State) : Host.Outcome State Fault Refusal :=
  runWord s (.frnd o) fun s g => floatA s g o {} anyEntry (opRnd g (.reg o.a o.ap) (s.rndA g o))

-- ## special functions (R117 to R119)

/-- A special function gives the element's bits and its flags. -/
def opSpecial (g : Group) (fn : Func) (quick : Bool) (a : Src) (f : Entry) (l i : Nat) (_ : Val) : Res :=
  let (b, fl) := special fn quick f ((g.elemRaw f a l i).getD 0)
  { x := .zero false, fl, raw := some b }

def floatFn (s : State) (g : Group) (o : OpA) (fn : Func) (quick : Bool) : WordRes :=
  floatA s g o {} floatUnscaled (opSpecial g fn quick (.reg o.a o.ap))

def execFexp2q (o : OpA) (s : State) : Host.Outcome State Fault Refusal :=
  runWord s (.fexp2q o) fun s g => floatFn s g o .exp2 true
def execFexp2r (o : OpA) (s : State) : Host.Outcome State Fault Refusal :=
  runWord s (.fexp2r o) fun s g => floatFn s g o .exp2 false
def execFlog2q (o : OpA) (s : State) : Host.Outcome State Fault Refusal :=
  runWord s (.flog2q o) fun s g => floatFn s g o .log2 true
def execFlog2r (o : OpA) (s : State) : Host.Outcome State Fault Refusal :=
  runWord s (.flog2r o) fun s g => floatFn s g o .log2 false
def execFsinpq (o : OpA) (s : State) : Host.Outcome State Fault Refusal :=
  runWord s (.fsinpq o) fun s g => floatFn s g o .sinpi true
def execFsinpr (o : OpA) (s : State) : Host.Outcome State Fault Refusal :=
  runWord s (.fsinpr o) fun s g => floatFn s g o .sinpi false
def execFcospq (o : OpA) (s : State) : Host.Outcome State Fault Refusal :=
  runWord s (.fcospq o) fun s g => floatFn s g o .cospi true
def execFcospr (o : OpA) (s : State) : Host.Outcome State Fault Refusal :=
  runWord s (.fcospr o) fun s g => floatFn s g o .cospi false
def execFtanhq (o : OpA) (s : State) : Host.Outcome State Fault Refusal :=
  runWord s (.ftanhq o) fun s g => floatFn s g o .tanh true
def execFtanhr (o : OpA) (s : State) : Host.Outcome State Fault Refusal :=
  runWord s (.ftanhr o) fun s g => floatFn s g o .tanh false
def execFrcpq (o : OpA) (s : State) : Host.Outcome State Fault Refusal :=
  runWord s (.frcpq o) fun s g => floatFn s g o .rcp true
def execFrcpr (o : OpA) (s : State) : Host.Outcome State Fault Refusal :=
  runWord s (.frcpr o) fun s g => floatFn s g o .rcp false
def execFrsqq (o : OpA) (s : State) : Host.Outcome State Fault Refusal :=
  runWord s (.frsqq o) fun s g => floatFn s g o .rsqrt true
def execFrsqr (o : OpA) (s : State) : Host.Outcome State Fault Refusal :=
  runWord s (.frsqr o) fun s g => floatFn s g o .rsqrt false

-- ## conversion, packing, unpacking (R120 to R122)

/-- A conversion from entry `src` into entry `fmt` within each lane. -/
def planCvt (g : Group) (act : Lane) (fmt src : Nat) (d a : BitVec 10) (ap : BitVec 3) (r : Rnd) : Plan :=
  let fd := g.entry fmt
  let fs := g.entry src
  let os : List Opnd := [{ pos := 0, code := d, ent := some fmt }, { pos := 1, code := a, perm := ap, ent := some src }]
  storePlan g (g.floatTrap act os [(0, fmt), (1, src)] true fmt) fd d act
    (convert g fs (.reg a ap) (min fs.perLane fd.perLane)) r

def execFcvt (o : OpA) (s : State) : Host.Outcome State Fault Refusal :=
  runWord s (.fcvt o) fun s g =>
    (planCvt g (g.active o.pred) o.fmt.toNat (xfLow o) o.d o.a o.ap (s.rndA g o)).run s g

/-- Packs registers of A (R121). A `trap(4, 4, …)` of `fpack` or `funpack` concerns both entries; it names the destination's, at position
0 (DESIGN CHOICE, log entry 103). -/
def execFpack (o : OpA) (s : State) : Host.Outcome State Fault Refusal :=
  runWord s (.fpack o) fun s g =>
    let act := g.active o.pred
    let n := o.fmt.toNat
    let fd := g.entry n
    let fs := g.entry (xfLow o)
    let os : List Opnd := [{ pos := 0, code := o.d, ent := some n },
      { pos := 1, code := o.a, perm := o.ap, span := packSpan fs fd, ent := some (xfLow o) }]
    (storePlan g (g.floatTrap act os [(0, n), (1, xfLow o)] (fd.width < fs.width) n) fd o.d act
      (fun l i => { x := g.elem fs (.reg (o.a + BitVec.ofNat 10 (i / fs.perLane)) o.ap) l (i % fs.perLane) })
      (s.rndA g o)).run s g

def execFunpack (o : OpA) (s : State) : Host.Outcome State Fault Refusal :=
  runWord s (.funpack o) fun s g =>
    let act := g.active o.pred
    let n := o.fmt.toNat
    let fd := g.entry n
    let fs := g.entry (xfLow o)
    let k := packSpan fd fs
    let os : List Opnd := [{ pos := 0, code := o.d, span := k, ent := some n },
      { pos := 1, code := o.a, perm := o.ap, ent := some (xfLow o) }]
    let row (t : Nat) : BitVec 10 := o.d + BitVec.ofNat 10 t
    let res (t l i : Nat) : Res :=
      convert g fs (.reg o.a o.ap) (if t * fd.perLane + i < fs.perLane then 64 else 0) l (t * fd.perLane + i)
    let p : Plan := {
      trap := g.floatTrap act os [(0, n), (1, xfLow o)] (fs.width < fd.width) n
      write := fun h => (List.range k).foldl (fun h t => h.store fd (row t) act (res t) (s.rndA g o)) h
      regs := (List.range k).flatMap fun t => g.storeRegs fd (row t) act }
    p.run s g

end Sys2Proof.Machine
end

