-- ==== Sys2Proof/Machine/VecInt.lean ====
section
/-! DEFINITION. The vector integer words (R127 to R129): arithmetic, logic, shifts, minimum and maximum, bit
operations, select, compare, and `vli`. Integer words touch no flag and no scale register. -/
namespace Sys2Proof.Machine

-- ## lane operations (R127)

/-- Limits an integer to the signed 32-bit range (R127). -/
def clamp32 (v : Int) : Lane :=
  if v < -2147483648 then 0x80000000 else if 2147483647 < v then 0x7FFFFFFF else BitVec.ofInt 32 v

def laneAdd (sat : Bool) (a b : Lane) : Lane := if sat then clamp32 (a.toInt + b.toInt) else a + b
def laneSub (sat : Bool) (a b : Lane) : Lane := if sat then clamp32 (a.toInt - b.toInt) else a - b
def laneMul (a b : Lane) : Lane := a * b
def laneMulh (a b : Lane) : Lane := BitVec.ofInt 32 (a.toInt * b.toInt / 4294967296)
def laneShl (a b : Lane) : Lane := a <<< (b.toNat % 32)
def laneShr (a b : Lane) : Lane := a >>> (b.toNat % 32)
def laneSra (a b : Lane) : Lane := a.sshiftRight (b.toNat % 32)
def laneMin (a b : Lane) : Lane := if a.sle b then a else b
def laneMax (a b : Lane) : Lane := if b.sle a then a else b
def laneMinu (a b : Lane) : Lane := if a ≤ b then a else b
def laneMaxu (a b : Lane) : Lane := if b ≤ a then a else b
def laneAbs (sat : Bool) (a : Lane) : Lane := if sat then clamp32 a.toInt.natAbs else BitVec.ofNat 32 a.toInt.natAbs
def laneNeg (sat : Bool) (a : Lane) : Lane := if sat then clamp32 (-a.toInt) else -a
def lanePopc (a : Lane) : Lane := BitVec.ofNat 32 (popcount a.toNat 32)
def laneClz (a : Lane) : Lane := BitVec.ofNat 32 (((List.range 32).takeWhile fun i => !a.getLsbD (31 - i)).length)
def laneBrev (a : Lane) : Lane := laneMask fun j => a.getLsbD (31 - j)

-- ## plans

/-- The bound checks of an integer word's operands. -/
def Group.intTrap (g : Group) (act : Lane) (os : List Opnd) : Option TrapReq := firstTrap (os.map (g.boundTrap act))

/-- A two-operand lane operation. -/
def planInt2 (g : Group) (act : Lane) (d a : BitVec 10) (ap : BitVec 3) (b : BitVec 10) (bp : BitVec 3)
    (f : Lane → Lane → Lane) : Plan :=
  lanePlan g (g.intTrap act [{ pos := 0, code := d }, { pos := 1, code := a, perm := ap }, { pos := 2, code := b, perm := bp }])
    d act fun l => f (g.fetchV a ap l) (g.fetchV b bp l)

/-- A one-operand lane operation. -/
def planInt1 (g : Group) (act : Lane) (d a : BitVec 10) (ap : BitVec 3) (f : Lane → Lane) : Plan :=
  lanePlan g (g.intTrap act [{ pos := 0, code := d }, { pos := 1, code := a, perm := ap }]) d act
    fun l => f (g.fetchV a ap l)

def int2 (s : State) (g : Group) (o : OpA) (f : Lane → Lane → Lane) : WordRes :=
  (planInt2 g (g.active o.pred) o.d o.a o.ap o.b o.bp f).run s g

def int1 (s : State) (g : Group) (o : OpA) (f : Lane → Lane) : WordRes :=
  (planInt1 g (g.active o.pred) o.d o.a o.ap f).run s g

/-- D op IMM in every active lane (R70). -/
def intI (s : State) (g : Group) (o : OpI) (f : Lane → Lane → Lane) : WordRes :=
  let act := g.active o.pred
  (lanePlan g (g.intTrap act [{ pos := 0, code := o.d }]) o.d act
    fun l => f (g.fetchV o.d 0 l) (g.immV o)).run s g

-- ## the words

def execIadd (o : OpA) (s : State) : Host.Outcome State Fault Refusal :=
  runWord s (.iadd o) fun s g => int2 s g o (laneAdd (o.sat == 1))
def execIsub (o : OpA) (s : State) : Host.Outcome State Fault Refusal :=
  runWord s (.isub o) fun s g => int2 s g o (laneSub (o.sat == 1))
def execImul (o : OpA) (s : State) : Host.Outcome State Fault Refusal :=
  runWord s (.imul o) fun s g => int2 s g o laneMul
def execImulh (o : OpA) (s : State) : Host.Outcome State Fault Refusal :=
  runWord s (.imulh o) fun s g => int2 s g o laneMulh

def execImad (o : OpC) (s : State) : Host.Outcome State Fault Refusal :=
  runWord s (.imad o) fun s g =>
    let act := g.active o.pred
    (lanePlan g (g.intTrap act [{ pos := 0, code := o.d }, { pos := 1, code := o.a, perm := o.ap },
        { pos := 2, code := o.b, perm := o.bp }, { pos := 3, code := o.c }]) o.d act
      fun l => g.fetchV o.a o.ap l * g.fetchV o.b o.bp l + g.fetchV o.c 0 l).run s g

def execIand (o : OpA) (s : State) : Host.Outcome State Fault Refusal :=
  runWord s (.iand o) fun s g => int2 s g o (· &&& ·)
def execIor (o : OpA) (s : State) : Host.Outcome State Fault Refusal :=
  runWord s (.ior o) fun s g => int2 s g o (· ||| ·)
def execIxor (o : OpA) (s : State) : Host.Outcome State Fault Refusal :=
  runWord s (.ixor o) fun s g => int2 s g o (· ^^^ ·)
def execInot (o : OpA) (s : State) : Host.Outcome State Fault Refusal :=
  runWord s (.inot o) fun s g => int1 s g o (~~~ ·)
def execIshl (o : OpA) (s : State) : Host.Outcome State Fault Refusal :=
  runWord s (.ishl o) fun s g => int2 s g o laneShl
def execIshr (o : OpA) (s : State) : Host.Outcome State Fault Refusal :=
  runWord s (.ishr o) fun s g => int2 s g o laneShr
def execIsra (o : OpA) (s : State) : Host.Outcome State Fault Refusal :=
  runWord s (.isra o) fun s g => int2 s g o laneSra
def execImin (o : OpA) (s : State) : Host.Outcome State Fault Refusal :=
  runWord s (.imin o) fun s g => int2 s g o laneMin
def execImax (o : OpA) (s : State) : Host.Outcome State Fault Refusal :=
  runWord s (.imax o) fun s g => int2 s g o laneMax
def execIminu (o : OpA) (s : State) : Host.Outcome State Fault Refusal :=
  runWord s (.iminu o) fun s g => int2 s g o laneMinu
def execImaxu (o : OpA) (s : State) : Host.Outcome State Fault Refusal :=
  runWord s (.imaxu o) fun s g => int2 s g o laneMaxu
def execIabs (o : OpA) (s : State) : Host.Outcome State Fault Refusal :=
  runWord s (.iabs o) fun s g => int1 s g o (laneAbs (o.sat == 1))
def execIneg (o : OpA) (s : State) : Host.Outcome State Fault Refusal :=
  runWord s (.ineg o) fun s g => int1 s g o (laneNeg (o.sat == 1))
def execIpopc (o : OpA) (s : State) : Host.Outcome State Fault Refusal :=
  runWord s (.ipopc o) fun s g => int1 s g o lanePopc
def execIclz (o : OpA) (s : State) : Host.Outcome State Fault Refusal :=
  runWord s (.iclz o) fun s g => int1 s g o laneClz
def execIbrev (o : OpA) (s : State) : Host.Outcome State Fault Refusal :=
  runWord s (.ibrev o) fun s g => int1 s g o laneBrev

/-- Selects by the bits of the predicate that XF names (R128). -/
def execIsel (o : OpA) (s : State) : Host.Outcome State Fault Refusal :=
  runWord s (.isel o) fun s g =>
    let act := g.active o.pred
    (lanePlan g (g.intTrap act [{ pos := 0, code := o.d }, { pos := 1, code := o.a, perm := o.ap },
        { pos := 2, code := o.b, perm := o.bp }]) o.d act
      fun l => if (g.getP (o.xf.toNat % 8)).getLsbD l then g.fetchV o.a o.ap l else g.fetchV o.b o.bp l).run s g

/-- A compare sets bit l of D in each active lane to the relation (R128). -/
def intCmp (s : State) (g : Group) (o : OpA) (r : IRel) : WordRes :=
  let act := g.active o.pred
  (predPlan (g.intTrap act [{ pos := 1, code := o.a, perm := o.ap }, { pos := 2, code := o.b, perm := o.bp }]) o.d.toNat act
    (fun l => r.eval (g.fetchV o.a o.ap l) (g.fetchV o.b o.bp l)) 0).run s g

def execIcmpEq (o : OpA) (s : State) : Host.Outcome State Fault Refusal :=
  runWord s (.icmpEq o) fun s g => intCmp s g o .eq
def execIcmpNe (o : OpA) (s : State) : Host.Outcome State Fault Refusal :=
  runWord s (.icmpNe o) fun s g => intCmp s g o .ne
def execIcmpLt (o : OpA) (s : State) : Host.Outcome State Fault Refusal :=
  runWord s (.icmpLt o) fun s g => intCmp s g o .lt
def execIcmpLe (o : OpA) (s : State) : Host.Outcome State Fault Refusal :=
  runWord s (.icmpLe o) fun s g => intCmp s g o .le
def execIcmpLtu (o : OpA) (s : State) : Host.Outcome State Fault Refusal :=
  runWord s (.icmpLtu o) fun s g => intCmp s g o .ltu
def execIcmpLeu (o : OpA) (s : State) : Host.Outcome State Fault Refusal :=
  runWord s (.icmpLeu o) fun s g => intCmp s g o .leu

def execIaddImm (o : OpI) (s : State) : Host.Outcome State Fault Refusal :=
  runWord s (.iaddImm o) fun s g => intI s g o (laneAdd (o.sat == 1))
def execIsubImm (o : OpI) (s : State) : Host.Outcome State Fault Refusal :=
  runWord s (.isubImm o) fun s g => intI s g o (laneSub (o.sat == 1))
def execImulImm (o : OpI) (s : State) : Host.Outcome State Fault Refusal :=
  runWord s (.imulImm o) fun s g => intI s g o laneMul
def execIandImm (o : OpI) (s : State) : Host.Outcome State Fault Refusal :=
  runWord s (.iandImm o) fun s g => intI s g o (· &&& ·)
def execIorImm (o : OpI) (s : State) : Host.Outcome State Fault Refusal :=
  runWord s (.iorImm o) fun s g => intI s g o (· ||| ·)
def execIxorImm (o : OpI) (s : State) : Host.Outcome State Fault Refusal :=
  runWord s (.ixorImm o) fun s g => intI s g o (· ^^^ ·)
def execIshlImm (o : OpI) (s : State) : Host.Outcome State Fault Refusal :=
  runWord s (.ishlImm o) fun s g => intI s g o laneShl
def execIshrImm (o : OpI) (s : State) : Host.Outcome State Fault Refusal :=
  runWord s (.ishrImm o) fun s g => intI s g o laneShr
def execIsraImm (o : OpI) (s : State) : Host.Outcome State Fault Refusal :=
  runWord s (.israImm o) fun s g => intI s g o laneSra
def execIminImm (o : OpI) (s : State) : Host.Outcome State Fault Refusal :=
  runWord s (.iminImm o) fun s g => intI s g o laneMin
def execImaxImm (o : OpI) (s : State) : Host.Outcome State Fault Refusal :=
  runWord s (.imaxImm o) fun s g => intI s g o laneMax
def execIminuImm (o : OpI) (s : State) : Host.Outcome State Fault Refusal :=
  runWord s (.iminuImm o) fun s g => intI s g o laneMinu
def execImaxuImm (o : OpI) (s : State) : Host.Outcome State Fault Refusal :=
  runWord s (.imaxuImm o) fun s g => intI s g o laneMaxu

/-- Writes the immediate in every active lane (R129). -/
def execVli (o : OpI) (s : State) : Host.Outcome State Fault Refusal :=
  runWord s (.vli o) fun s g =>
    let act := g.active o.pred
    (lanePlan g (g.intTrap act [{ pos := 0, code := o.d }]) o.d act fun _ => g.immV o).run s g

end Sys2Proof.Machine
end

