-- ==== Sys2Proof/Machine/Moves.lean ====
section
/-! DEFINITION. Lane moves and the return queue (R140 to R142), identity (R181), permute parameters (R182),
reductions and scans (R184 to R187), predicates (R138), scale registers (R124), index registers (R139), and the
group's view of the format table (R125, R126). -/
namespace Sys2Proof.Machine
open Sys2Proof.Fmt

/-- Copies the delivered value of A (R140). -/
def execVmov (o : OpA) (s : State) : Host.Outcome State Fault Refusal :=
  runWord s (.vmov o) fun s g => int1 s g o id

/-- The source lane of each lane is the value of B there; checked are D, B, then A in the live lanes selected by an
active lane (R141). -/
def execVperm (o : OpA) (s : State) : Host.Outcome State Fault Refusal :=
  runWord s (.vperm o) fun s g =>
    let act := g.active o.pred
    let m (l : Nat) : Nat := (g.fetchV o.b o.bp l).toNat % 32
    let from' := ((lanesOf act).map fun l => (l, m l)).filter fun (_, x) => g.live.getLsbD x
    (lanePlan g (firstTrap [g.boundTrap act { pos := 0, code := o.d }, g.boundTrap act { pos := 2, code := o.b, perm := o.bp },
        g.checkV 1 o.a 1 from']) o.d act
      fun l => if g.live.getLsbD (m l) then g.getV (g.rowOf o.a (m l)) (m l) else 0).run s g

/-- One identity value of the thread in each lane (R181). -/
def execVlane (o : OpA) (s : State) : Host.Outcome State Fault Refusal :=
  runWord s (.vlane o) fun s g =>
    let act := g.active o.pred
    (lanePlan g (g.boundTrap act { pos := 0, code := o.d }) o.d act fun l =>
      match o.b.toNat with
      | 0 => BitVec.ofNat 32 l
      | 1 => BitVec.ofNat 32 (g.origin.get 0 l)
      | 2 => BitVec.ofNat 32 (s.globalIndex g l)
      | _ => BitVec.ofNat 32 (s.globalIndex g l / 2 ^ 32)).run s g

/-- Appends to the return queue the value delivered to the lowest active lane (R142); a `vput` beyond 16 entries
waits in the forward queue (R28). R25 checks the index registers of each active lane, and A is delivered to the lowest one alone: only
the lane that it reads from is checked (DESIGN CHOICE, log entry 11). -/
def execVput (o : OpA) (s : State) : Host.Outcome State Fault Refusal :=
  runWord s (.vput o) fun s g =>
    match lanesOf (g.active 7) with
    | [] => match g.boundTrap 0 { pos := 1, code := o.a, perm := o.ap } with
      | some t => .trap t
      | none => .next s g
    | l :: _ => match g.boundTrap (laneMask (· == l)) { pos := 1, code := o.a, perm := o.ap } with
      | some t => .trap t
      | none => .next s { g with rq := g.rq ++ [g.fetchV o.a o.ap l],
                                 fqHeld := if 16 ≤ g.rq.length then g.fqHeld ++ [(0, 0)] else g.fqHeld }

-- ## reductions and scans (R184 to R187)

/-- One combine of two elements: bits and flags. -/
def combine (g : Group) (o : OpA) (x y : Nat) : Nat × BitVec 5 :=
  let a := BitVec.ofNat 32 x
  let b := BitVec.ofNat 32 y
  let op := o.xf.toNat % 8
  if o.xf.getLsbD 3 then
    ((match op with
      | 0 => laneAdd false a b | 1 => laneMin a b | 2 => laneMax a b
      | 3 => a &&& b | 4 => a ||| b | _ => a ^^^ b).toNat, 0)
  else
    let f := g.entry o.fmt.toNat
    let u := decode f x
    let v := decode f y
    match op with
    | 0 => (valued (u.add v false)).bits f .rne false
    | 1 => (minMax false u v (some x) (some y)).bits f .rne false
    | _ => (minMax true u v (some x) (some y)).bits f .rne false

/-- The combine of two values of which either may be absent. -/
def comb (g : Group) (o : OpA) (x y : Option (Nat × BitVec 5)) : Option (Nat × BitVec 5) :=
  match x, y with
  | none, y => y
  | x, none => x
  | some (a, fa), some (b, fb) => let (r, f) := combine g o a b; some (r, fa ||| fb ||| f)

/-- One step of R185 or R186 at distance `d` over all lanes. -/
def reduceStep (scan : Bool) (g : Group) (o : OpA) (t : List (Option (Nat × BitVec 5))) (d : Nat) :
    List (Option (Nat × BitVec 5)) :=
  let at' (l : Nat) : Option (Nat × BitVec 5) := nth none t l
  if scan then allLanes.map fun l => if d ≤ l then comb g o (at' (l - d)) (at' l) else at' l
  else allLanes.map fun l => comb g o (at' (min l (l ^^^ d))) (at' (max l (l ^^^ d)))

/-- The five steps of one element position. A value carries the flags of every combine it rests on. -/
def reduceAll (scan : Bool) (g : Group) (o : OpA) (t : List (Option (Nat × BitVec 5))) : List (Option (Nat × BitVec 5)) :=
  [1, 2, 4, 8, 16].foldl (fun t d => reduceStep scan g o t d) t

/-- The checks and the effect of `vredx` and `vscan` (R185 to R187). -/
def reduceWord (scan : Bool) (s : State) (g : Group) (o : OpA) : WordRes :=
  let act := g.active o.pred
  let isInt := o.xf.getLsbD 3
  let n := o.fmt.toNat
  let f := if isInt then binary32 else g.entry n
  let os : List Opnd := [{ pos := 0, code := o.d, ent := some n }, { pos := 1, code := o.a, perm := o.ap, ent := some n }]
  let trap := if isInt then g.intTrap act os else g.floatTrap act os [(0, n)] (floatUnscaled f) n
  let rows := (List.range f.perLane).map fun i => reduceAll scan g o (allLanes.map fun l =>
    if act.getLsbD l then some (elemBits f (g.fetchV o.a o.ap l) i, 0) else none)
  let flags := unionFlags (rows.flatMap fun r => r.map fun v => (v.map (·.2)).getD 0)
  let p := lanePlan g trap o.d act fun l => joinElems f (rows.map fun r => ((nth none r l).map (·.1)).getD 0)
  Plan.run { p with write := fun h => (p.write h).orFlags flags } s g

def execVredx (o : OpA) (s : State) : Host.Outcome State Fault Refusal :=
  runWord s (.vredx o) fun s g => reduceWord false s g o

def execVscan (o : OpA) (s : State) : Host.Outcome State Fault Refusal :=
  runWord s (.vscan o) fun s g => reduceWord true s g o

-- ## predicates (R138)

/-- A whole-predicate result: all 32 bits, whatever M and liveness are. -/
def setPred (s : State) (g : Group) (o : OpA) (x : Lane) : WordRes :=
  .next s (g.setP o.d.toNat x) { regs := if o.d.toNat = 7 then [] else [{ kind := 3, num := o.d.toNat }] }

def predA (g : Group) (o : OpA) : Lane := g.getP o.a.toNat
def predB (g : Group) (o : OpA) : Lane := g.getP o.b.toNat

def execPand (o : OpA) (s : State) : Host.Outcome State Fault Refusal :=
  runWord s (.pand o) fun s g => setPred s g o (predA g o &&& predB g o)
def execPor (o : OpA) (s : State) : Host.Outcome State Fault Refusal :=
  runWord s (.por o) fun s g => setPred s g o (predA g o ||| predB g o)
def execPxor (o : OpA) (s : State) : Host.Outcome State Fault Refusal :=
  runWord s (.pxor o) fun s g => setPred s g o (predA g o ^^^ predB g o)
def execPnot (o : OpA) (s : State) : Host.Outcome State Fault Refusal :=
  runWord s (.pnot o) fun s g => setPred s g o (~~~ predA g o)
def execPmov (o : OpA) (s : State) : Host.Outcome State Fault Refusal :=
  runWord s (.pmov o) fun s g => setPred s g o (predA g o)

/-- The bits of a predicate in M, which holds live lanes only. -/
def maskedA (g : Group) (o : OpA) : Lane := predA g o &&& (g.mask &&& g.live)

/-- A condition bit delivered to the scalar side (R28); c7 discards it (R15). -/
def setCond (s : State) (g : Group) (n : Nat) (b : Bool) : WordRes :=
  .next s (g.setC n b) { regs := if n = 7 then [] else [{ kind := 6, num := n }] }

/-- A scalar result. -/
def setScalar (s : State) (g : Group) (n : Nat) (x : Word) : WordRes :=
  .next s (g.setS n x) { regs := [{ kind := 5, num := n }] }

def execPany (o : OpA) (s : State) : Host.Outcome State Fault Refusal :=
  runWord s (.pany o) fun s g => setCond s g o.d.toNat (maskedA g o != 0)
def execPall (o : OpA) (s : State) : Host.Outcome State Fault Refusal :=
  runWord s (.pall o) fun s g => setCond s g o.d.toNat (maskedA g o == (g.mask &&& g.live))
def execPpopc (o : OpA) (s : State) : Host.Outcome State Fault Refusal :=
  runWord s (.ppopc o) fun s g => setScalar s g o.d.toNat (BitVec.ofNat 64 (popcount (maskedA g o).toNat 32))
def execPfirst (o : OpA) (s : State) : Host.Outcome State Fault Refusal :=
  runWord s (.pfirst o) fun s g => setScalar s g o.d.toNat (BitVec.ofNat 64 (((lanesOf (maskedA g o)).head?).getD 32))

-- ## scale registers (R124)

/-- Sixteen bytes from the values of A delivered to lanes 0 to 3, whatever their activity; the index registers that those lanes read
through are the ones checked (DESIGN CHOICE, log entry 11). -/
def execZset (o : OpA) (s : State) : Host.Outcome State Fault Refusal :=
  runWord s (.zset o) fun s g =>
    match g.boundTrap 0xF { pos := 1, code := o.a, perm := o.ap } with
    | some t => .trap t
    | none =>
      let v (j : Nat) : Nat := (g.fetchV o.a o.ap j).toNat
      .next s (g.setZ o.d.toNat (BitVec.ofNat 128 (v 0 + 2 ^ 32 * v 1 + 2 ^ 64 * v 2 + 2 ^ 96 * v 3)))
        { regs := [{ kind := 2, num := o.d.toNat }] }

def execZget (o : OpA) (s : State) : Host.Outcome State Fault Refusal :=
  runWord s (.zget o) fun s g =>
    let act := g.active 7
    (lanePlan g (g.boundTrap act { pos := 0, code := o.d }) o.d act
      fun l => (g.getZ o.a.toNat).extractLsb' (32 * (l % 4)) 32).run s g

def execZmov (o : OpA) (s : State) : Host.Outcome State Fault Refusal :=
  runWord s (.zmov o) fun s g => .next s (g.setZ o.d.toNat (g.getZ o.a.toNat)) { regs := [{ kind := 2, num := o.d.toNat }] }

-- ## index registers (R139)

/-- Writes an index register in each active lane. -/
def Group.writeX (g : Group) (k : Nat) (act : Lane) (f : Nat → Lane) : Group :=
  (lanesOf act).foldl (fun h l => h.setX k l (f l)) g

/-- An index register with a new IDX field. -/
def withIdx (x : Lane) (i : Nat) : Lane := BitVec.ofNat 32 (x.toNat / 1024 * 1024 + i)

/-- A word that writes an index register from the delivered value of A. -/
def indexA (s : State) (g : Group) (o : OpA) (f : Lane → Lane → Lane) : WordRes :=
  let act := g.active o.pred
  let k := o.d.toNat
  match g.boundTrap act { pos := 1, code := o.a, perm := o.ap } with
  | some t => .trap t
  | none => .next s (g.writeX k act fun l => f (g.getX k l) (g.fetchV o.a o.ap l))
      { regs := [{ kind := 1, num := k, lanes := act }] }

def execXset (o : OpA) (s : State) : Host.Outcome State Fault Refusal :=
  runWord s (.xset o) fun s g => indexA s g o fun _ a => a

def execXsetImm (o : OpI) (s : State) : Host.Outcome State Fault Refusal :=
  runWord s (.xsetImm o) fun s g =>
    let act := g.active o.pred
    .next s (g.writeX o.d.toNat act fun _ => g.immV o) { regs := [{ kind := 1, num := o.d.toNat, lanes := act }] }

def execXidx (o : OpA) (s : State) : Host.Outcome State Fault Refusal :=
  runWord s (.xidx o) fun s g => indexA s g o fun x a => withIdx x (min a.toNat 1023)

def execXinc (o : OpA) (s : State) : Host.Outcome State Fault Refusal :=
  runWord s (.xinc o) fun s g => indexA s g o fun x a =>
    let r : Int := (xIdx x : Int) + a.toInt
    withIdx x (if 0 ≤ r ∧ r ≤ 1023 then r.toNat else 1023)

def execXget (o : OpA) (s : State) : Host.Outcome State Fault Refusal :=
  runWord s (.xget o) fun s g =>
    let act := g.active o.pred
    (lanePlan g (g.boundTrap act { pos := 0, code := o.d }) o.d act fun l => g.getX o.a.toNat l).run s g

-- ## permute parameters and the format table

def execKset (o : OpI) (s : State) : Host.Outcome State Fault Refusal :=
  runWord s (.kset o) fun s g =>
    .next s (g.setK o.d.toNat ((g.immV o).setWidth 16)) { regs := [{ kind := 4, num := o.d.toNat }] }

/-- `fmtset` writes the group's view and records the write as pending (R50, R125). -/
def execFmtset (o : OpI) (s : State) : Host.Outcome State Fault Refusal :=
  runWord s (.fmtset o) fun s g =>
    let w := g.immV o
    let n := o.d.toNat % 8
    let bad := entryRefusal w
    if bad ≠ 0 then .trap (mkTrap 4 1 (n + w.toNat * 2 ^ 32 + bad * 2 ^ 64))
    else .next s { g with view := putNth g.view n w, fmtPend := g.fmtPend ++ [(n, w)] }

/-- `fmtget` reads the view, an invalid entry included (R126). -/
def execFmtget (o : OpA) (s : State) : Host.Outcome State Fault Refusal :=
  runWord s (.fmtget o) fun s g => setScalar s g o.d.toNat ((nth 0 g.view o.a.toNat).setWidth 64)

end Sys2Proof.Machine
end

