-- ==== Sys2Proof/Machine/Engines.lean ====
section
/-! DEFINITION. Core engine commands (R265 to R276): shapes, the checks of `cpy` and `comb`, tags and their observation,
and `wait` (R151), which observes tags and matrix operations too. -/
namespace Sys2Proof.Machine

/-- XLEN, YCNT and ZCNT of a shape register (R268). -/
def shapeX (w : Word) : Nat := wfield w 0 24
def shapeY (w : Word) : Nat := wfield w 24 16
def shapeZ (w : Word) : Nat := wfield w 40 16

/-- Step 1 of R271: a legal shape. -/
def shapeOk (w : Word) : Bool :=
  shapeX w != 0 && shapeY w != 0 && shapeZ w != 0 && wfield w 56 8 == 0 && decide (shapeX w * shapeY w * shapeZ w ≤ 2 ^ 32)

/-- YSTR and ZSTR of a stride register (R268). -/
def strideY (w : Word) : Int := (w.extractLsb' 0 32).toInt
def strideZ (w : Word) : Int := (w.extractLsb' 32 32).toInt

/-- The bounding range of an endpoint relative to its base (R269): lo and hi. -/
def bounds (x y z : Nat) (sy sz : Int) : Int × Int :=
  let a := ((y : Int) - 1) * sy
  let b := ((z : Int) - 1) * sz
  (min 0 a + min 0 b, (x : Int) + max 0 a + max 0 b)

/-- The address of row (z, y) of an endpoint, relative to its base. -/
def rowOffset (n ycnt : Nat) (sy sz : Int) : Int := ((n % ycnt : Nat) : Int) * sy + ((n / ycnt : Nat) : Int) * sz

/-- Step 3 of R271 on a stash endpoint: the core that holds it and the base of its claim, as a byte of that stash. -/
def State.stashEnd (s : State) (g : Group) (a : Word) (lo hi : Int) : Except TrapReq (Nat × Nat) :=
  let n := a.toNat
  if n / 2 ^ 24 ≠ 0 ∨ n.testBit 19 then .error (mkTrap 3 4 n)
  else match s.team? g.id.team, s.cluster? g.id.cluster with
    | some t, some c =>
      let k := field n 20 4
      match (if k ≠ 15 ∧ (12 ≤ k ∨ c.w * c.h ≤ k) then none else s.stashTeam t k) with
      | none => .error (mkTrap 3 5 n)
      | some u =>
        let off : Int := (n % 524288 : Nat)
        if off + lo < 0 ∨ ((u.stashRows * lineBytes : Nat) : Int) < off + hi then .error (mkTrap 3 4 n)
        else .ok (u.core, u.stashBase * lineBytes)
    | _, _ => .error (mkTrap 3 4 n)

/-- The 64 KiB granules that hold bytes of a global endpoint, in row order. -/
def granules (a : Word) (x rows ycnt : Nat) (sy sz : Int) : List Nat :=
  (List.range rows).foldl (fun l n =>
    let st := (a + BitVec.ofInt 64 (rowOffset n ycnt sy sz)).toNat
    (List.range ((st % 65536 + x + 65535) / 65536)).foldl (fun l i =>
      let gr := (st / 65536 + i) % 2 ^ 48
      if l.contains gr then l else l ++ [gr]) l) []

/-- Step 4 of R271: every page translated; granule, physical base, and whether uncached. -/
def State.pagesOf (s : State) (g : Group) (acc : Access) : List Nat → Except TrapReq (List (Nat × Nat × Bool)) × State
  | [] => (.ok [], s)
  | gr :: r =>
    match s.translate g.asker acc (w64' (gr * 65536)) with
    | (.error t, s) => (.error t, s)
    | (.ok (pa, mt), s) => match s.pagesOf g acc r with
      | (.error t, s) => (.error t, s)
      | (.ok l, s) => (.ok ((gr, pa / 65536 * 65536, mt == 1) :: l), s)
where w64' (n : Nat) : Word := BitVec.ofNat 64 n

/-- Rows of a stash endpoint that a stage-2 invalidation has checked are translated again before a command that writes them issues
(R201, R343, R344). -/
def State.recheckRows (s : State) (vf : Nat) : List Nat → Option TrapReq × State
  | [] => (none, s)
  | k :: r => match s.recheckRow vf k with
    | (some t, s) => (some t, s)
    | (none, s) => s.recheckRows vf r

/-- The rows that hold bytes of a stash endpoint, in row order. -/
def stashRowsOf (first x rows ycnt : Nat) (sy sz : Int) : List Nat :=
  ((List.range rows).flatMap fun n =>
    let st := ((first : Int) + rowOffset n ycnt sy sz).toNat
    (List.range ((st % 128 + x + 127) / 128)).map fun i => st / 128 + i).eraseDups

/-- The absolute bounding range of an endpoint: a virtual range, or bytes of a core's stash. -/
def CopyEnd.range (e : CopyEnd) (lo hi : Int) : Nat × Nat :=
  if e.isStash then
    let o : Int := (e.base + e.addr.toNat % 524288 : Nat)
    ((o + lo).toNat, (o + hi).toNat)
  else
    let b := (e.addr + BitVec.ofInt 64 lo).toNat
    (b, b + (hi - lo).toNat)

/-- The range lock a command would hold hits a valid entry (R274): the lowest such entry. -/
def State.lockClash (s : State) (core vf : Nat) (d : CopyEnd) (dr : Nat × Nat) (src : Option (CopyEnd × (Nat × Nat))) : Option Nat :=
  ((s.locksOf core).find? fun e =>
    let own (x : CopyEnd) : Nat := if x.isStash then x.core else vf
    e.hits true d.isStash (own d) dr.1 dr.2 || e.hits false d.isStash (own d) dr.1 dr.2
      || (match src with
          | some (x, r) => e.hits true x.isStash (own x) r.1 r.2
          | none => false)).map (·.idx)

/-- The lowest free copy entry of a core's range-lock table, and the lowest free command slot (R271, R274). -/
def State.freeLock (s : State) (core : Nat) : Option Nat :=
  (List.range 64).find? fun i => !s.locks.any fun e => e.core == core && e.idx == i
def State.freeCmd (s : State) (core : Nat) : Option Nat :=
  (List.range 64).find? fun i => !s.copies.any fun c => c.core == core && c.slot == i

/-- The state of a tag (R265). -/
def Group.tagFree (g : Group) (t : Nat) : Bool := !g.tagBusy.getLsbD t && !g.tagDone.getLsbD t
def bit64 (t : Nat) : Word := 1#64 <<< t

/-- The capacity D of the partition leaves room for a copy's bytes (R337). -/
def State.copyFits (s : State) (vf bytes : Nat) : Bool :=
  match s.partOf vf with
  | some p => decide (s.partDirty p + bytes ≤ p.cap)
  | none => true

/-- A packet goes to the trace port when its partition is selected, else to the partition's ring, if it has one (R425). -/
def State.putPacket (s : State) (p : Partition) (pkt : List Word) : State :=
  if s.device.trsel.toNat % 32 = 16 + p.num then { s with trace := s.trace ++ [pkt] }
  else
    let a : Nat := p.trbase.toNat / 4096 * 4096 + p.trhead.toNat % 2 ^ (wfield p.trbase 0 5) * 48
    (s.writeMem a (pkt.flatMap fun w => leBytes 8 w.toNat)).setPart { p with trhead := p.trhead + 1 }

/-- Word 0 of a packet and its words 1 to 5, 48 bytes (R424). -/
def State.packet (s : State) (part vf type : Nat) (ws : List Word) : List Word :=
  BitVec.ofNat 64 (type * 2 ^ 56 + part * 2 ^ 52 + vf * 2 ^ 44 + s.ns % 2 ^ 44) :: (List.range 5).map fun i => nth 0 ws i

/-- A trace packet of a VF (R424, R425). Whether the port or the ring's write queue has room is free; a packet that finds none
is dropped and counted in the next packet of type 0x13. -/
def State.tracePacket (s : State) (vf type : Nat) (ws : List Word) : State :=
  match s.partOf vf with
  | none => s
  | some p =>
    let n := wfield p.trbase 0 5
    if s.device.trsel.toNat % 32 ≠ 16 + p.num ∧ (n < 4 ∨ 20 < n) then s
    else
      let (k, s1) := s.free
      if k % 2 = 1 then s1.setPart { p with trlost := p.trlost + 1 }
      else
        let s2 := if p.trlost = 0 then s1 else (s1.setPart { p with trlost := 0 }).putPacket { p with trlost := 0 } (s.packet p.num vf 0x13 [BitVec.ofNat 64 p.trlost])
        s2.putPacket (s2.part p.num) (s.packet p.num vf type ws)

/-- The first word of a packet about a core command: PCORE, slot, tag. -/
def CopyCmd.traceWord (c : CopyCmd) : Word := BitVec.ofNat 64 (c.core * 2 ^ 48 + c.slot * 2 ^ 6 + c.tag)

/-- Registers a command: its lock, its slot, its tag BUSY (R271). -/
def State.issueCopy (s : State) (g : Group) (c : CopyCmd) (e : LockEntry) : WordRes :=
  let s1 := { s with locks := s.locks ++ [e], copies := s.copies ++ [c] }
  .next (s1.tracePacket g.id.vf 1 [c.traceWord, e.dlo, e.dhi, e.slo, e.shi])
    { g with tagBusy := g.tagBusy ||| bit64 c.tag }

/-- `cpy` (R267 to R271). -/
def execCpy (o : OpE) (s : State) : Host.Outcome State Fault Refusal :=
  runWord s (.cpy o) fun s g => settled g <|
    let shape := g.getS o.d.toNat
    let ss := g.getS o.a.toNat
    let ds := g.getS (o.a.toNat + 1)
    let t := o.num.toNat
    let x := shapeX shape
    let y := shapeY shape
    let z := shapeZ shape
    if !shapeOk shape then .trap (mkTrap 11 2 (shape.toNat + 2 ^ 64 * t))
    else if !g.tagFree t then .trap (mkTrap 11 1 t)
    else
      let (dlo, dhi) := bounds x y z (strideY ds) (strideZ ds)
      let (slo, shi) := bounds x y z (strideY ss) (strideZ ss)
      let da := g.getS o.sb1.toNat
      let sa := g.getS o.sb2.toNat
      let place (isS : Bool) (a : Word) (lo hi : Int) : Except TrapReq (Nat × Nat) := if isS then s.stashEnd g a lo hi else .ok (0, 0)
      match place (o.md.getLsbD 1) da dlo dhi, place (o.md.getLsbD 0) sa slo shi with
      | .error e, _ => .trap e
      | .ok _, .error e => .trap e
      | .ok (dc, db), .ok (sc, sb) =>
        let d : CopyEnd := { isStash := o.md.getLsbD 1, addr := da, core := dc, base := db, ystr := strideY ds, zstr := strideZ ds }
        let r : CopyEnd := { isStash := o.md.getLsbD 0, addr := sa, core := sc, base := sb, ystr := strideY ss, zstr := strideZ ss }
        let gr (e : CopyEnd) : List Nat := if e.isStash then [] else granules e.addr x (y * z) y e.ystr e.zstr
        let marked := if d.isStash then stashRowsOf (dc * Config.stashBytes + db + da.toNat % 524288) x (y * z) y d.ystr d.zstr else []
        match s.recheckRows g.id.vf marked with
        | (some e, s) => .trapS s g e
        | (none, s) => match s.pagesOf g .write (gr d) with
        | (.error e, s) => .trapS s g e
        | (.ok dp, s) => match s.pagesOf g .read (gr r) with
          | (.error e, s) => .trapS s g e
          | (.ok sp, s) =>
            let dr := d.range dlo dhi
            let rr := r.range slo shi
            let same : Bool := d.isStash == r.isStash && (!d.isStash || d.core == r.core)
            let named : Nat := if d.isStash then da.toNat / 524288 * 524288 + ((da.toNat % 524288 : Nat) + dlo : Int).toNat % 524288 else dr.1
            if same && overlap dr.1 dr.2 rr.1 rr.2 then .trapS s g (mkTrap 11 3 (named + 2 ^ 64 * t))
            else match s.freeLock g.id.core, s.freeCmd g.id.core with
              | some li, some ci =>
                if !s.copyFits g.id.vf (x * y * z) then .stall
                else match s.lockClash g.id.core g.id.vf d dr (some (r, rr)) with
                  | some e => .trapS s g (mkTrap 10 3 e)
                  | none =>
                    let s1 := { s with nextKey := s.nextKey + 1 }
                    s1.issueCopy g {
                      group := g.id.key, vf := g.id.vf, core := g.id.core, slot := ci, tag := t, isComb := false, dst := d, src := r
                      xlen := x, ycnt := y, zcnt := z, done := 0, pieces := 0, sco := o.sco, lockIdx := li, cancelled := false
                      pages := dp ++ sp, agent := { s.agentOf g with kind := 1, slot := ci }, ltime := g.ltime, after := g.nextInst, cancelAt := 0, serial := s.nextKey }
                      { core := g.id.core, idx := li, vf := g.id.vf, dlo := BitVec.ofNat 64 dr.1, dhi := BitVec.ofNat 64 dr.2
                        slo := BitVec.ofNat 64 rr.1, shi := BitVec.ofNat 64 rr.2, quad := g.id.quad, slot := g.id.slot, tag := t
                        nosrc := false, dsp := d.isStash, ssp := r.isStash, dcore := d.core, score := r.core, kind := false }
              | _, _ => .stall

/-- `comb` (R276): a fold of the kernel's staged contributions to a range, as an engine command. -/
def execComb (o : OpE) (s : State) : Host.Outcome State Fault Refusal :=
  runWord s (.comb o) fun s g => settled g <|
    let t := o.num.toNat
    let a := g.getS o.sb1.toNat
    let n := (g.getS o.sb2.toNat).toNat
    if !g.tagFree t then .trap (mkTrap 11 1 t)
    else if n = 0 then .next s { g with tagDone := g.tagDone ||| bit64 t }
    else
      -- whole doublewords: a staged doubleword that holds a byte of the range is written whole
      let a0 := a.toNat / 8 * 8
      let n0 := (a.toNat + n + 7) / 8 * 8 - a0
      let grs := (List.range ((a0 % 65536 + n0 + 65535) / 65536)).map fun i => (a0 / 65536 + i) % 2 ^ 48
      match s.pagesOf g .write grs with
      | (.error e, s) => .trapS s g e
      | (.ok ps, s) =>
        let d : CopyEnd := { isStash := false, addr := a, core := 0, base := 0, ystr := 0, zstr := 0 }
        match s.freeLock g.id.core, s.freeCmd g.id.core with
        | some li, some ci => match s.lockClash g.id.core g.id.vf d (a.toNat, a.toNat + n) none with
          | some e => .trapS s g (mkTrap 10 3 e)
          | none =>
            let s1 := { s with nextKey := s.nextKey + 1 }
            s1.issueCopy g {
              group := g.id.key, vf := g.id.vf, core := g.id.core, slot := ci, tag := t, isComb := true, dst := d, src := d
              xlen := n, ycnt := 1, zcnt := 1, done := 0, pieces := 0, sco := o.sco, lockIdx := li, cancelled := false
              pages := ps, agent := { s.agentOf g with kind := 1, slot := ci }, ltime := g.ltime, after := g.nextInst, cancelAt := 0, serial := s.nextKey }
              { core := g.id.core, idx := li, vf := g.id.vf, dlo := a, dhi := BitVec.ofNat 64 (a.toNat + n), slo := 0, shi := 0
                quad := g.id.quad, slot := g.id.slot, tag := t, nosrc := true, dsp := false, ssp := false, dcore := 0, score := 0, kind := false }
        | _, _ => .stall

-- ## observation of tags (R265, R270, R272)

/-- One DONE tag is observed: it is FREE, and its lock entry is released. -/
def State.observe (s : State) (g : Group) (t : Nat) : State × Group :=
  let mine (e : LockEntry) : Bool := e.core == g.id.core && !e.kind && e.quad == g.id.quad && e.slot == g.id.slot && e.tag == t
  ({ s with locks := s.locks.filter fun e => !mine e },
   { g with tagDone := g.tagDone &&& ~~~(bit64 t), tagFlt := g.tagFlt &&& ~~~(bit64 t) })

/-- DONE tags of a mask are observed in ascending order up to a faulted one, which is observed and traps (R270). -/
def State.observeAll (s : State) (g : Group) : List Nat → State × Group × Option TrapReq
  | [] => (s, g, none)
  | t :: r =>
    if g.tagDone.getLsbD t then
      let (s1, g1) := s.observe g t
      if g.tagFlt.getLsbD t then (s1, g1, some (mkTrap 20 2 t)) else s1.observeAll g1 r
    else s.observeAll g r

/-- The tags of a mask. -/
def tagsOf (m : Word) : List Nat := bitsOf m.toNat 64

/-- Everything the group's commands did precedes what follows the observation, for the conflict checker (R238); a command
is numbered by its serial × 64 + its tag. -/
def State.observeConf (s : State) (g : Group) (tags : List Nat) : State :=
  { s with conflicts := s.conflicts.map fun (k, r) => (k, { accesses := r.accesses.map fun a =>
      if a.agent.kind = 1 ∧ a.agent.key = g.id.key ∧ tags.contains (a.cmd % 64) ∧ a.cmd ≠ 0 ∧ g.tagDone.getLsbD (a.cmd % 64)
      then { a with cmd := 0, inst := g.ltime.toNat } else a }) }

/-- Observes the DONE tags of a list and goes on, or traps at a faulted one. -/
def observing (s : State) (g : Group) (tags : List Nat) (k : State → Group → WordRes) : WordRes :=
  -- no tag above the faulted one is observed (R270)
  let flt := tags.find? fun t => g.tagDone.getLsbD t && g.tagFlt.getLsbD t
  match (s.observeConf g (match flt with | some f => tags.filter fun t => t ≤ f | none => tags)).observeAll g tags with
  | (s1, g1, some t) => .trapS s1 g1 t
  | (s1, g1, none) => k s1 g1

/-- The tags of a mask that are BUSY, or DONE. -/
def Group.busyOf (g : Group) (m : Word) : Bool := (g.tagBusy &&& m) != 0
def Group.doneOf (g : Group) (m : Word) : Word := g.tagDone &&& m

/-- What a replay waits for: every tag of the logged mask is DONE (R406). -/
def waitsLogged (g : Group) (m : Word) : Bool := (m &&& ~~~g.tagDone) != 0

/-- `cpy.wany` (R272): with DET = 1 it first waits as `cpy.wall`; the mask observed is a logged value (R388). -/
def execCpyWany (o : OpE) (s : State) : Host.Outcome State Fault Refusal :=
  runWord s (.cpyWany o) fun s g => settled g <|
    let m := g.getS o.sb1.toNat
    match s.logged g 4 with
    | some e =>
      let lm := nth 0 e.more 0
      if waitsLogged g lm then .stall else observing (s.note g 4 0x3040 [lm]) g (tagsOf lm) fun s g => .next s g
    | none =>
      if (s.det g.id.vf ∨ g.doneOf m = 0) ∧ g.busyOf m then .stall
      else observing (s.note g 4 0x3040 [g.doneOf m]) g (tagsOf m) fun s g => .next s g

def execCpyWall (o : OpE) (s : State) : Host.Outcome State Fault Refusal :=
  runWord s (.cpyWall o) fun s g => settled g <|
    let m := g.getS o.sb1.toNat
    if g.busyOf m then .stall else observing s g (tagsOf m) fun s g => .next s g

/-- `cpy.ffr` returns and observes the lowest DONE tag of the mask, or returns 64 (R272). -/
def execCpyFfr (o : OpE) (s : State) : Host.Outcome State Fault Refusal :=
  runWord s (.cpyFfr o) fun s g => settled g <|
    let m := g.getS o.sb1.toNat
    let go (s : State) (t : Nat) : WordRes :=
      observing s g (if t < 64 then [t] else []) fun s g => setScalar s g o.d.toNat (BitVec.ofNat 64 t)
    let found : Nat := ((tagsOf (g.doneOf m)).head?).getD 64
    match s.logged g 4 with
    | some e =>
      let t := (nth (0 : Word) e.more 0).toNat
      if t < 64 ∧ !g.tagDone.getLsbD t then .stall else go (s.note g 4 0x3041 [BitVec.ofNat 64 t]) t
    | none =>
      if s.det g.id.vf ∧ g.busyOf m then .stall else go (s.note g 4 0x3041 [BitVec.ofNat 64 found]) found

/-- `cpy.cancel`: with DET = 0 each BUSY command of the mask will stop; with DET = 1 it completes whole (R273). -/
def execCpyCancel (o : OpE) (s : State) : Host.Outcome State Fault Refusal :=
  runWord s (.cpyCancel o) fun s g => settled g <|
    let m := g.getS o.sb1.toNat
    if s.det g.id.vf then .next s g
    else .next { s with copies := s.copies.map fun c =>
        if c.group = g.id.key ∧ m.getLsbD c.tag then { c with cancelled := true, cancelAt := if c.cancelled then c.cancelAt else g.ltime } else c } g

/-- `wait` completes when the four counts are at or below its operands (R151). With cp = 0 it observes every DONE tag
(R265); when its mx condition holds it observes the matrix operations complete by then (R286). -/
def execWait (o : OpI) (s : State) : Host.Outcome State Fault Refusal :=
  runWord s (.wait o) fun s g =>
    let lim (i : Nat) : Nat := o.imm.toNat / 256 ^ i % 256
    if g.ldcnt ≤ lim 0 ∧ g.stcnt ≤ lim 1 ∧ g.cpcnt ≤ lim 2 ∧ s.mxcnt g ≤ lim 3 then
      let seen : Nat := match s.team? g.id.team with
        | some t => ((t.seqr.flight.map (·.id)).head?).getD s.nextKey
        | none => 0
      let loads := decide (lim 0 < 255)
      let stores := decide (lim 1 < 255)
      let g : Group := { (if lim 0 = 0 ∨ lim 1 = 0 then g.waitedFor else g) with mxSeen := max g.mxSeen seen }
      if lim 2 = 0 && g.tagDone != 0 then settled g (observing s g (List.range 64) fun s g => consuming s g (.next s g) loads stores)
      else consuming s g (.next s g) loads stores
    else .stall

end Sys2Proof.Machine
end

