-- ==== Sys2Proof/Machine/Scalar.lean ====
section
/-! DEFINITION. The scalar words but loads, stores and special registers: arithmetic and logic (R83), bit counts and
fields (R84, R85), moves (R86), compares and condition logic (R87, R88), control transfer (R89 to R92) and the
return-queue pop (R95). -/
namespace Sys2Proof.Machine

/-- A scalar word: without its condition it retires with no effect (R81). -/
def runScalar (s : State) (i : Instr) (o : OpS) (f : State → Group → WordRes) : Host.Outcome State Fault Refusal :=
  runWord s i fun s g => if g.getC o.cond.toNat then f s g else .next s g

/-- Writes s[SD] and goes on. -/
def setSd (s : State) (g : Group) (o : OpS) (r : Word) : WordRes :=
  .next s (g.setS o.sd.toNat r) { regs := [{ kind := 5, num := o.sd.toNat }] }

/-- A binary operation on s[SA] and operand B (R83). -/
def scalar2 (s : State) (i : Instr) (o : OpS) (f : Word → Word → Word) : Host.Outcome State Fault Refusal :=
  runScalar s i o fun s g => setSd s g o (f (g.getS o.sa.toNat) (g.srcB o))

/-- A division: a zero divisor traps (R83). -/
def scalarDiv (s : State) (i : Instr) (o : OpS) (op : Nat) (f : Int → Int → Int) : Host.Outcome State Fault Refusal :=
  runScalar s i o fun s g =>
    if g.srcB o = 0 then .trap (mkTrap 5 1 op)
    else setSd s g o (BitVec.ofInt 64 (f (g.getS o.sa.toNat).toInt (g.srcB o).toInt))

def execSadd (o : OpS) (s : State) : Host.Outcome State Fault Refusal := scalar2 s (.sadd o) o (· + ·)
def execSsub (o : OpS) (s : State) : Host.Outcome State Fault Refusal := scalar2 s (.ssub o) o (· - ·)
def execSmul (o : OpS) (s : State) : Host.Outcome State Fault Refusal := scalar2 s (.smul o) o (· * ·)
def execSmulh (o : OpS) (s : State) : Host.Outcome State Fault Refusal :=
  scalar2 s (.smulh o) o fun a b => BitVec.ofInt 64 (a.toInt * b.toInt / 2 ^ 64)
def execSdiv (o : OpS) (s : State) : Host.Outcome State Fault Refusal := scalarDiv s (.sdiv o) o 4 Int.tdiv
def execSrem (o : OpS) (s : State) : Host.Outcome State Fault Refusal :=
  scalarDiv s (.srem o) o 5 fun a b => a - b * Int.tdiv a b
def execSand (o : OpS) (s : State) : Host.Outcome State Fault Refusal := scalar2 s (.sand o) o (· &&& ·)
def execSor (o : OpS) (s : State) : Host.Outcome State Fault Refusal := scalar2 s (.sor o) o (· ||| ·)
def execSxor (o : OpS) (s : State) : Host.Outcome State Fault Refusal := scalar2 s (.sxor o) o (· ^^^ ·)
def execSshl (o : OpS) (s : State) : Host.Outcome State Fault Refusal :=
  scalar2 s (.sshl o) o fun a b => a <<< (b.toNat % 64)
def execSshr (o : OpS) (s : State) : Host.Outcome State Fault Refusal :=
  scalar2 s (.sshr o) o fun a b => a >>> (b.toNat % 64)
def execSsra (o : OpS) (s : State) : Host.Outcome State Fault Refusal :=
  scalar2 s (.ssra o) o fun a b => a.sshiftRight (b.toNat % 64)
def execSmin (o : OpS) (s : State) : Host.Outcome State Fault Refusal :=
  scalar2 s (.smin o) o fun a b => if a.sle b then a else b
def execSmax (o : OpS) (s : State) : Host.Outcome State Fault Refusal :=
  scalar2 s (.smax o) o fun a b => if b.sle a then a else b
def execSminu (o : OpS) (s : State) : Host.Outcome State Fault Refusal :=
  scalar2 s (.sminu o) o fun a b => if a ≤ b then a else b
def execSmaxu (o : OpS) (s : State) : Host.Outcome State Fault Refusal :=
  scalar2 s (.smaxu o) o fun a b => if b ≤ a then a else b

def execSclz (o : OpS) (s : State) : Host.Outcome State Fault Refusal :=
  scalar2 s (.sclz o) o fun a _ => BitVec.ofNat 64 (((List.range 64).takeWhile fun i => !a.getLsbD (63 - i)).length)
def execSpopc (o : OpS) (s : State) : Host.Outcome State Fault Refusal :=
  scalar2 s (.spopc o) o fun a _ => BitVec.ofNat 64 (popcount a.toNat 64)

/-- Position and length of a bit field (R85). -/
def fieldPos (o : OpS) : Nat := o.imm.toNat % 64
def fieldLen (o : OpS) : Nat := o.imm.toNat / 256 % 64 + 1

def execSext (o : OpS) (s : State) : Host.Outcome State Fault Refusal :=
  runScalar s (.sext o) o fun s g =>
    let n := fieldLen o
    let f := (g.getS o.sa.toNat).toNat / 2 ^ fieldPos o % 2 ^ n
    setSd s g o (BitVec.ofInt 64 ((f : Int) - if f.testBit (n - 1) then 2 ^ n else 0))

def execSins (o : OpS) (s : State) : Host.Outcome State Fault Refusal :=
  runScalar s (.sins o) o fun s g =>
    let p := fieldPos o
    let n := fieldLen o
    let d := (g.getS o.sd.toNat).toNat
    setSd s g o (BitVec.ofNat 64 (d - d / 2 ^ p % 2 ^ n * 2 ^ p + (g.getS o.sa.toNat).toNat % 2 ^ n * 2 ^ p))

def execSsel (o : OpS) (s : State) : Host.Outcome State Fault Refusal :=
  runScalar s (.ssel o) o fun s g =>
    setSd s g o (if g.getC (o.imm.toNat % 8) then g.getS o.sa.toNat else g.getS o.sb.toNat)
def execSmov (o : OpS) (s : State) : Host.Outcome State Fault Refusal :=
  runScalar s (.smov o) o fun s g => setSd s g o (g.srcB o)
def execSli (o : OpS) (s : State) : Host.Outcome State Fault Refusal :=
  runScalar s (.sli o) o fun s g => setSd s g o (o.imm.setWidth 64)
def execSlih (o : OpS) (s : State) : Host.Outcome State Fault Refusal :=
  runScalar s (.slih o) o fun s g => setSd s g o (o.imm ++ (g.getS o.sd.toNat).extractLsb' 0 32)

/-- Writes the condition bit that SD names (R87, R88). -/
def setCd (s : State) (g : Group) (o : OpS) (b : Bool) : WordRes :=
  .next s (g.setC o.sd.toNat b) { regs := if o.sd.toNat = 7 then [] else [{ kind := 6, num := o.sd.toNat }] }

def scalarCmp (s : State) (i : Instr) (o : OpS) (r : IRel) : Host.Outcome State Fault Refusal :=
  runScalar s i o fun s g => setCd s g o (r.eval (g.getS o.sa.toNat) (g.srcB o))

def execScmpEq (o : OpS) (s : State) : Host.Outcome State Fault Refusal := scalarCmp s (.scmpEq o) o .eq
def execScmpNe (o : OpS) (s : State) : Host.Outcome State Fault Refusal := scalarCmp s (.scmpNe o) o .ne
def execScmpLt (o : OpS) (s : State) : Host.Outcome State Fault Refusal := scalarCmp s (.scmpLt o) o .lt
def execScmpLe (o : OpS) (s : State) : Host.Outcome State Fault Refusal := scalarCmp s (.scmpLe o) o .le
def execScmpLtu (o : OpS) (s : State) : Host.Outcome State Fault Refusal := scalarCmp s (.scmpLtu o) o .ltu
def execScmpLeu (o : OpS) (s : State) : Host.Outcome State Fault Refusal := scalarCmp s (.scmpLeu o) o .leu

def execCand (o : OpS) (s : State) : Host.Outcome State Fault Refusal :=
  runScalar s (.cand o) o fun s g => setCd s g o (g.getC o.sa.toNat && g.getC o.sb.toNat)
def execCor (o : OpS) (s : State) : Host.Outcome State Fault Refusal :=
  runScalar s (.cor o) o fun s g => setCd s g o (g.getC o.sa.toNat || g.getC o.sb.toNat)
def execCnot (o : OpS) (s : State) : Host.Outcome State Fault Refusal :=
  runScalar s (.cnot o) o fun s g => setCd s g o (!g.getC o.sa.toNat)

-- ## control transfer

def execBra (o : OpS) (s : State) : Host.Outcome State Fault Refusal :=
  runScalar s (.bra o) o fun s g => .done s g (branchTarget g.pc o.imm) {}

/-- `bcc` transfers when its COND bit is 0 (R90). -/
def execBcc (o : OpS) (s : State) : Host.Outcome State Fault Refusal :=
  runWord s (.bcc o) fun s g => if g.getC o.cond.toNat then .next s g else .done s g (branchTarget g.pc o.imm) {}

def execCall (o : OpS) (s : State) : Host.Outcome State Fault Refusal :=
  runScalar s (.call o) o fun s g => .done s (g.setS 63 (g.pc + 8)) (branchTarget g.pc o.imm) { regs := [{ kind := 5, num := 63 }] }

/-- A transfer to a register's value, which must be a multiple of 8 (R91). A jump makes no access, so bits 66:64 of the detail of R303,
log2 of an access size, hold 0 (DESIGN CHOICE, log entry 103). -/
def jump (s : State) (g : Group) (t : Word) : WordRes :=
  if t.extractLsb' 0 3 = 0 then .done s g t {} else .trap (mkTrap 8 2 t.toNat)

def execRet (o : OpS) (s : State) : Host.Outcome State Fault Refusal :=
  runScalar s (.ret o) o fun s g => jump s g (g.getS 63)
def execJr (o : OpS) (s : State) : Host.Outcome State Fault Refusal :=
  runScalar s (.jr o) o fun s g => jump s g (g.getS o.sa.toNat)

def execLoop (o : OpS) (s : State) : Host.Outcome State Fault Refusal :=
  runScalar s (.loop o) o fun s g =>
    let n := g.getS o.sa.toNat
    if n = 0 then .next s g
    else
      let g' := g.setS o.sa.toNat (n - 1)
      .done s g' (if n - 1 = 0 then g.pc + 8 else branchTarget g.pc o.imm) { regs := [{ kind := 5, num := o.sa.toNat }] }

/-- Removes the oldest entry of the return queue; an empty queue traps, since every older `vput` has already
appended (R28, R95). A `vput` that waited for the slot appends, and the words behind it leave the forward queue. -/
def execSpop (o : OpS) (s : State) : Host.Outcome State Fault Refusal :=
  runScalar s (.spop o) o fun s g =>
    match g.rq with
    | [] => .trap (mkTrap 13 16 0)
    | x :: r => setSd s { (if 16 < g.rq.length then g.movedUp else g) with rq := r } o (x.setWidth 64)

end Sys2Proof.Machine
end

