-- ==== Sys2Proof/Machine/SpecialRegs.lean ====
section
/-! DEFINITION. Special registers: every register that R17, R132, R158, R217, R266, R287, R305, R342 and R373 give,
its read and its write (R96 to R100), and the words `srd` and `swr`. -/
namespace Sys2Proof.Machine

/-- Bits of a number as a 64-bit word. -/
def w64 (n : Nat) : Word := BitVec.ofNat 64 n

/-- Registers that programs may write (R17, R158, R217, R305, R342). -/
def srWritable (n : Nat) : Bool :=
  n == 0x010 || n == 0x011 || n == 0x032 || (0x044 ≤ n && n ≤ 0x046) || (0x04C ≤ n && n ≤ 0x04F)
    || n == 0x800 || n == 0x801 || n == 0x814 || (0x816 ≤ n && n ≤ 0x81B) || (0x820 ≤ n && n ≤ 0x83B)

/-- The read is a timing read of the group now (R18, R158, R266, R287). -/
def srTiming (s : State) (g : Group) (n : Nat) : Bool :=
  n == 0x030 || (0x020 ≤ n && n ≤ 0x025) || n == 0x006 || n == 0x02A
    || ((n == 0x02C || n == 0x02D) && ((s.team? g.id.team).map (·.seqr.run)).getD false)

/-- MODE as programs read it (R3, R4). -/
def modeImage (m : BitVec 32) : Word := if m.getLsbD 0 then (m &&& ~~~2).setWidth 64 else m.setWidth 64

/-- MXSTAT (R287). -/
def Sequencer.stat (q : Sequencer) : Word :=
  w64 (q.fcode % 256 * 2 ^ 16 + (q.barw.getD 0) % 16 * 2 ^ 12 + q.barw.isSome.toNat * 2 ^ 11 + q.flight.length % 16 * 2 ^ 7
    + q.flt.toNat * 2 + q.run.toNat)

/-- HSTAT (R305). -/
def TrapState.hstat (t : TrapState) : Word :=
  w64 (t.sdepth.toNat * 2 ^ 9 + t.udepth.toNat * 2 ^ 4 + t.plvl.toNat * 4 + t.lvl.toNat)

/-- The image of a divergence-stack slot (R143): low and high words. -/
def DivEntry.lo (e : DivEntry) : Word := (e.pc &&& ~~~7) ||| w64 e.isPath.toNat
def emptyDiv : DivEntry := { isPath := false, pc := 0, mask := 0 }

/-- The image of a range-lock entry (R274): word `j`. -/
def LockEntry.word (e : LockEntry) (j : Nat) : Word :=
  match j with
  | 0 => w64 (e.quad * 2 ^ 15 + e.slot * 2 ^ 11 + e.tag * 2 ^ 5 + e.nosrc.toNat * 16 + e.dsp.toNat * 8 + e.ssp.toNat * 4
      + e.kind.toNat * 2 + 1)
  | 1 => e.slo
  | 2 => e.shi
  | 3 => e.dlo
  | _ => e.dhi

/-- The lock entry that RLSEL selects. -/
def State.lockSel (s : State) (g : Group) : Option LockEntry :=
  s.locks.find? fun e => e.core == g.id.core && e.idx == g.sel.rl

/-- The physical tile, as a key of the tile maps, that a tile number of the group's quadrant names (R156, R342). -/
def State.tileKey (s : State) (g : Group) (k : Nat) : Option Nat :=
  match s.team? g.id.team with
  | none => none
  | some t => ((nth [] t.tiles g.id.quad)[k]?).map fun p => (g.id.core * 4 + g.id.quad) * 8 + p

/-- Set bits for a list of numbers. -/
def maskOf (l : List Nat) : Nat := l.eraseDups.foldl (fun m i => m + 2 ^ i) 0

/-- Trap registers of one level by their place in the register numbers. -/
def TrapRegs.read (r : TrapRegs) (i : Nat) : Word :=
  match i with
  | 0 => r.cause.setWidth 64
  | 1 => r.det0.setWidth 64
  | 2 => r.det1.setWidth 64
  | 3 => r.det2.setWidth 64
  | 4 => r.pc
  | _ => r.mask.setWidth 64

/-- The value of a special register, but for FQFREE and RQFREE. -/
def State.srGet (s : State) (g : Group) (n : Nat) : Word :=
  let v := s.vf g.id.vf
  let t := s.team? g.id.team
  let c := s.cluster? g.id.cluster
  match n with
  | 0x000 => 32
  | 0x001 => w64 (g.id.grpid % 16)
  | 0x002 => w64 ((t.map (·.num)).getD 0 % 16)
  | 0x003 => w64 ((c.map (·.clustid)).getD 0 % 2 ^ 48)
  | 0x004 => w64 ((c.map Cluster.gridid).getD 0)
  | 0x005 => w64 ((t.map s.lcore).getD 0 % 65536)
  | 0x006 => w64 (g.id.core % 256)
  | 0x007 => w64 ((c.map fun c => (s.nodeWord c.vf c.gslot c.node 8).toNat % 2 ^ 48).getD 0)
  | 0x008 => w64 ((c.map fun c => c.h * 2 ^ 12 + c.w * 2 ^ 8 + (t.map (·.ngroups)).getD 0).getD 0)
  | 0x009 => s.device.devcfg &&& 0x1FFF1FFF
  | 0x010 => g.fflagsImage
  | 0x011 => g.seed
  | 0x022 => w64 g.ldcnt
  | 0x023 => w64 g.stcnt
  | 0x024 => w64 g.cpcnt
  | 0x025 => w64 (s.mxcnt g)
  | 0x026 => g.pidx.setWidth 64
  | 0x027 => g.enacc
  | 0x028 => w64 g.dvDepth
  | 0x029 => (g.mask &&& g.live).setWidth 64
  | 0x02A => g.tagDone
  | 0x02B => g.tagFlt
  | 0x02C => (t.map fun t => t.seqr.mxpc &&& ~~~7).getD 0
  | 0x02D => (t.map fun t => t.seqr.stat).getD 0
  | 0x030 => w64 s.clock
  | 0x031 => g.ltime
  | 0x032 => g.agelim.setWidth 64
  | 0x03F => modeImage (s.modeOf g.id.vf)
  | 0x045 => g.trap.utvec
  | 0x046 => g.trap.usr.read 5
  | 0x047 => g.trap.hstat
  | 0x800 => v.s1root
  | 0x802 => w64 v.tlbi.isSome.toNat
  | 0x815 => v.stvec
  | 0x816 => g.trap.sys.read 5
  | 0x817 => g.trap.utdeleg
  | 0x827 => w64 (g.regs.k1.toNat * 65536 + g.regs.k0.toNat)
  | 0x828 => w64 g.sel.dv
  | 0x829 => (nth emptyDiv g.dv g.sel.dv).lo
  | 0x82A => (nth emptyDiv g.dv g.sel.dv).mask.setWidth 64
  | 0x82B => w64 g.dvDepth
  | 0x82C => w64 g.sel.bar
  | 0x82D => (t.map fun t => (nth 0 t.arrive g.sel.bar).setWidth 64).getD 0
  | 0x82E => w64 g.sel.fmt
  | 0x82F => (t.map fun t => (nth 0 t.table g.sel.fmt).setWidth 64).getD 0
  | 0x830 => w64 (maskOf ((g.fmtPend.map (·.1)).filter (· < 8)))
  | 0x831 => w64 g.sel.rl
  | 0x837 => g.tagDone
  | 0x838 => g.ltime
  | 0x839 => w64 g.sel.acc
  | 0x83A => ((s.tileKey g g.sel.acc).map fun k => (Sparse.get 0 s.tileSteps k).setWidth 64).getD 0
  | 0x83B => g.enacc
  | n =>
    if 0x040 ≤ n ∧ n ≤ 0x044 then g.trap.usr.read (n - 0x040)
    else if 0x048 ≤ n ∧ n ≤ 0x04B then nth 0 g.trap.tdec (n - 0x048)
    else if 0x04C ≤ n ∧ n ≤ 0x04F then nth 0 g.trap.usr.scr (n - 0x04C)
    else if 0x810 ≤ n ∧ n ≤ 0x814 then g.trap.sys.read (n - 0x810)
    else if 0x818 ≤ n ∧ n ≤ 0x81B then nth 0 g.trap.sys.scr (n - 0x818)
    else if 0x820 ≤ n ∧ n ≤ 0x826 then (g.getP (n - 0x820)).setWidth 64
    else if 0x832 ≤ n ∧ n ≤ 0x836 then ((s.lockSel g).map fun e => e.word (n - 0x832)).getD 0
    else 0

/-- A read of any special register. FQFREE and RQFREE lie anywhere within what the queues can hold at that clock (R99). -/
def State.srRead (s : State) (g : Group) (n : Nat) : Word × State :=
  if n = 0x020 then
    let (k, s1) := s.free
    let held := min 32 g.fqUsed
    (w64 (32 - held - k % (min (32 - held) g.fqSince + 1)), s1)
  else if n = 0x021 then
    let (k, s1) := s.free
    (w64 (16 - k % (min 16 g.rq.length + 1)), s1)
  else (s.srGet g n, s)

/-- Writes of the RW bits of the trap registers of one level. -/
def TrapRegs.setPc (r : TrapRegs) (w : Word) : TrapRegs := { r with pc := w &&& ~~~7 }
def TrapRegs.setMask (r : TrapRegs) (w : Word) : TrapRegs := { r with mask := w.setWidth 32 }
def TrapRegs.setScr (r : TrapRegs) (i : Nat) (w : Word) : TrapRegs := { r with scr := putNth r.scr i w }

/-- A write of RLENT0 commits the selected entry (R342). A stash bound is one of the group's core. -/
def State.commitLock (s : State) (g : Group) : State :=
  let im (j : Nat) : Word := nth 0 g.sel.image j
  let w := im 0
  let rest := s.locks.filter fun e => !(e.core == g.id.core && e.idx == g.sel.rl)
  { s with locks := if !w.getLsbD 0 then rest else rest ++ [{
      core := g.id.core, idx := g.sel.rl, vf := g.id.vf, slo := im 1, shi := im 2, dlo := im 3, dhi := im 4
      quad := wfield w 15 2, slot := wfield w 11 4, tag := wfield w 5 6, nosrc := w.getLsbD 4, dsp := w.getLsbD 3
      ssp := w.getLsbD 2, dcore := g.id.core, score := g.id.core, kind := w.getLsbD 1 }] }

/-- The bits UTDELEG can hold (R305). -/
def delegMask : Word := 0x8E138

/-- A write of BARST sets the arrival state of a barrier (R342): the sequencer waits at it or not, and a waiting group whose bit is
cleared issues its barrier again; a bit that is set counts as an arrival and stops no group that runs (log entry 115). -/
def State.putArrivals (s : State) (t : Team) (n : Nat) (w : BitVec 17) : State :=
  let q := t.seqr
  let barw := if q.run ∧ n < 16 ∧ w.getLsbD 16 then some n else if q.barw = some n then none else q.barw
  { s.setTeam { t with arrive := putNth t.arrive n w, seqr := { q with barw } } with
    groups := s.groups.map fun (h : Group) =>
      if h.id.team = t.key ∧ h.wait = .bar n ∧ !w.getLsbD h.id.tidx then { h with wait := .run } else h }

/-- A permitted write (R98): the register's RW bits. -/
def State.srPut (s : State) (g : Group) (n : Nat) (w : Word) : State × Group :=
  let tr (f : TrapState → TrapState) : State × Group := (s, { g with trap := f g.trap })
  let sel (f : CtxSel → CtxSel) : State × Group := (s, { g with sel := f g.sel })
  let team (f : Team → Team) : State × Group := ((s.team? g.id.team).elim s fun t => s.setTeam (f t), g)
  match n with
  | 0x010 => (s, g.writeFflags w)
  | 0x011 => (s, { g with seed := w })
  | 0x032 => (s, { g with agelim := BitVec.ofNat 16 (max 64 (w.toNat % 65536)) })
  | 0x044 => tr fun t => { t with usr := t.usr.setPc w }
  | 0x045 => tr fun t => { t with utvec := w &&& ~~~6 }
  | 0x046 => tr fun t => { t with usr := t.usr.setMask w }
  | 0x800 => (s.setVf { s.vf g.id.vf with s1root := w &&& 0x000FFFFFFFFF0001 }, g)
  | 0x801 => (s.setVf { s.vf g.id.vf with tlbi := some (w &&& ~~~0xFFFE) }, g)
  | 0x814 => tr fun t => { t with sys := t.sys.setPc w }
  | 0x816 => tr fun t => { t with sys := t.sys.setMask w }
  | 0x817 => tr fun t => { t with utdeleg := w &&& delegMask }
  | 0x827 => (s, (g.setK 0 (w.setWidth 16)).setK 1 (w.extractLsb' 16 16))
  | 0x828 => sel fun c => { c with dv := w.toNat % 16 }
  | 0x829 => (s, { g with dv := putNth g.dv g.sel.dv { nth emptyDiv g.dv g.sel.dv with pc := w &&& ~~~7, isPath := w.getLsbD 0 } })
  | 0x82A => (s, { g with dv := putNth g.dv g.sel.dv { nth emptyDiv g.dv g.sel.dv with mask := w.setWidth 32 } })
  | 0x82B => (s, { g with dvDepth := min 16 (w.toNat % 32) })
  | 0x82C => sel fun c => { c with bar := w.toNat % 32 % 18 }
  | 0x82D => ((s.team? g.id.team).elim s fun t => s.putArrivals t g.sel.bar (w.setWidth 17), g)
  | 0x82E => sel fun c => { c with fmt := w.toNat % 8 }
  | 0x82F => team fun t => { t with table := putNth t.table g.sel.fmt (w.setWidth 32 &&& ~~~63) }
  | 0x830 => (s, { g with fmtPend := (bitsOf w.toNat 8).map fun i => (i, nth 0 g.view i) })
  | 0x831 => sel fun c => { c with rl := w.toNat % 128 % 72 }
  | 0x832 =>
    let g1 := { g with sel := { g.sel with image := putNth g.sel.image 0 w } }
    (s.commitLock g1, g1)
  | 0x837 => (s, { g with tagDone := g.tagDone ||| (w &&& ~~~(g.tagBusy ||| g.tagDone)) })
  | 0x838 => (s, { g with ltime := w })
  | 0x839 => sel fun c => { c with acc := w.toNat % 8 }
  | 0x83A => (match s.tileKey g g.sel.acc with
      | some k => { s with tileSteps := Sparse.set 0 s.tileSteps k (w.setWidth 32) }
      | none => s, g)
  | 0x83B => (s, { g with enacc := w })
  | n =>
    if 0x04C ≤ n ∧ n ≤ 0x04F then tr fun t => { t with usr := t.usr.setScr (n - 0x04C) w }
    else if 0x818 ≤ n ∧ n ≤ 0x81B then tr fun t => { t with sys := t.sys.setScr (n - 0x818) w }
    else if 0x820 ≤ n ∧ n ≤ 0x826 then (s, g.setP (n - 0x820) (w.setWidth 32))
    else if 0x833 ≤ n ∧ n ≤ 0x836 then sel fun c => { c with image := putNth c.image (n - 0x832) w }
    else (s, g)

/-- Words held until every older vector word has retired (R99): the forward queue is then known to be empty. -/
def afterVector (g : Group) (r : WordRes) : WordRes :=
  if g.fqHeld.isEmpty then
    match r with
    | .done s g pc w => .done s { g with fqSince := 0 } pc w
    | .hold _ _ | .stall | .trap _ | .trapG _ _ | .trapS _ _ _ => r
  else .stall

/-- `srd` (R96 to R100): a timing read is refused with DET = 1 and RAWCLK = 0; a permitted one is logged (R388). -/
def execSrd (o : OpS) (s : State) : Host.Outcome State Fault Refusal :=
  runScalar s (.srd o) o fun s g =>
    let n := o.imm.toNat % 4096
    let timing := srTiming s g n
    let loose := n == 0x020 || n == 0x021 || n == 0x030
    if 0x800 ≤ n ∧ g.trap.lvl ≠ 2 then .trap (mkTrap 7 16 n)
    else if timing ∧ s.timingRefused g.id.vf then .trap (mkTrap 16 1 n)
    else
      let run : WordRes :=
        let (v, s1) := s.srRead g n
        if timing ∨ (n = 0x005 ∧ !s.det g.id.vf) then
          let (v, s2) := s1.timed g n v
          settled g (setSd s2 g o v)
        else setSd s1 g o v
      if loose then run else afterVector g run

/-- `swr` (R97, R98). A write of TLBI1 waits while the VF's last one is pending (R217). -/
def execSwr (o : OpS) (s : State) : Host.Outcome State Fault Refusal :=
  runScalar s (.swr o) o fun s g =>
    let n := o.imm.toNat % 4096
    if 0x800 ≤ n ∧ g.trap.lvl ≠ 2 then .trap (mkTrap 7 16 n)
    else if !srWritable n then .trap (mkTrap 7 17 n)
    else afterVector g <| settled g <|
      if n = 0x801 ∧ (s.vf g.id.vf).tlbi.isSome then .stall
      else
        let (s1, g1) := s.srPut g n (g.getS o.sa.toNat)
        .next s1 g1 { regs := if 0x820 ≤ n ∧ n ≤ 0x826 then [{ kind := 3, num := n - 0x820 }]
                              else if n = 0x827 then [{ kind := 4, num := 0 }, { kind := 4, num := 1 }] else [] }

end Sys2Proof.Machine
end

