-- ==== Sys2Proof/Machine/Groups.lean ====
section
/-! DEFINITION. Barriers (R191 to R194) and reform (R176, R177, R188 to R190): the words, and the events that complete
a barrier, draw a bin and draw a reform. A slot whose group has ended and drained is vacant for its team (R149). -/
namespace Sys2Proof.Machine

-- ## vacated slots

/-- A declared matrix group of its team (R156). -/
def Team.isMatrix (t : Team) (grpid : Nat) : Bool := t.mx.contains grpid

/-- The group has ended and everything it issued is complete; a matrix group stays while its stream runs (R149, R286). -/
def State.isDone (s : State) (g : Group) : Bool :=
  g.wait == .ended && g.ops.isEmpty && g.tagBusy == 0 &&
    (match s.team? g.id.team with
     | some t => !(t.seqr.run && t.isMatrix g.id.grpid)
     | none => true)

/-- A group that is done leaves its slot: tags and their locks are released unobserved, its energy and digests go to its
team, and its slot is vacant (R149, R189, R265). -/
def State.reapOne (s : State) (g : Group) : State :=
  let s1 := (s.flushDig g).bankEnergy g
  let s2 := { s1 with locks := s1.locks.filter fun e => !(e.core == g.id.core && !e.kind && e.quad == g.id.quad && e.slot == g.id.slot) }
  let s3 := match s2.team? g.id.team with
    | some t => s2.setTeam { t with vacant := t.vacant ++ [(g.id.quad, g.id.slot, g.id.tidx, g.id.rowOff)] }
    | none => s2
  s3.dropGroup g.id.key

def State.reap (s : State) : State := (s.groups.filter s.isDone).foldl State.reapOne s

-- ## barriers

/-- The waiting group's barrier word retires. -/
def State.passBar (s : State) (g : Group) : State :=
  s.retire { g with wait := .run } (.barC { pred := 7, fmt := 0, d := 0, a := 0, ap := 0, b := 0, bp := 0, rnd := 0, sat := 0, xf := 0, ha := 0, hb := 0 })
    (g.pc + 8) {}

/-- Trace of an arrival or a completion (R424). -/
def State.traceBar (s : State) (g : Group) (type n : Nat) : State :=
  s.tracePacket g.id.vf type [w64 n, s.srGet g 0x003, s.srGet g 0x002, s.srGet g 0x001]
where w64 (n : Nat) : Word := BitVec.ofNat 64 n

/-- A group arrives at a barrier once its accesses have performed (R192, R194, R229). -/
def arrive (s : State) (g : Group) (n : Nat) : WordRes :=
  if g.mask &&& g.live ≠ g.live then .trap (mkTrap 13 1 n)
  else if !g.ops.isEmpty ∨ !g.fqHeld.isEmpty then .stall
  else consuming s g <|
    match s.team? g.id.team with
    | none => .hold s { g with wait := .bar n }
    | some t =>
      let s1 := s.setTeam { t with arrive := putNth t.arrive n (nth 0 t.arrive n ||| (1#17 <<< g.id.tidx)) }
      .hold (s1.traceBar g 5 n) { g with wait := .bar n }

def execBarT (o : OpA) (s : State) : Host.Outcome State Fault Refusal := runWord s (.barT o) fun s g => arrive s g o.d.toNat
def execBarC (o : OpA) (s : State) : Host.Outcome State Fault Refusal := runWord s (.barC o) fun s g => arrive s g 16

/-- COOP of the kernel of a group (R161). -/
def State.coop (s : State) (g : Group) : Bool :=
  match s.cluster? g.id.cluster with
  | some c => (s.nodeWord c.vf c.gslot c.node 0).getLsbD 8
  | none => false

/-- `bar.g` in a grid that is not cooperative traps (R194). -/
def execBarG (o : OpA) (s : State) : Host.Outcome State Fault Refusal :=
  runWord s (.barG o) fun s g =>
    if g.mask &&& g.live = g.live ∧ !s.coop g then .trap (mkTrap 13 2 0) else arrive s g 17

/-- Every live thread of the team waits at barrier `n`; threads in bins and sets have not arrived (R192, R193). -/
def State.teamAt (s : State) (t : Team) (n : Nat) : Bool :=
  ((s.teamGroups t.key).all fun g => g.live == 0 || (nth 0 t.arrive n).getLsbD g.id.tidx)
    && t.filed.isEmpty && t.drawn.isEmpty && !s.bins.any fun b => b.team == t.key

/-- A participant has arrived there. -/
def State.someAt (s : State) (t : Team) (n : Nat) : Bool := (s.teamGroups t.key).any fun g => g.live != 0 && (nth 0 t.arrive n).getLsbD g.id.tidx

/-- Groups of a team in the order of R50: number within the team, then lowest live lane. -/
def insertGroup (g : Group) : List Group → List Group
  | [] => [g]
  | h :: r =>
    let low (x : Group) : Nat := ((lanesOf x.live).head?).getD 32
    if g.id.grpid < h.id.grpid ∨ (g.id.grpid = h.id.grpid ∧ low g < low h) then g :: h :: r else h :: insertGroup g r
def sortGroups (l : List Group) : List Group := l.foldl (fun a g => insertGroup g a) []

/-- Pending writes applied to a table (R50). -/
def applyFmt (table : List (BitVec 32)) (l : List (Nat × BitVec 32)) : List (BitVec 32) :=
  l.foldl (fun t (n, w) => putNth t n w) table

/-- Completion of team barrier `n`: pending format writes, views, counts, release (R50, R193, R237, R293). -/
def State.completeTeam (s : State) (t : Team) (n : Nat) : State :=
  let pass := sortGroups ((s.teamGroups t.key).filter fun g => g.wait == .bar n)
  let q := t.seqr
  let seqIn : Bool := q.run && q.barw == some n
  let table := applyFmt (pass.foldl (fun tb g => applyFmt tb g.fmtPend) t.table) (if seqIn then q.pend else [])
  let s1 := pass.foldl (fun s g =>
    (s.passBar { g with view := table, fmtPend := [], counts := { g.counts with tb := g.counts.tb + 1 } }).traceBar g 6 n) s
  match s1.team? t.key with
  | none => s1
  | some t1 =>
    let own := (s1.group? q.owner).map (·.counts)
    let q1 := if seqIn then { q with view := table, pend := [], barw := none, mxpc := q.mxpc, counts :=
        { tb := q.counts.tb + 1, cb := (own.map (·.cb)).getD q.counts.cb, gb := (own.map (·.gb)).getD q.counts.gb, rf := q.counts.rf } } else q
    s1.setTeam { t1 with table, arrive := putNth t1.arrive n 0, seqr := q1 }

/-- Completion of a barrier of several teams (16 `bar.c`, 17 `bar.g`). -/
def State.completeWide (s : State) (teams : List Team) (n : Nat) : State :=
  teams.foldl (fun s t =>
    let s1 := ((s.teamGroups t.key).filter fun g => g.wait == .bar n).foldl (fun s g =>
      (s.passBar { g with counts := if n = 16 then { g.counts with cb := g.counts.cb + 1 } else { g.counts with gb := g.counts.gb + 1 } }).traceBar g 6 n) s
    match s1.team? t.key with
    | some t1 => s1.setTeam { t1 with arrive := putNth t1.arrive n 0 }
    | none => s1) s

/-- BARRIER_COMPLETE (R193): nothing happens while the barrier still waits for someone. With DET = 1 a grid barrier
folds what the grid has staged (R236), and its clusters may resume or be placed again (R173, CLUSTER_RESTORE). -/
def execBarrierComplete (b : BarRef) (s : State) : Host.Outcome State Fault Refusal :=
  match b with
  | .team k n => match s.team? k with
    | none => .next s
    | some t =>
      let seqWaits : Bool := t.seqr.run && t.seqr.barw == some n
      if n < 16 && s.teamAt t n && (s.someAt t n || seqWaits) && (!t.seqr.run || seqWaits) then .next (s.completeTeam t n) else .next s
  | .cluster k =>
    let ts := s.clusterTeams k
    if (ts.all fun t => s.teamAt t 16) && (ts.any fun t => s.someAt t 16) then .next (s.completeWide ts 16) else .next s
  | .grid vf slot node =>
    let cs := s.clusters.filter fun c => c.vf == vf && c.gslot == slot && c.node == node
    let ts := cs.flatMap fun c => s.clusterTeams c.key
    let retired := match (s.vf vf).slots.find? fun e => e.1 == slot with
      | some (_, sl) => match sl.running with
        | some l => ((l.nodes.find? fun r => r.idx == node).map (·.retired)).getD 0
        | none => 0
      | none => 0
    let all : Bool := match cs with | c :: _ => decide (s.gridSize c ≤ cs.length + retired) | [] => false
    if all && (ts.all fun t => s.teamAt t 17) && (ts.any fun t => s.someAt t 17) then
      match s.foldOrdered vf fun x => x.vf == vf && x.gslot == slot && x.node == node with
      | .error s1 => .next s1
      | .ok s1 =>
        let s2 := s1.completeWide ts 17
        .next { s2 with clusters := s2.clusters.map fun c => if c.vf = vf ∧ c.gslot = slot ∧ c.node = node then { c with atGrid := false } else c }
    else .next s

-- ## reform

/-- Bins of a quadrant (R176). -/
def State.quadBins (s : State) (core quad : Nat) : List Bin := s.bins.filter fun b => b.core == core && b.quad == quad

def State.setBin (s : State) (b : Bin) : State := { s with bins := s.bins.map fun c => if c.id = b.id then b else c }

/-- The checks of R190 in order. -/
def reformTrap (s : State) (g : Group) : Option TrapReq :=
  match (List.range 64).find? fun n => g.getZ n != zDefault with
  | some n => some (mkTrap 15 1 n)
  | none =>
    if ((s.team? g.id.team).map fun t => t.isMatrix g.id.grpid).getD false then some (mkTrap 15 2 g.id.quad)
    else match (List.range 8).find? fun n => g.fmtPend.any fun p => p.1 == n with
      | some n => some (mkTrap 15 3 n)
      | none => none

/-- A register of a drawn group: each lane's thread brings its own rows (R189). -/
def gather1 (fs : List Filed) (get : Group → Sparse Lane) (rows : Nat) : Sparse Lane :=
  fs.foldl (fun m f => (List.range rows).foldl (fun m n =>
    Sparse.set 0 m (32 * n + f.lane) (Sparse.get 0 (get f.donor) (32 * n + f.lane))) m) []

/-- The new group of some threads in a vacant slot of their team (R176, R177, R189). -/
def State.draw (s : State) (t : Team) (v : Nat × Nat × Nat × Nat) (key : Word) (fs : List Filed) : State :=
  let low := fs.foldl (fun (b : Option Filed) f => match b with | none => some f | some x => if f.lane < x.lane then some f else b) none
  match low with
  | none => s
  | some d =>
    let don := d.donor
    let live := laneMask fun l => fs.any fun f => f.lane == l
    let preg (n : Nat) : Lane := laneMask fun l => fs.any fun f => f.lane == l && (f.donor.getP n).getLsbD l
    let g : Group := { don with
      id := { don.id with key := s.nextKey, tidx := v.2.2.1, grpid := d.origin, core := t.core, quad := v.1, slot := v.2.1, rowOff := v.2.2.2
                          age := s.clock, passed := 0 }
      live, mask := live, origin := fs.foldl (fun m f => Sparse.set 0 m f.lane f.origin) []
      regs := { don.regs with v := gather1 fs (fun g => g.regs.v) don.id.claim, x := gather1 fs (fun g => g.regs.x) 8, z := []
                              p := (List.range 7).foldl (fun m n => Sparse.set 0 m n (preg n)) [] }
      pc := key, dv := List.replicate 16 emptyDiv, dvDepth := 0, fflags := unionFlags (fs.map fun f => f.donor.fflags)
      enacc := 0, enBanked := 0, pidx := 0, pidxPc := 0, fmtPend := [], tagBusy := 0, tagDone := 0, tagFlt := 0, latchA := none, latchB := none
      rq := [], fqHeld := [], fqSince := 0, wait := .run, ops := [], failed := [], dig := []
      mxSeen := fs.foldl (fun n f => max n f.donor.mxSeen) 0
      trap := { don.trap with usr := { don.trap.usr with mask := 0 }, sys := { don.trap.sys with mask := 0 }, entry := none, async := [] } }
    let s1 := { s with nextKey := s.nextKey + 1, groups := s.groups ++ [g] }
    let sig := { t.sig with starts := if t.sig.starts.any (fun e => e.1 == v.2.2.1) then t.sig.starts else putKey t.sig.starts v.2.2.1 don.ltime
                            rdig := t.sig.rdig.filter (fun e => e.1 != v.2.2.1), mdig := t.sig.mdig.filter fun e => e.1 != v.2.2.1 }
    let s2 := s1.setTeam { t with vacant := t.vacant.erase v, sig }
    let gof (l : Nat) : Nat := ((fs.find? fun f => f.lane == l).map (·.origin)).getD 0
    let pairW (a : Nat) : Word := BitVec.ofNat 64 ((List.range 16).foldl (fun n i => n + gof (a + i) * 16 ^ i) 0)
    if s.det don.id.vf ∨ s.log don.id.vf = 2 then s2 else s2.note g 5 live [key, pairW 0, pairW 16]

/-- The lowest vacant slot of a team on a quadrant, by order of vacating. -/
def Team.slotOn (t : Team) (quad : Nat) : Option (Nat × Nat × Nat × Nat) := t.vacant.find? fun v => v.1 == quad

/-- A bin is ready to be drawn: marked, full, or its oldest thread has waited AGELIM (R176). -/
def State.binReady (s : State) (b : Bin) : Bool :=
  b.ready || (match b.threads with
    | f :: _ => decide (f.time + f.donor.agelim.toNat ≤ s.clock)
    | [] => false)

/-- A thread is one of a logged draw: its lane is live there, and its origin group is the one logged for that lane (R396). -/
def drawnBy (e : LogEvent) (f : Filed) : Bool :=
  e.a.getLsbD f.lane && f.origin == wfield (nth 0 e.more (1 + f.lane / 16)) (4 * (f.lane % 16)) 4

/-- In REPLAY, a bin holds every thread of a logged draw, under its key (R406). -/
def matchesRfm (b : Bin) (e : LogEvent) : Bool :=
  nth 0 e.more 0 == b.key && (lanesOf e.a).all (fun l => b.threads.any fun f => f.lane == l && drawnBy e f)

/-- Draws the oldest ready bin of a team on a quadrant into a vacant slot, where there are both (R176). -/
def State.drawOldest (s : State) (team core quad : Nat) : State :=
  match s.bins.find? fun b => b.core == core && b.quad == quad && b.team == team && s.binReady b, s.team? team with
  | some b, some t => match t.slotOn quad with
    | some v => { s with bins := s.bins.filter fun c => c.id != b.id }.draw t v b.key b.threads
    | none => s
  | _, _ => s

/-- Files one thread with DET = 0, into the bin of its team and key or a free one (R176). A bin in which its home lane is taken is
drawn as it stands: at once when its turn and a vacant slot allow, else it is ready and takes no more threads. `false` when there is
no bin for the thread. In REPLAY the bins play no part, and what waits for a logged draw is kept under one key (R406). -/
def State.fileFree (s : State) (i : Ident) (f : Filed) : State × Bool :=
  let replays : Bool := s.log i.vf == 2
  let mine (b : Bin) : Bool := b.core == i.core && b.quad == i.quad && b.team == i.team && b.key == f.pc && !b.ready
  let s := match s.bins.find? mine with
    | some b => if !replays ∧ b.threads.any (fun x => x.lane == f.lane) then
        (List.range 8).foldl (fun (s : State) _ => if s.bins.any fun c => c.id == b.id then s.drawOldest i.team i.core i.quad else s) (s.setBin { b with ready := true })
      else s
    | none => s
  match s.bins.find? mine with
  | some b => (s.setBin { b with threads := b.threads ++ [f], ready := !replays && decide (32 ≤ b.threads.length + 1) }, true)
  | none =>
    if replays ∨ (s.quadBins i.core i.quad).length < 8 then
      ({ s with nextKey := s.nextKey + 1
                bins := s.bins ++ [{ id := s.nextKey, core := i.core, quad := i.quad, team := i.team, key := f.pc, ready := false, threads := [f] }] }, true)
    else (s, false)

/-- Files the threads of an arriving group in ascending lane order; those that find no bin form a group at once without one (R176). -/
def State.fileAll (s : State) (i : Ident) (fs : List Filed) : State :=
  let (s1, out) := fs.foldl (fun (s, out) f => match s.fileFree i f with
    | (s, true) => (s, out)
    | (s, false) => (s, out ++ [f])) (s, ([] : List Filed))
  match out, s1.team? i.team with
  | f :: _, some t => s1.setTeam { t with drawn := t.drawn ++ [{ quad := i.quad, key := f.pc, threads := out }] }
  | _, _ => s1

/-- `reform` files the threads of M under the address of the following word (R188). -/
def execReform (o : OpI) (s : State) : Host.Outcome State Fault Refusal :=
  runWord s (.reform o) fun s g => vectorSide g <|
    match reformTrap s g with
    | some t => .trap t
    | none =>
      if !g.ops.isEmpty ∨ g.tagBusy ≠ 0 then .stall
      else observing s g (List.range 64) fun s g => consuming s g <|
        let m := g.mask &&& g.live
        let g' := { g.without m with live := g.live &&& ~~~m }
        match unwind g'.stack with
        | .stuck => .trap (mkTrap 14 3 g.dvDepth)
        | u =>
          let s := if m = 0 then s else s.bankEnergy g
          let g' := if m = 0 then g' else { g' with enBanked := g.enacc }
          let donor := { g with ltime := g.ltime + 1, ops := [], dig := [], latchA := none, latchB := none, failed := [] }
          let fs : List Filed := (lanesOf m).map fun l =>
            { lane := l, origin := g.origin.get 0 l, pc := g.pc + 8, set := o.imm.toNat % 16, quad := g.id.quad, time := s.clock, donor }
          let s1 := if s.det g.id.vf then
              (match s.team? g.id.team with
               | some t => s.setTeam { t with filed := t.filed ++ fs }
               | none => s)
            else s.fileAll g.id fs
          match u with
          | .goTo mk pc n => .done s1 { g' with mask := mk, dvDepth := n, latchA := none, latchB := none } pc {}
          | .empty | .stuck => .next s1 { g' with wait := .ended, mask := 0, dvDepth := 0 }

/-- BIN_DRAW: a ready bin is drawn into a vacant slot of its team, the oldest ready bin of the team first (R176). In
REPLAY the logged composition is drawn, whatever the bin's age. -/
def execBinDraw (bin : Nat) (s : State) : Host.Outcome State Fault Refusal :=
  let s := s.reap
  match s.bins.find? fun b => b.id == bin with
  | none => .next s
  | some b => match s.team? b.team with
    | none => .next s
    | some t =>
      let older := s.bins.takeWhile fun c => c.id != b.id
      let waits : Bool := older.any fun c => c.team == b.team && c.quad == b.quad && s.binReady c
      match t.slotOn b.quad with
      | none => .next s
      | some v =>
        let vf := (b.threads.head?.map fun f => f.donor.id.vf).getD 0
        if s.log vf = 2 then
          match (t.sig.events.filter fun e => e.code == 5 && matchesRfm b e).findSome? fun e =>
              (t.vacant.find? fun v => v.1 == b.quad && v.2.2.1 == e.grp).map fun v => (e, v) with
          | none => .next s
          | some (e, v) =>
            let (now, rest) := b.threads.partition (drawnBy e)
            let s1 := if rest.isEmpty then { s with bins := s.bins.filter fun c => c.id != b.id } else s.setBin { b with threads := rest, ready := false }
            .next ((s1.draw t v b.key now).meetEvent (.team t.key e.grp) e)
        else if s.binReady b && !waits then
          .next ({ s with bins := s.bins.filter fun c => c.id != b.id }.draw t v b.key b.threads)
        else .next s

/-- Threads in the order of R177: key, origin group, home lane. -/
def insertFiled (f : Filed) : List Filed → List Filed
  | [] => [f]
  | g :: r =>
    let k (x : Filed) : Nat := x.pc.toNat * 4096 + x.origin * 64 + x.lane
    if k f < k g then f :: g :: r else g :: insertFiled f r

/-- Each thread goes into the earliest new group of its key whose lane is free (R177). -/
def compose (quad : Nat) (l : List Filed) : List Drawn :=
  (l.foldl (fun a f => insertFiled f a) []).foldl (fun ds f =>
    match ds.findIdx? fun d => d.key == f.pc && !d.threads.any fun x => x.lane == f.lane with
    | some i => ds.zipIdx.map fun (d, j) => if j = i then { d with threads := d.threads ++ [f] } else d
    | none => ds ++ [{ quad, key := f.pc, threads := [f] }]) []

/-- REFORM_DRAW: with DET = 1 a set is composed once every live thread of the team on the quadrant has arrived at it; new
groups are then drawn in creation order (R177). A group formed without a bin (R176) is drawn the same way. -/
def execReformDraw (team quad : Nat) (s : State) : Host.Outcome State Fault Refusal :=
  let s := s.reap
  match s.team? team with
  | none => .next s
  | some t =>
    let here := t.filed.filter fun f => f.quad == quad
    let free : Bool := (s.teamGroups team).all fun g => g.id.quad != quad || g.live == 0
    let one : Bool := match here with | f :: r => r.all fun x => x.set == f.set | [] => false
    let (s, t) := if free && one && (t.drawn.all fun d => d.quad != quad) then
        let t1 := { t with filed := t.filed.filter fun f => f.quad != quad
                           drawn := t.drawn ++ (compose quad here).map fun d => { d with threads := d.threads.map fun f =>
                             { f with donor := { f.donor with counts := { f.donor.counts with rf := f.donor.counts.rf + 1 } } } } }
        (s.setTeam t1, t1)
      else (s, t)
    match t.drawn.find? fun d => d.quad == quad, t.slotOn quad with
    | some d, some v =>
      let t1 := { t with drawn := t.drawn.erase d }
      .next ((s.setTeam t1).draw t1 v d.key d.threads)
    | _, _ => .next s

/-- The group's arrival at a barrier is withdrawn, and it is at the barrier's word again (R295, R418). -/
def State.withdraw (s : State) (g : Group) : State × Group :=
  match g.wait with
  | .bar n =>
    let s1 := match s.team? g.id.team with
      | some t => s.setTeam { t with arrive := putNth t.arrive n (nth 0 t.arrive n &&& ~~~(1#17 <<< g.id.tidx)) }
      | none => s
    (s1, { g with wait := .run })
  | .run | .fault _ _ | .debug _ | .stopped | .ended => (s, g)

end Sys2Proof.Machine
end

