-- ==== Sys2Proof/Machine/Matrix.lean ====
section
/-! DEFINITION. The matrix engine (R281 to R300): the 40-bit format (R55) and one step of a dot product (R54), A in the
stash and B in registers (R282, R283), tiles and their group-side words (R296 to R298), `mxgo`, the stream words, and the
events that fetch a stream word, complete a step, and stop a stream at a fault. -/
namespace Sys2Proof.Machine
open Sys2Proof.Fmt

-- ## values of a tile (R54, R55, R284)

/-- The value a tile holds: the 40-bit format of R55. -/
def wideVal (w : BitVec 40) : Val :=
  let neg := w.getLsbD 39
  let ex := (w.extractLsb' 31 8).toNat
  let m := (w.extractLsb' 0 31).toNat
  if ex = 255 then (if m = 0 then .inf neg else .nan)
  else if ex = 0 then .fin neg m (-157) else .fin neg (2 ^ 31 + m) ((ex : Int) - 158)

/-- A binary32 value as a tile holds it. -/
def tileOf (b : BitVec 32) : BitVec 40 := b ++ 0#8

/-- Rounding to the 40-bit format in `.rne` (R55). -/
def roundWide (v : Val) : BitVec 40 :=
  match v with
  | .nan => tileOf 0x7FC00000
  | .inf neg => tileOf (if neg then 0xFF800000 else 0x7F800000)
  | .fin neg m e =>
    let sign : Nat := if neg then 2 ^ 39 else 0
    if m = 0 then BitVec.ofNat 40 sign
    else
      let q : Int := max (log2 m e - 31) (-157)
      let (n, _) := roundMag neg m e q .rne
      if log2 n q ≥ 128 then tileOf (if neg then 0xFF800000 else 0x7F800000)
      else if n < 2 ^ 31 then BitVec.ofNat 40 (sign + n)
      else
        let l := log2 n q
        BitVec.ofNat 40 (sign + (l + 127).toNat * 2 ^ 31 + (shl n (q - (l - 31)) - 2 ^ 31))

/-- Rounding to binary32 in `.rne`. -/
def roundNarrow (v : Val) : BitVec 32 := BitVec.ofNat 32 (Fmt.encode binary32 v .rne false).1

/-- A value as it leaves a tile: binary32 (R294). -/
def tileOut (w : BitVec 40) : BitVec 32 := roundNarrow (wideVal w)

/-- The rounding of a retirement or a spill (R294): each WIDE value to binary32; under NARROW nothing changes. -/
def tileRound (wide : Bool) (w : BitVec 40) : BitVec 40 := if wide then tileOf (tileOut w) else w

/-- What `acc.rd` delivers of a value (R297): a WIDE one rounded, else its bits. -/
def tileRead (wide : Bool) (w : BitVec 40) : BitVec 32 := if wide then tileOut w else w.extractLsb' 8 32

/-- One iteration of R54: the incoming value and the products of one group of k. -/
def dotStep (wide : Bool) (acc : BitVec 40) (ps : List Val) : BitVec 40 :=
  let ts := wideVal acc :: ps
  let isInf (n : Bool) : Bool := ts.any (· == .inf n)
  if ts.any (· == .nan) || (isInf true && isInf false) then tileOf 0x7FC00000
  else if isInf true then tileOf 0xFF800000
  else if isInf false then tileOf 0x7F800000
  else match maxMagExp ts with
    | none =>
      let allNeg : Bool := ts.all fun t => match t with | .fin n _ _ => n | .nan | .inf _ => false
      if allNeg then tileOf 0x80000000 else 0
    | some l =>
      let q := l - 40
      let sum : Int := ts.foldl (fun (x : Int) t => match t with
        | .fin n m e => if n then x - (shl m (e - q) : Nat) else x + (shl m (e - q) : Nat)
        | .nan | .inf _ => x) 0
      if sum = 0 then 0
      else
        let v : Val := .fin (decide (sum < 0)) sum.natAbs q
        if wide then roundWide v else tileOf (roundNarrow v)

-- ## A and B (R282, R283)

/-- The span S of one matrix row of A in bytes, which is also its count of element rows. -/
def aSpan (f : Entry) : Nat := match f.width with | 4 => 32 | 6 => 64 | 8 => 64 | 16 => 128 | _ => 256

/-- Scale bytes of one row of A or one column of B: blocks of its 64 elements times SC. -/
def scaleCount (f : Entry) : Nat := if f.sc = 0 then 0 else 64 / f.block * f.sc

/-- Stash rows that A occupies. -/
def aRows (f : Entry) : Nat := aSpan f + scaleCount f

/-- Elements a register row of B holds, and its element rows. -/
def bPer (f : Entry) : Nat := match f.width with | 4 => 256 | 6 => 128 | 8 => 128 | 16 => 64 | _ => 32
def bRows (f : Entry) : Nat := 1024 / bPer f

/-- Scale bytes as the low bytes of a register image. -/
def scaleImage (bs : List Byte) : BitVec 128 := BitVec.ofNat 128 (leNat bs)

/-- Element (m, k) of A from the bytes of the core's stash, `base` being byte 0 of row AROW. -/
def aElem (stash : List Host.Cell) (f : Entry) (base m k : Nat) : Val :=
  let x : Lane := BitVec.ofNat 32 (leNat (Memory.readN stash (base + m * aSpan f + 4 * (k / f.perLane)) 4))
  let z := scaleImage (Memory.readN stash (base + 128 * aSpan f + m * scaleCount f) (scaleCount f))
  elemValue f (elemBits f x (k % f.perLane)) z (k / f.block)

/-- Element (k, n) of B from the rows captured of each quadrant. -/
def bElem (b : List (List Lane)) (f : Entry) (k n : Nat) : Val :=
  let rows := nth [] b (n / 16)
  let c := n % 16
  let e := 64 * c + k
  let r := e % bPer f
  let x := nth (0 : Lane) rows (e / bPer f * 32 + r / f.perLane)
  let scale (i : Nat) : Byte := (nth (0 : Lane) rows (bRows f * 32 + i / 4)).extractLsb' (8 * (i % 4)) 8
  let z := scaleImage ((List.range (scaleCount f)).map fun j => scale (c * scaleCount f + j))
  elemValue f (elemBits f x (r % f.perLane)) z (k / f.block)

/-- Products per step (R53), by the wider storage width. -/
def stepTerms (a b : Entry) : Nat := match max a.width b.width with | 4 => 32 | 6 => 32 | 8 => 32 | 16 => 16 | _ => 8

-- ## tiles

/-- The keys of a tile of a team, one for each quadrant. -/
def Team.tileKeys (t : Team) (k : Nat) : List Nat :=
  (List.range 4).map fun q => (t.core * 4 + q) * 8 + nth 0 (nth [] t.tiles q) k

/-- The `.acc` claim of a team (R156). -/
def Team.accClaim (t : Team) : Nat := (nth [] t.tiles 0).length

/-- One value of a tile: its row and column. -/
def cell (key row col : Nat) : Nat := key * 2048 + row * 64 + col

/-- The VF of a team. -/
def State.teamVf (s : State) (t : Team) : Nat := ((s.cluster? t.cluster).map (·.vf)).getD 0

/-- The cluster of a team stands, and is not told to stop (R300, R327). -/
def State.teamRuns (s : State) (t : Team) : Bool := ((s.cluster? t.cluster).map fun c => c.residence == .resident && (!c.halting || c.atck)).getD false

/-- Retirement (R294): every WIDE value of a team's tiles is rounded to binary32. -/
def State.retireTiles (s : State) (t : Team) : State :=
  let keys := (List.range t.accClaim).flatMap t.tileKeys
  let round := tileRound (s.wide (s.teamVf t))
  { s with tileVals := (s.tileVals.map fun (k, v) => (k, if keys.contains (k / 2048) then round v else v)).filter fun (_, v) => v != 0 }

/-- A tile row as a location of the conflict checker (R299). -/
def tileLoc (key row : Nat) : Nat := 2 ^ 61 + key * 32 + row

-- ## group access to tiles (R296, R297)

/-- The row that a word of layout E names. -/
def Group.tileRow (g : Group) (o : OpE) : Nat := if o.md = 1 then (g.getS o.sb1.toNat).toNat else o.num.toNat

/-- The checks of R296: register bounds, tile, row. -/
def tileTrap (s : State) (g : Group) (o : OpE) (bounds : List (Option TrapReq)) : Option TrapReq :=
  let claim := ((s.team? g.id.team).map Team.accClaim).getD 0
  firstTrap (bounds ++ [if claim ≤ o.sco.toNat then some (mkTrap 12 18 o.sco.toNat) else none,
    if 32 ≤ g.tileRow o then some (mkTrap 12 19 (g.tileRow o)) else none])

/-- Operations in flight on the tile. -/
def State.tileBusy (s : State) (g : Group) (k : Nat) : Bool :=
  ((s.team? g.id.team).map fun t => t.seqr.flight.any fun x => x.tile == k).getD false

/-- `acc.rd` (R297): one row and STEPS at one point. With DET = 1 its row is checked (R299): one that conflicts is a timing read, refused
with RAWCLK = 0; one that does not is kept on record. In REPLAY it waits for the logged count (R300). -/
def execAccRd (o : OpE) (s : State) : Host.Outcome State Fault Refusal :=
  runWord s (.accRd o) fun s g =>
    let act := g.active o.pred
    let k := o.sco.toNat
    match tileTrap s g o [g.checkV 0 o.d 2 [], g.checkV 1 o.a 1 []] with
    | some t => .trap t
    | none =>
      let row := g.tileRow o
      let src := 0x1000 + 32 * k + row
      let key := (s.tileKey g k).getD 0
      let c := s.confOf g g.ltime false false false
      let checked := s.det g.id.vf && act != 0
      let clash := checked && (s.conflictAt (tileLoc key row) c g.mxSeen).isSome
      let st := Sparse.get 0 s.tileSteps key
      let run (s : State) : WordRes :=
        let x (c : Nat) : Lane := tileRead (s.wide g.id.vf) (Sparse.get 0 s.tileVals (cell key row c))
        let g1 := (lanesOf act).foldl (fun g l =>
          ((g.setV o.d.toNat l (x l)).setV (o.d.toNat + 1) l (x (32 + l))).setV o.a.toNat l st) g
        .next s g1 { regs := [o.d.toNat, o.d.toNat + 1, o.a.toNat].map fun n => { kind := 0, num := n, lanes := act } }
      if clash ∧ !s.rawclk g.id.vf then .trap (mkTrap 16 1 src)
      else
        let s1 := if checked ∧ !clash then s.conflictPut (tileLoc key row) c else s
        match s.logged g 4 with
        | some e => if nth (0 : Word) e.more 0 = st.setWidth 64 then settled g (run (s1.note g 4 (BitVec.ofNat 32 src) [st.setWidth 64])) else .stall
        | none => if s.tileBusy g k then settled g (run (s1.note g 4 (BitVec.ofNat 32 src) [st.setWidth 64]))
          else if checked then settled g (run s1) else run s1

/-- Writes a row or rows of the group's tile, with the conflict check of R299: active lanes give columns l and 32 + l. -/
def tileWrite (s : State) (g : Group) (o : OpE) (rows : List Nat) (lo hi : Nat → Lane) : WordRes :=
  let act := g.active o.pred
  let key := (s.tileKey g o.sco.toNat).getD 0
  let c := s.confOf g g.ltime true false false
  let det := s.det g.id.vf
  let clash := if det ∧ act ≠ 0 then rows.findSome? fun r => (s.conflictAt (tileLoc key r) c g.mxSeen).map fun a => (r, a) else none
  match clash with
  | some (r, a) => .trap (conflictTrap (32 * o.sco.toNat + r) 1 a false none)
  | none =>
    let s1 := if det ∧ act ≠ 0 then rows.foldl (fun s r => s.conflictPut (tileLoc key r) c) s else s
    let vals := rows.foldl (fun v r => (lanesOf act).foldl (fun v l =>
      Sparse.set 0 (Sparse.set 0 v (cell key r l) (tileOf (lo l))) (cell key r (32 + l)) (tileOf (hi l))) v) s.tileVals
    let parts := rows.flatMap fun r => (lanesOf act).flatMap fun l =>
      [digWord (lo l).toNat l (32 * o.sco.toNat + r) 7, digWord (hi l).toNat l (32 * o.sco.toNat + r) 7]
    settled g (.next { s1 with tileVals := vals } g { parts })

def execAccWr (o : OpE) (s : State) : Host.Outcome State Fault Refusal :=
  runWord s (.accWr o) fun s g =>
    match tileTrap s g o [g.checkV 1 o.a 2 []] with
    | some t => .trap t
    | none => tileWrite s g o [g.tileRow o] (g.getV o.a.toNat) (g.getV (o.a.toNat + 1))

/-- `acc.zero`, and `acc.zero.all` with MOD = 010. -/
def execAccZero (o : OpE) (s : State) : Host.Outcome State Fault Refusal :=
  runWord s (.accZero o) fun s g =>
    match tileTrap s g o [] with
    | some t => .trap t
    | none => tileWrite s g o (if o.md = 2 then List.range 32 else [g.tileRow o]) (fun _ => 0) fun _ => 0

-- ## starting the stream (R285)

/-- `mxgo` (R285). The trap of its start address names no access size (log entry 103). -/
def execMxgo (o : OpE) (s : State) : Host.Outcome State Fault Refusal :=
  runWord s (.mxgo o) fun s g => settled g <|
    match s.team? g.id.team, s.cluster? g.id.cluster with
    | some t, some c =>
      let named := g.getS o.sb1.toNat
      let start := if named = 0 then s.nodeWord c.vf c.gslot c.node 7 else named
      if t.mx.isEmpty then .trap (mkTrap 12 17 0)
      else if t.seqr.run then .trap (mkTrap 12 16 (t.seqr.mxpc &&& ~~~7).toNat)
      else if start = 0 ∨ start.toNat % 8 ≠ 0 then .trap (mkTrap 8 2 start.toNat)
      else
        let q := { t.seqr with run := true, flt := false, mxpc := start, owner := g.id.key, start, view := t.table, pend := [], barw := none
                               counts := g.counts, word := none, fault := none, faultPost := none, went := g.ltime.toNat }
        .next (s.setTeam { t with seqr := q }) g
    | _, _ => .trap (mkTrap 12 17 0)

-- ## the stream words (R288 to R293)

/-- How a stream word ends: it issues with a new state and sequencer, waits, or is a stream fault. -/
inductive StreamRes where
  | done (s : State) (q : Sequencer)
  | wait
  | flaw (t : TrapReq)

/-- A trap of the sequencer (R302, R303): asynchronous, at its word. -/
def streamTrap (code : Nat) (q : Sequencer) (more : Nat) : TrapReq :=
  { mkTrap 12 code ((q.mxpc &&& ~~~7).toNat + 2 ^ 64 * more) with async := true, pc := q.mxpc }

/-- A stream word issues in the current sequencer: MXPC advances, or the sequencer waits at the word, or stops at it. A team that halts
or has halted issues none (R300, R327). -/
def runStream (s : State) (f : State → Team → Sequencer → StreamRes) : Host.Outcome State Fault Refusal :=
  match s.cur with
  | .none | .group _ => .fault .noSequencer
  | .seqr k => match s.team? k with
    | none => .fault .noSequencer
    | some t =>
      let q := t.seqr
      if !q.run ∨ q.faultPost.isSome ∨ q.barw.isSome ∨ !s.teamRuns t then .next s
      else match f s t q with
        | .wait => .next s
        | .flaw x => .next (s.setTeam { t with seqr := { q with faultPost := some x } })
        | .done s1 q1 => match s1.team? k with
          | some t1 => .next (s1.setTeam { t1 with seqr := { q1 with mxpc := q.mxpc + 8, word := none } })
          | none => .next s1

/-- The stash bytes of some rows of the team's claim, as bytes of its core's stash. -/
def Team.rowBytes (t : Team) (arow n : Nat) : Nat × Nat :=
  let lo := (t.stashBase + arow) * lineBytes
  (lo, lo + n * lineBytes)

/-- A valid copy entry whose destination covers part of a range of the core's stash (R292). -/
def State.copyOver (s : State) (t : Team) (r : Nat × Nat) : Option Nat :=
  ((s.locksOf t.core).find? fun e => e.idx < 64 && e.hits true true t.core r.1 r.2).map (·.idx)

/-- An access of the sequencer, for the conflict checker (R299). -/
def Sequencer.conf (q : Sequencer) (s : State) (t : Team) (op : Nat) (write : Bool) : ConfAccess :=
  let c := s.cluster? t.cluster
  { agent := { kind := 2, vf := (c.map (·.vf)).getD 0, gslot := (c.map (·.gslot)).getD 0, launch := (c.map (·.launch)).getD 0
               node := (c.map (·.node)).getD 0, cluster := t.cluster, team := t.key, grp := ((s.group? q.owner).map (·.id.grpid)).getD 0
               quad := 0, core := t.core, slot := 0, lcore := s.lcore t, key := q.owner }
    counts := q.counts, isWrite := write, isRed := false, isAtom := false, inst := q.went, cmd := op }

/-- Locations of an operation with what a conflict there reports: named location and kind. -/
def State.streamCheck (s : State) (c : ConfAccess) (locs : List (Nat × Nat × Nat)) : Except TrapReq State :=
  if s.det c.agent.vf then
    match locs.findSome? fun (loc, named, kind) => (s.conflictAt loc c 0).map fun a => conflictTrap named kind a false none with
    | some t => .error { t with async := true }
    | none => .ok (locs.foldl (fun s (loc, _, _) => s.conflictPut loc c) s)
  else .ok s

/-- Every row of a tile in every quadrant. -/
def Team.tileLocs (t : Team) (k : Nat) : List (Nat × Nat × Nat) :=
  (t.tileKeys k).flatMap fun key => (List.range 32).map fun r => (tileLoc key r, 32 * k + r, 1)

/-- Bytes of the team's stash as locations. -/
def State.stashLocs (s : State) (t : Team) (r : Nat × Nat) : List (Nat × Nat × Nat) :=
  (List.range (r.2 - r.1)).map fun i =>
    (s.locOf .stash (t.core * Config.stashBytes + r.1 + i), 15 * 2 ^ 20 + (r.1 + i - t.stashBase * lineBytes), 0)

/-- The matrix group on a quadrant (R156, R283). -/
def State.matrixGroup (s : State) (t : Team) (q : Nat) : Option Group :=
  (s.teamGroups t.key).find? fun g => t.isMatrix g.id.grpid && g.id.quad == q

/-- Accesses of the owner before its `mxgo` have not all performed: they precede every stash read of the stream (R230, R285). -/
def State.ownerBehind (s : State) (q : Sequencer) : Bool :=
  ((s.group? q.owner).map fun g => g.ops.any fun o => o.ltime.toNat < q.went && (match o.kind with | .fsend _ => false | _ => true)).getD false

/-- The collator of the sequencer's events: that of the stream's owner. -/
def State.streamLog (s : State) (t : Team) : LogTo := .team t.key (((s.group? t.seqr.owner).map (·.id.tidx)).getD 0)

/-- The sequencer's reads of some rows of its team's stash take their places in order (R388, R393). -/
def State.orderRows (s : State) (t : Team) (arow n : Nat) : Ordered :=
  let q := t.seqr
  (List.range n).foldl (fun o i => match o with
    | .go s => s.orderIn (s.teamVf t) (s.streamLog t)
        { key := locLine (s.locOf .stash (t.core * Config.stashBytes + (t.stashBase + arow + i) * lineBytes)), agent := (q.conf s t 0 false).agent
          write := false, time := BitVec.ofNat 64 q.went, src := 2 }
    | .hold => .hold
    | .diverge => .diverge) (.go s)

/-- An access of a team's sequencer that its log does not have (R405). -/
def State.divergeStream (s : State) (t : Team) : State :=
  match s.partOf (s.teamVf t) with
  | some p => s.divergePart p.num 5 4 t.sig.sign
  | none => s

/-- The rows of B read from the matrix groups. A declared group keeps its rows while the stream runs (R286); of one that had ended before
the stream began, and whose registers are another's to claim, the values are free (log entry 45). -/
def State.readB (s : State) (t : Team) (brow n : Nat) : List (List Lane) :=
  (List.range 4).map fun q => (List.range n).flatMap fun j => allLanes.map fun l =>
    match s.matrixGroup t q with
    | some g => g.getV (brow + j) l
    | none => if s.det (s.teamVf t) then Config.endedRow q (brow + j) l else BitVec.ofNat 32 (Config.freeNat (s.fresh + (q * n + j) * 32 + l))

/-- The lowest free matrix entry of a core's range-lock table (R274). -/
def State.freeMxLock (s : State) (core : Nat) : Nat :=
  ((List.range 8).find? fun i => !s.locks.any fun e => e.core == core && e.idx == 64 + i).getD 0 + 64

/-- `mx.mma` issues (R289, R291, R292). -/
def execMxMma (o : OpQ) (s : State) : Host.Outcome State Fault Refusal :=
  runStream s fun s t q =>
    let na := o.fmt.toNat
    let nb := o.fb.toNat
    let wa := nth (0 : BitVec 32) q.view na
    let wb := nth (0 : BitVec 32) q.view nb
    let fa := Entry.of wa
    let fb := Entry.of wb
    let rows := bRows fb + if fb.sc ≠ 0 then 1 else 0
    let range := t.rowBytes o.arow.toNat (aRows fa)
    if 8 ≤ q.flight.length ∨ s.ownerBehind q then .wait
    else if !fa.v then .flaw (streamTrap 2 q na)
    else if !fb.v then .flaw (streamTrap 2 q nb)
    else if t.accClaim ≤ o.tgt.toNat then .flaw (streamTrap 3 q o.tgt.toNat)
    else if t.claim < o.brow.toNat + rows then .flaw (streamTrap 4 q 0)
    else if t.stashRows < o.arow.toNat + aRows fa then .flaw (streamTrap 5 q o.arow.toNat)
    else match s.copyOver t range with
      | some e => .flaw (streamTrap 6 q e)
      | none =>
        let id := s.nextKey
        let bLocs : List (Nat × Nat × Nat) := (List.range 4).flatMap fun qd => match s.matrixGroup t qd with
          | some g => (List.range rows).map fun j => (rowLoc g.id.key (o.brow.toNat + j), o.brow.toNat + j, 2)
          | none => []
        match s.streamCheck (q.conf s t id false) (s.stashLocs t range ++ bLocs) with
        | .error x => .flaw x
        | .ok s1 => match s1.streamCheck (q.conf s t id true) (t.tileLocs o.tgt.toNat) with
          | .error x => .flaw x
          | .ok s2 =>
            let li := s2.freeMxLock t.core
            let op : MxOp := { id, isZero := false, tile := o.tgt.toNat, fa := wa, fb := wb, arow := o.arow.toNat, brow := o.brow.toNat
                               steps := 64 / stepTerms fa fb, done := 0, lockEntry := li, b := s2.readB t o.brow.toNat rows, pc := q.mxpc }
            let e : LockEntry := { core := t.core, idx := li, vf := (q.conf s t id false).agent.vf, dlo := BitVec.ofNat 64 range.1
                                   dhi := BitVec.ofNat 64 range.2, slo := 0, shi := 0, quad := 0, slot := 0, tag := 0, nosrc := true, dsp := true
                                   ssp := false, dcore := t.core, score := t.core, kind := true }
            .done { s2 with nextKey := id + 1, fresh := s2.fresh + 4 * rows * 32, locks := s2.locks ++ [e] } { q with flight := q.flight ++ [op] }

/-- `mx.zero` issues (R293). -/
def execMxZero (o : OpQ) (s : State) : Host.Outcome State Fault Refusal :=
  runStream s fun s t q =>
    if 8 ≤ q.flight.length then .wait
    else if t.accClaim ≤ o.tgt.toNat then .flaw (streamTrap 3 q o.tgt.toNat)
    else match s.streamCheck (q.conf s t s.nextKey true) (t.tileLocs o.tgt.toNat) with
      | .error x => .flaw x
      | .ok s1 =>
        let op : MxOp := { id := s.nextKey, isZero := true, tile := o.tgt.toNat, fa := 0, fb := 0, arow := 0, brow := 0, steps := 1, done := 0
                           lockEntry := 0, b := [], pc := q.mxpc }
        .done { s1 with nextKey := s.nextKey + 1 } { q with flight := q.flight ++ [op] }

/-- `mx.bar` arrives once every older operation has completed (R293); BARRIER_COMPLETE ends its wait. -/
def execMxBar (o : OpQ) (s : State) : Host.Outcome State Fault Refusal :=
  runStream s fun s t q =>
    let n := o.tgt.toNat
    if !q.flight.isEmpty then .wait
    else .done (s.setTeam { t with arrive := putNth t.arrive n (nth 0 t.arrive n ||| (1#17 <<< 16)) }) { q with barw := some n }

/-- `mx.fmt` (R293): entry N of the sequencer's view from the stash, pending for the team's table (R50). -/
def execMxFmt (o : OpQ) (s : State) : Host.Outcome State Fault Refusal :=
  runStream s fun s t q =>
    let n := o.tgt.toNat
    let arow := o.arow.toNat
    let range := t.rowBytes arow 1
    if s.ownerBehind q then .wait
    else if t.stashRows ≤ arow then .flaw (streamTrap 5 q arow)
    else match s.copyOver t range with
      | some e => .flaw (streamTrap 6 q e)
      | none => match s.streamCheck (q.conf s t s.nextKey false) (s.stashLocs t (range.1, range.1 + 4)) with
        | .error x => .flaw x
        | .ok s1 => match s1.orderRows t arow 1 with
          | .hold => .wait
          | .diverge => .done (s1.divergeStream t) q
          | .go s2 =>
            let s3 := s2.fillRow (t.core * 4096 + t.stashBase + arow) (s.teamVf t)
            let w : BitVec 32 := BitVec.ofNat 32 (leNat (Memory.readN s3.stash (t.core * Config.stashBytes + range.1) 4))
            let mask := entryRefusal w
            if mask ≠ 0 then .flaw (streamTrap 7 q (n + 2 ^ 12 * mask))
            else .done s3 { q with view := putNth q.view n w, pend := q.pend ++ [(n, w)] }

/-- `mx.end` (R293): every older operation complete, the tiles retired, RUN cleared; pending writes are discarded (R50). -/
def execMxEnd (_o : OpQ) (s : State) : Host.Outcome State Fault Refusal :=
  runStream s fun s t q => if !q.flight.isEmpty then .wait else .done (s.retireTiles t) { q with run := false, pend := [] }

-- ## events of the sequencer

/-- Changes the sequencer of a team. -/
def State.withSeqr (s : State) (team : Nat) (f : Sequencer → Sequencer) : State :=
  match s.team? team with
  | some t => s.setTeam { t with seqr := f t.seqr }
  | none => s

/-- A fault of a sequencer stops it at its word. -/
def State.stopStream (s : State) (t : Team) (x : TrapReq) : State :=
  s.withSeqr t.key fun q => { q with faultPost := some x, word := none }

/-- The owner's live group, else the first live group in the order of R50 (R295). -/
def State.streamTaker (s : State) (t : Team) : Option Group :=
  match (s.group? t.seqr.owner) with
  | some g => if g.live ≠ 0 then some g else (sortGroups ((s.teamGroups t.key).filter fun g => g.live != 0)).head?
  | none => (sortGroups ((s.teamGroups t.key).filter fun g => g.live != 0)).head?

/-- Whose fetch the stream's is (R286). -/
def State.streamAsker (s : State) (t : Team) : Asker :=
  ((s.group? t.seqr.owner).map Group.asker).getD { core := some t.core, vf := s.teamVf t }

/-- STREAM_FETCH (R286): one word at MXPC, translated as the owner's fetch. A replayable fault queues the owner's record and
the sequencer waits; `error` is an uncorrectable error in the word (R295). -/
def execStreamFetch (team : Nat) (error : Bool) (s : State) : Host.Outcome State Fault Refusal :=
  match s.team? team with
  | none => .next s
  | some t =>
    let q := t.seqr
    if !q.run ∨ q.word.isSome ∨ q.faultPost.isSome ∨ q.fault.isSome ∨ q.barw.isSome ∨ !s.teamRuns t then .next s
    else
      let vf := s.teamVf t
      match s.translate (s.streamAsker t) .fetch q.mxpc with
      | (.error x, s1) =>
        if x.grp = 31 then .next s
        else if x.grp = 6 ∧ x.code = 2 then .next (s1.stopStream t (streamTrap 8 q 0))
        else
          let r := faultRing s1 vf x
          if (s1.ring r).enabled then
            let (fid, s2) := s1.queueRecord r (fun fid => recordBytes x true fid (t.core + 2 ^ 14) vf q.mxpc) none
            .next (s2.withSeqr team fun q => { q with fault := some (faultTag r fid) })
          else .next (s1.fatal vf t.cluster x)
      | (.ok (pa, _), s1) =>
        if error then .next (s1.stopStream t { streamTrap 0 q 3 with grp := 20, code := 3 })
        else
          let (bs, s2) := s1.readMem pa 8
          let w : Word := BitVec.ofNat 64 (leNat bs)
          match Dec.stream w with
          | .bad b => .next (s2.stopStream t (streamTrap 1 q (b.code + 2 ^ 8 * b.group)))
          | .ok _ => .next (s2.withSeqr team fun q => { q with word := some w })

/-- One step of an `mx.mma` in every quadrant (R289). -/
def State.mmaStep (s : State) (t : Team) (x : MxOp) (vf : Nat) : State :=
  let fa := Entry.of x.fa
  let fb := Entry.of x.fb
  let n := stepTerms fa fb
  let s1 := (List.range (aRows fa)).foldl (fun s i => s.fillRow (t.core * 4096 + t.stashBase + x.arow + i) vf) s
  let base := t.core * Config.stashBytes + (t.stashBase + x.arow) * lineBytes
  let wide := s.wide vf
  let vals := (t.tileKeys x.tile).zipIdx.foldl (fun v (key, q) => (List.range 32).foldl (fun v r => (List.range 64).foldl (fun v c =>
      let ps := (List.range n).map fun i =>
        ((aElem s1.stash fa base (32 * q + r) (x.done * n + i)).mul (bElem x.b fb (x.done * n + i) c)).1
      Sparse.set 0 v (cell key r c) (dotStep wide (Sparse.get 0 s1.tileVals (cell key r c)) ps)) v) v) s1.tileVals
  { s1 with tileVals := vals
            tileSteps := (t.tileKeys x.tile).foldl (fun m key => Sparse.set 0 m key (Sparse.get 0 m key + 1)) s1.tileSteps }

/-- An operation may take its next step: none older on its tile, and no older `mx.mma` before an `mx.mma` (R286). -/
def mayStep (l : List MxOp) (x : MxOp) : Bool :=
  !(l.takeWhile fun y => y.id != x.id).any fun y => y.tile == x.tile || (!y.isZero && !x.isZero)

/-- In REPLAY, a step waits for an `acc.rd` that was logged at the count of steps its tile has now (R300): the first event still to be met
of the group for the tile. -/
def State.readFirst (s : State) (t : Team) (x : MxOp) : Bool :=
  s.log (s.teamVf t) == 2 && (s.teamGroups t.key).any fun g =>
    match (s.eventsAt g.collator).find? fun e => e.code == 4 && 0x1000 + 32 * x.tile ≤ e.a.toNat && e.a.toNat < 0x1000 + 32 * x.tile + 32 with
    | some e => nth (0 : Word) e.more 0 == (Sparse.get 0 s.tileSteps ((s.tileKey g x.tile).getD 0)).setWidth 64
    | none => false

/-- An operation leaves the sequencer, with its range-lock entry. -/
def State.dropOps (s : State) (t : Team) (l : List MxOp) : State :=
  { s with locks := s.locks.filter fun e => !l.any fun x => !x.isZero && e.core == t.core && e.idx == x.lockEntry }.withSeqr t.key fun q =>
    { q with flight := q.flight.filter fun x => !l.contains x }

/-- An uncorrectable error of an operation (R295): the sequencer stands at the operation's word, as not issued, and older ones go on. -/
def State.failStep (s : State) (t : Team) (x : MxOp) (source : Nat) : State :=
  let s1 := s.dropOps t (t.seqr.flight.dropWhile fun y => y.id != x.id)
  let at' := { t.seqr with mxpc := x.pc }
  (s1.withSeqr t.key fun q => { q with mxpc := x.pc }).stopStream t { streamTrap 0 at' (source - 1) with grp := 20, code := 3 }

/-- MX_STEP_COMPLETE (R286, R289, R293): the next step of an operation in flight, chosen freely where several may take one.
`source` 1 to 3 is an uncorrectable error of A's stash bytes, of a B row or of the tile (R295); 0 none. -/
def execMxStepComplete (team source : Nat) (s : State) : Host.Outcome State Fault Refusal :=
  match s.team? team with
  | none => .next s
  | some t =>
    let q := t.seqr
    let vf := s.teamVf t
    let able := q.flight.filter fun x => mayStep q.flight x && !s.readFirst t x
    let (k, s0) := s.free
    match able[k % max 1 able.length]? with
    | none => .next s
    | some x =>
      if !s.teamRuns t then .next s
      else if source ≠ 0 ∧ source ≤ 3 ∧ !x.isZero ∧ q.faultPost.isNone ∧ q.run then .next (s0.failStep t x source)
      else if x.isZero then
        let keys := t.tileKeys x.tile
        let s1 := { s0 with tileVals := s0.tileVals.filter fun (c, _) => !keys.contains (c / 2048)
                            tileSteps := s0.tileSteps.filter fun (c, _) => !keys.contains c }
        .next (s1.withSeqr team fun q => { q with flight := q.flight.erase x })
      else match s0.orderRows t x.arow (aRows (Entry.of x.fa)) with
      | .hold => .next s
      | .diverge => .next (s.divergeStream t)
      | .go s0 =>
        let s1 := (s0.mmaStep t x vf).count vf 4 1
        let s2 := { s1 with groups := s1.groups.map fun (g : Group) => if g.id.key = q.owner then { g with enacc := g.enacc + classWeight (s1.weights vf) 10 } else g }
        .next (if x.steps ≤ x.done + 1 then s2.dropOps t [x]
          else s2.withSeqr team fun q => { q with flight := q.flight.map fun (y : MxOp) => if y.id = x.id then { y with done := y.done + 1 } else y })

/-- STREAM_FAULT (R295): the stopped stream's older operations are complete; it ends, its tiles are retired, and the owner,
or the first live group, or else the grid, takes the fault; one that waits at a barrier withdraws its arrival. -/
def execStreamFault (team : Nat) (s : State) : Host.Outcome State Fault Refusal :=
  match s.team? team with
  | none => .next s
  | some t => match t.seqr.faultPost with
    | none => .next s
    | some x =>
      if !t.seqr.flight.isEmpty ∨ !s.teamRuns t then .next s
      else
        let s1 := (s.retireTiles t).setTeam { t with seqr := { t.seqr with run := false, flt := true, fcode := x.code, barw := none, pend := []
                                                                           faultPost := none, word := none } }
        match s1.streamTaker t with
        | some g =>
          let (s2, h) := s1.withdraw g
          .next (s2.setGroup { h with trap := { h.trap with async := h.trap.async ++ [x] } })
        | none => .next (s1.fatal (((s.cluster? t.cluster).map (·.vf)).getD 0) t.cluster x)

end Sys2Proof.Machine
end

