-- ==== Sys2Proof/Machine/Discard.lean ====
section
/-! DEFINITION. Discarding clusters (R333), the tamper alarm at its three levels (R430), and quota writes (R326). -/
namespace Sys2Proof.Machine

/-- A cluster that holds no resource leaves the state: its groups, teams and records go. -/
def State.dropCluster (s : State) (c : Cluster) : State :=
  let mine (t : Nat) : Bool := ((s.team? t).map (·.cluster == c.key)).getD false
  { s with groups := s.groups.filter fun g => !mine g.id.team
           shadows := s.shadows.filter fun h => !(((s.group? h.key).map fun g => mine g.id.team).getD false)
           bins := s.bins.filter fun b => !mine b.team
           teams := s.teams.filter fun t => t.cluster != c.key
           clusters := s.clusters.filter fun d => d.key != c.key }

/-- Core copies of a cluster's groups are cancelled (R273, R333). -/
def State.cancelCopies (s : State) (c : Cluster) : State :=
  { s with copies := s.copies.map fun x =>
      if !s.det x.vf ∧ ((s.group? x.group).map fun g => g.id.cluster == c.key).getD false then { x with cancelled := true } else x }

/-- A discard of one cluster (R333): its node fails with code 34. A spilled cluster holds nothing and is gone at once. -/
def State.discardOne (s : State) (c : Cluster) (code : Nat) : State :=
  let s1 := (s.cancelCopies c).failNode c.vf c.gslot c.node code 0
  if c.residence = .saved then s1.dropCluster c else s1.killCluster c.key

def State.discardWhere (s : State) (pick : Cluster → Bool) (code : Nat) : State :=
  (s.clusters.filter pick).foldl (fun s c => s.discardOne c code) s

-- ## the tamper alarm (R430)

/-- The ranges of physical memory that a partition's stage-2 tables map: base and size of every leaf. -/
def stage2Leaves (m : List Host.Cell) : List (Nat × Nat × Nat) → Nat → List (Nat × Nat)
  | [], _ => []
  | (lv, _, n) :: rest, node => (List.range (2 ^ n)).flatMap fun i =>
    let e := Memory.read64 m (node + 8 * i)
    if (entryBad lv e).isSome then [] else if e.getLsbD 1 then [(entryAddr e, 2 ^ pageBits lv)] else stage2Leaves m rest (entryAddr e)

/-- The memory and log keys of a partition are erased: its HBM reads as bytes of no key. -/
def State.eraseKeys (s : State) (p : Partition) : State :=
  let leaves := if p.ps2root.getLsbD 0 then stage2Leaves s.mem levels (entryAddr p.ps2root) else []
  let stamp := s.device.alarms.toNat
  let mem := leaves.foldl (fun m (base, size) => (List.range size).foldl (fun m i =>
    if base + i < 0x8000000000 then Memory.write m (base + i) (Config.erasedByte (base + i) stamp) else m) m) s.mem
  ({ s with mem, slices := s.slices.filter fun x => x.part != p.num }).setPart { p with keyed := false }

/-- An alarm is entered in TAMPST (R432): row of R430 from 0, the partition, the level. -/
def State.alarm (s : State) (row part level : Nat) : State :=
  { s with device := { s.device with alarms := s.device.alarms + 1, sources := s.device.sources ||| (1#8 <<< row), lastPart := part
                                     level := max s.device.level level } }

/-- Level 2 of a partition: keys erased, every cluster discarded with no completion record, its VF slots cleared, STATE 0. -/
def State.wipe (s : State) (n : Nat) : State :=
  let p := s.part n
  let vfs := p.vfsOf 65535
  let s1 := s.eraseKeys p
  let s2 := s1.discardWhere (fun c => vfs.contains c.vf) 34
  let s3 := { s2 with vfs := s2.vfs.map fun (v : Vf) => if vfs.contains v.num then
      { v with slots := v.slots.map fun ((k, sl) : Nat × GraphSlot) => (k, { sl with queue := [], running := sl.running.map fun (l : Launch) => { l with noRecord := true } })
               queues := [[], [], [], []], gloadWait := [] } else v }
  let q := s3.part n
  let clear (r : Staged) : Staged := { r with vfid := List.replicate 16 0 }
  s3.setPart { q with stateCode := 0, force := clear q.force, stagedRegs := clear q.stagedRegs, hlt := 0, evf := 0, held := 0, evict := none }

/-- The alarm from a source at its level (R430). -/
def State.tamper (s : State) (row part : Nat) : State :=
  let level := if row = 0 then 1 else if row ≤ 3 then 2 else 3
  let s1 := s.alarm row part level
  if level = 1 then s1
  else if level = 2 then s1.wipe part
  else
    let s2 := (List.range 12).foldl (fun s n => s.wipe n) s1
    { s2 with device := { s2.device with keys := false } }

/-- The times of a list within the last second, with now (R326, R430). -/
def lately (l : List Nat) (now : Nat) : List Nat := (l.filter fun t => now < t + 1000000000) ++ [now]

/-- A write to the quota image of a VF's window: counted in QFCNT, and the fourth within a second raises the alarm (R326). -/
def State.quotaAttempt (s : State) (vf : Nat) : State :=
  let v := s.vf vf
  let l := lately v.quotaTimes s.ns
  let s1 := s.setVf { v with quotaTimes := l }
  match s1.partOf vf with
  | none => s1
  | some p =>
    let s2 := s1.setPart { p with qfcnt := min 255 (p.qfcnt + 1) }
    if 4 ≤ l.length then s2.tamper 1 p.num else s2

end Sys2Proof.Machine
end

