-- ==== Sys2Proof/Machine/Fabric.lean ====
section
/-! DEFINITION. The words that reach the fabric and the die links (R366 to R368, R379 to R383), and `sig.mark` (R395). -/
namespace Sys2Proof.Machine

/-- Fields of a destination word (R374). -/
def dstDev (d : Word) : Nat := wfield d 0 13
def dstPart (d : Word) : Nat := wfield d 16 4
def dstCls (d : Word) : Nat := wfield d 20 2
def dstMbx (d : Word) : Nat := wfield d 24 6

/-- Devices of the pod (R373). -/
def State.podSize (s : State) : Nat := wfield s.device.devcfg 16 13 + 1

/-- Ports of the route set of a device that are up (R373, R386). -/
def State.routeSet (s : State) (dev : Nat) : List Nat :=
  let w := Sparse.get 0 s.fabric.routes dev
  ((List.range (min 4 (wfield w 32 3))).map fun i => wfield w (8 * i) 8).filter fun p => nth false s.fabric.portsUp p

/-- The port by which a packet for a device and class leaves, fixed by the route set (R373); none where no port is left. -/
def State.portFor (s : State) (dev cls : Nat) : Option Nat :=
  let l := s.routeSet dev
  l[(s.deviceNum ^^^ dev ^^^ cls) % l.length]?

/-- The checks of a destination word (R380). -/
def State.dstTrap (s : State) (d : Word) : Option TrapReq :=
  if d &&& 0xFFFFFFFFC0C0E000 ≠ 0 ∨ 12 ≤ dstPart d then some (mkTrap 21 1 (d.toNat + 2 ^ 72 * dstDev d))
  else if s.podSize ≤ dstDev d ∨ (dstDev d ≠ s.deviceNum ∧ s.routeSet (dstDev d) = []) then some (mkTrap 21 2 (d.toNat + 2 ^ 72 * dstDev d))
  else none

/-- Packets of one stream that this device has not yet seen accepted (R206). -/
def State.streamCount (s : State) (dev cls : Nat) : Nat :=
  (s.fabric.sent.filter fun m => dstDev m.msg.dst == dev && m.cls == cls).length
    + (s.fabric.chunks.filter fun c => c.dev == dev && c.cls == cls).length
def State.streamLoad (s : State) (d : Word) : Nat := s.streamCount (dstDev d) (dstCls d)

/-- The message of a group (R376). -/
def State.message (s : State) (g : Group) (d : Word) (kind : BitVec 2) (payload : List (BitVec 32)) : Msg :=
  { dst := d, kind, srcDev := BitVec.ofNat 13 s.deviceNum, srcPart := BitVec.ofNat 4 (((s.partOf g.id.vf).map (·.num)).getD 0)
    srcVf := BitVec.ofNat 8 g.id.vf, clust := BitVec.ofNat 48 (((s.cluster? g.id.cluster).map (·.clustid)).getD 0)
    team := BitVec.ofNat 4 (((s.team? g.id.team).map (·.num)).getD 0), grp := BitVec.ofNat 4 g.id.grpid, seq := 0, payload }

/-- Another device has accepted some of the oldest messages of a stream, how many being free (R206). -/
def State.accepted (s : State) (d : Word) : State :=
  if dstDev d = s.deviceNum then s
  else
    let (k, s1) := s.free
    let mine := (s1.fabric.sent.filter fun m => dstDev m.msg.dst == dstDev d && m.cls == dstCls d).take (k % 257)
    { s1 with fabric := { s1.fabric with sent := s1.fabric.sent.filter fun m => !mine.contains m } }

/-- With no room in the stream a word waits at issue, while the destination may accept older messages (R380). -/
def withRoom (s : State) (g : Group) (d : Word) (r : WordRes) : WordRes :=
  if 255 ≤ g.stcnt then .stall else if 256 ≤ s.streamLoad d then .hold (s.accepted d) g else r

/-- The message becomes a pending operation: it enters its stream once every older access has performed (R380). -/
def sendWord (s : State) (g : Group) (d : Word) (kind : BitVec 2) (payload : List (BitVec 32)) : WordRes :=
  let op : MemOp := { id := g.nextInst, inst := g.nextInst, kind := .fsend (s.message g d kind payload), space := .device, parts := []
                      ord := 2, pc := g.pc, ltime := g.ltime }
  .next s { g with ops := g.ops ++ [op], nextInst := g.nextInst + 1 }

def execFsend (o : OpE) (s : State) : Host.Outcome State Fault Refusal :=
  runWord s (.fsend o) fun s g => settled g <|
    let d := g.getS o.sb1.toNat
    let lanes := (List.range 16).filter fun l => g.live.getLsbD l
    match firstTrap [g.checkV 1 o.a 1 (lanes.map fun l => (l, l)), s.dstTrap d] with
    | some t => .trap t
    | none => withRoom s g d <| sendWord s g d 0 ((List.range 16).map fun l => g.fetchV o.a 0 l)

/-- Bytes of the stash as the group sees them at issue: its pending stores lie over the rows (R202). -/
def Group.seesBytes (g : Group) (s : State) (a n : Nat) : List Byte :=
  g.ops.foldl (fun bs o => match o.kind, o.space with
    | .store, .stash => o.parts.foldl (fun bs p => bs.zipIdx.map fun (b, i) =>
        if p.addr ≤ a + i ∧ a + i < p.addr + p.size then nth b p.data (a + i - p.addr) else b) bs
    | _, _ => bs) (Memory.readN s.stash a n)

/-- `fsend.s` reads its payload from the stash at issue, with the checks of R197, R231 and R239. -/
def execFsendS (o : OpE) (s : State) : Host.Outcome State Fault Refusal :=
  runWord s (.fsendS o) fun s g => settled g <|
    let d := g.getS o.sb1.toNat
    let a := g.getS o.sb2.toNat
    match s.dstTrap d with
    | some t => .trap t
    | none => match (if a.toNat / 2 ^ 32 ≠ 0 then .error (mkTrap 3 4 a.toNat) else s.stashByte g a) with
      | .error t => .trap t
      | .ok b =>
        if a.toNat % 64 ≠ 0 then .trap (mkTrap 8 3 (a.toNat + 2 ^ 64 * 6))
        else match s.lockTrap g true (b / Config.stashBytes) (b % Config.stashBytes) (b % Config.stashBytes + 64) false a.toNat none with
          | some t => .trap t
          | none => withRoom s g d <|
            let s1 := s.fillRow (b / lineBytes) g.id.vf g.id.cls
            let loc (i : Nat) : Nat := s1.locOf .stash (b + i)
            let c := s1.confOf g g.ltime false false false
            let clash := if s.det g.id.vf then (List.range 64).findSome? fun i => (s1.conflictAt (loc i) c g.mxSeen).map fun x => (i, x) else none
            match clash with
            | some (i, x) => .trap (conflictTrap (a.toNat + i) 0 x false none)
            | none =>
              let s2 := if s.det g.id.vf then (List.range 64).foldl (fun s i => s.conflictPut (loc i) c) s1 else s1
              match s2.orderIn g.id.vf g.collator { key := locLine (loc 0), agent := s2.agentOf g, write := false, time := g.ltime } with
              | .hold => .stall
              | .diverge => .trap (divergence 5 4 g.ltime)
              | .go s3 =>
                let bs := g.seesBytes s3 b 64
                sendWord s3 g d 1 ((List.range 16).map fun j => BitVec.ofNat 32 (leNat ((bs.drop (4 * j)).take 4)))

/-- `frecv` (R381): a pending read-modify-write of its mailbox. -/
def execFrecv (o : OpE) (s : State) : Host.Outcome State Fault Refusal :=
  runWord s (.frecv o) fun s g => settled g <|
    let w := g.getS o.sb1.toNat
    let mb := w.toNat % 64
    match g.checkV 0 o.d 1 [] with
    | some t => .trap t
    | none =>
      if w.toNat / 64 ≠ 0 then .trap (mkTrap 21 1 w.toNat)
      else if !(((s.vf g.id.vf).mboxes.find? fun e => e.1 == mb).map fun e => e.2.v).getD false then .trap (mkTrap 21 3 mb)
      else if 255 ≤ g.ldcnt then .stall
      else
        let late := s.det g.id.vf
        let op : MemOp := { id := g.nextInst, inst := g.nextInst, kind := .frecv o.a.toNat mb, space := .device
                            parts := (lanesOf g.live).map fun l => { lane := l, va := 0, addr := 0, size := 4, reg := o.d.toNat }
                            ord := 1, unchecked := late, pc := g.pc, ltime := g.ltime, since := s.ns }
        let s1 := if late then { s with shadows := s.shadows ++ [{ key := g.id.key, inst := op.id, group := g }] } else s
        .next s1 { g with ops := g.ops ++ [op], nextInst := g.nextInst + 1 } { pend := some op.inst }

-- ## die links

/-- The share of a partition on a leaf's link (R361). -/
def State.share (s : State) (leaf part : Nat) : Option LinkShare := (nth DieLink.reset s.links leaf).shares.find? fun x => x.part == part

/-- Bundles of a share in direction R (R368). -/
def DieLink.reads (l : DieLink) (x : LinkShare) : Nat := (((l.dirs.drop x.base).take x.n).filter fun b => b).length

/-- `dlink.stat` (R368). -/
def execDlinkStat (o : OpE) (s : State) : Host.Outcome State Fault Refusal :=
  runWord s (.dlinkStat o) fun s g =>
    if s.timingRefused g.id.vf then .trap (mkTrap 16 1 0x2000)
    else
      let leaf := leafOf g.id.core
      let part := ((s.partOf g.id.vf).map (·.num)).getD 12
      let q := Sparse.get 0 (nth DieLink.reset s.links leaf).queued part
      let v : Nat := (s.dlb g.id.vf).toNat * 2 ^ 20 + (match s.share leaf part with
        | some x => x.turns % 2 ^ 32 * 2 ^ 32 + (q != 0).toNat * 2 ^ 19 + q * 2 ^ 16
            + (nth DieLink.reset s.links leaf).reads x * 2 ^ 8 + x.n
        | none => 0)
      let (w, s1) := s.timed g 0x2000 (BitVec.ofNat 64 v)
      settled g (setScalar s1 g o.d.toNat w)

/-- `dlink.turn` (R367): with DLB = 1 the request takes the place of the partition's queued one. -/
def execDlinkTurn (o : OpI) (s : State) : Host.Outcome State Fault Refusal :=
  runWord s (.dlinkTurn o) fun s g =>
    if s.dlb g.id.vf then
      let leaf := leafOf g.id.core
      let part := ((s.partOf g.id.vf).map (·.num)).getD 12
      let l := nth DieLink.reset s.links leaf
      settled g (.next { s with links := putNth s.links leaf { l with queued := Sparse.set 0 l.queued part o.imm.toNat } } g)
    else .next s g

/-- `sig.mark` (R395): with LOG = RECORD the team's signature closes after it; in REPLAY the mark tells only where the last
logged signature ends. -/
def execSigMark (o : OpA) (s : State) : Host.Outcome State Fault Refusal :=
  runWord s (.sigMark o) fun s g =>
    if s.log g.id.vf ≠ 0 then
      match s.team? g.id.team with
      | some t => settled g (.next (s.setTeam { t with sig := { t.sig with mark := true } }) g)
      | none => .next s g
    else .next s g

end Sys2Proof.Machine
end

