-- ==== Sys2Proof/Machine/Launch.lean ====
section
/-! DEFINITION. Task graphs (R159 to R168): the scheduler's own accesses, loading a graph image, triggers, patch lists, the
start of a launch, the release and completion of nodes, and the completion record. -/
namespace Sys2Proof.Machine

-- ## the scheduler's accesses (R167)

/-- The scheduler of a VF as an agent. -/
def scheduler (vf : Nat) : Agent := outsideAgent 3 vf

/-- Bytes of a virtual range by 64 KiB page: address and length of each part. -/
def pageParts (va n : Nat) : List (Nat × Nat) :=
  (List.range ((va % 65536 + n + 65535) / 65536)).map fun i =>
    let lo := max va ((va / 65536 + i) * 65536)
    (lo % 2 ^ 64, min (va + n) ((va / 65536 + i + 1) * 65536) - lo)

/-- Every part translated: physical address and length. -/
def State.schedXlate (s : State) (vf : Nat) (acc : Access) : List (Nat × Nat) → Except TrapReq (List (Nat × Nat)) × State
  | [] => (.ok [], s)
  | (va, n) :: r =>
    match s.translate { core := none, vf, sys := true } acc (BitVec.ofNat 64 va) with
    | (.error t, s) => (.error t, s)
    | (.ok (pa, _), s) => match s.schedXlate vf acc r with
      | (.error t, s) => (.error t, s)
      | (.ok l, s) => (.ok ((pa, n) :: l), s)

/-- The lines of a physical range in order of their records (R393); an error while a replay holds one. -/
def State.orderLines (s : State) (vf : Nat) (ag : Agent) (pa n : Nat) (write : Bool) : Except State State :=
  (List.range ((pa % lineBytes + n + lineBytes - 1) / lineBytes)).foldl (fun o i => o.bind fun s =>
    s.spineOrder vf { key := pa / lineBytes + i, agent := ag, write }) (.ok s)

/-- A read by the scheduler of a VF. -/
def State.schedRead (s : State) (vf va n : Nat) : Except TrapReq (List Byte) × State :=
  match s.schedXlate vf .read (pageParts va n) with
  | (.error t, s) => (.error t, s)
  | (.ok l, s) =>
    match l.foldl (fun (o : Except State (List Byte × State)) (pa, k) => o.bind fun (bs, s) =>
        (s.orderLines vf (scheduler vf) pa k false).map fun s => let (b, s) := s.readMem pa k; (bs ++ b, s)) (.ok ([], s)) with
    | .error s => (.error heldWalk, s)
    | .ok (bs, s) => (.ok bs, s)

/-- A write by the scheduler of a VF, a release at system scope, recorded by the scope checker. -/
def State.schedWrite (s : State) (vf va : Nat) (bs : List Byte) : Except TrapReq Unit × State :=
  match s.schedXlate vf .write (pageParts va bs.length) with
  | (.error t, s) => (.error t, s)
  | (.ok l, s) =>
    match l.foldl (fun (o : Except State (List Byte × State)) (pa, k) => o.bind fun (rest, s) =>
        (s.orderLines vf (scheduler vf) pa k true).map fun s =>
          (rest.drop k, (s.writeMem pa (rest.take k)).scopePut (scheduler vf) (pa / lineBytes) 3)) (.ok (bs, s)) with
    | .error s => (.error heldWalk, s)
    | .ok (_, s) => (.ok (), s)

/-- A fault of a scheduler's access that is not a refusal (R167). -/
def TrapReq.waits (t : TrapReq) : Bool := replayable t.grp t.code && !(t.grp == 6 && 3 ≤ t.code) && !(t.grp == 7 && t.code == 4)

/-- Bytes 24 to 31 of a record of the spine (R314): node, chunk, graph slot. -/
def engAddr (node chunk slot : Nat) : Word := BitVec.ofNat 64 (node % 65536 + chunk % 2 ^ 32 * 2 ^ 16 + slot % 64 * 2 ^ 48)

/-- A fault of a spine agent is queued for its ring (R167, R280); none when the ring is disabled. -/
def State.postEngine (s : State) (vf : Nat) (t : TrapReq) (addr : Word) (rpl : Bool) : Option Nat × State :=
  let r := faultRing s vf t
  if (s.ring r).enabled then
    let (fid, s1) := s.queueRecord r (fun fid => recordBytes t rpl fid (2 ^ 15) vf addr) none
    (some (faultTag r fid), s1)
  else (none, s)

-- ## graph slots

/-- The graph slot of a VF, if it holds a graph. -/
def State.slot? (s : State) (vf k : Nat) : Option GraphSlot := ((s.vf vf).slots.find? fun e => e.1 == k).map (·.2)

def State.setSlot (s : State) (vf k : Nat) (x : GraphSlot) : State :=
  let v := s.vf vf
  s.setVf { v with slots := putKey v.slots k x }

/-- VFSOFT of a VF's slot in its partition (R325). -/
def State.soft (s : State) (vf : Nat) : Word :=
  match s.partOf vf with
  | some p => ((p.slotOf vf).map fun i => nth 0 p.force.vfsoft i).getD 0
  | none => 0

/-- GSTAT's SLOT and LAST (R166). -/
def State.setGstat (s : State) (vf slot last : Nat) : State := s.setVf { s.vf vf with gstat := BitVec.ofNat 64 (slot + last * 2 ^ 24) }

/-- The partition of a VF replays: its STATE is 2 or more (R404). -/
def State.replaying (s : State) (vf : Nat) : Bool := ((s.partOf vf).map fun p => decide (2 ≤ p.log.rpstat.toNat % 256)).getD false

/-- Fields of the header word of a node record (R161). -/
def nodeType (r : List Word) : Nat := wfield (nth 0 r 0) 0 3
def nodeClass (r : List Word) : Nat := wfield (nth 0 r 0) 6 2
def nodeDeps (r : List Word) : Nat := wfield (nth 0 r 0) 48 16

/-- Format words of a kernel payload. -/
def nodeFormats (r : List Word) : List (BitVec 32) :=
  (List.range 8).map fun i => BitVec.ofNat 32 (wfield (nth 0 r (11 + i / 2)) (32 * (i % 2)) 32)

/-- A kernel payload is valid (R162). -/
def kernelOk (r : List Word) : Bool :=
  let w (k : Nat) : Word := nth 0 r k
  let gx := w 8
  let sh := w 9
  let n := wfield sh 8 5
  let ww := wfield sh 0 4
  let hh := wfield sh 4 4
  let gs := (List.range 4).map fun i => wfield sh (23 + 4 * i) 4
  let vg := wfield (w 10) 32 32
  (w 6).toNat % 8 == 0 && (w 7).toNat % 8 == 0
    && wfield gx 0 16 != 0 && wfield gx 16 16 != 0 && wfield gx 32 16 != 0 && wfield gx 48 16 == 0
    && 1 ≤ ww && ww ≤ 6 && 1 ≤ hh && hh ≤ 6 && ww * hh ≤ 12 && 1 ≤ n && n ≤ 16
    && 1 ≤ wfield sh 13 5 && wfield sh 13 5 ≤ 16 && wfield sh 18 4 ≤ 8
    && (if sh.getLsbD 22 then gs.eraseDups.length == 4 && gs.all (fun g => g < n) else wfield sh 23 16 == 0)
    && wfield sh 40 24 == 0 && wfield (w 10) 0 32 ≤ 4096 && (vg == 0 || (vg ≤ 65536 && vg % (ww * hh) == 0))
    && (!(w 0).getLsbD 10 || (nodeFormats r).all fun x => Fmt.entryRefusal x == 0)

/-- A node record keeps R161, and R162 for a kernel. -/
def nodeOk (r : List Word) : Bool :=
  let h := nth 0 r 0
  let n := wfield h 32 16
  let succ (i : Nat) : Nat := wfield (nth 0 r (1 + i / 4)) (16 * (i % 4)) 16
  n ≤ 20 && wfield h 11 21 == 0 && wfield h 3 3 == 0 && nodeType r ≤ 4
    && ((List.range 20).drop n).all (fun i => succ i == 0) && (nodeType r != 0 || kernelOk r)

/-- 64-bit words of a byte list. -/
def wordsOf (bs : List Byte) : List Word := (List.range (bs.length / 8)).map fun i => BitVec.ofNat 64 (leNat ((bs.drop (8 * i)).take 8))

/-- The nodes of an image are a graph (R160). -/
def graphOk (nodes : List (List Word)) : Bool :=
  let all := nodes.flatMap nodeSuccs
  nodes.all nodeOk && all.all (fun i => i < nodes.length)
    && nodes.zipIdx.all (fun (r, i) => nodeDeps r == (nodes.filter fun q => (nodeSuccs q).contains i).length)
    && (List.range nodes.length).all fun i => !reaches nodes i nodes.length (nodeSuccs (nth [] nodes i))

/-- Nodes that a VF's other slots hold. -/
def State.nodesHeld (s : State) (vf but : Nat) : Nat := (((s.vf vf).slots.filter fun e => e.1 != but).map fun e => e.2.nodes.length).sum

/-- GLOAD (R160, R166, R167): the image is read and checked whole; a replayable fault keeps the load waiting. -/
def State.gload (s : State) (vf : Nat) (value : Word) : State :=
  let slot := value.toNat % 64
  let img := value.toNat / 256 * 256
  let soft := s.soft vf
  let pending : Bool := ((s.slot? vf slot).map fun x => x.running.isSome || !x.queue.isEmpty).getD false
  let refuse (s : State) (code : Nat) : State := s.setGstat vf slot code
  let meet (s : State) (t : TrapReq) : State :=
    if t.grp = 31 then s.setVf { s.vf vf with gloadWait := (s.vf vf).gloadWait ++ [(value, 2 ^ 33)] }
    else if t.waits then
      match s.postEngine vf t (engAddr 0xFFFF 0 slot) true with
      | (some tag, s) => s.setVf { s.vf vf with gloadWait := (s.vf vf).gloadWait ++ [(value, tag)] }
      | (none, s) => refuse s 4
    else refuse s 4
  if wfield soft 48 7 ≤ slot then refuse s 1
  else if value.toNat / 64 % 4 ≠ 0 ∨ pending then refuse s 4
  else match s.schedRead vf img 256 with
    | (.error t, s) => meet s t
    | (.ok hb, s) =>
      let h := wordsOf hb
      let n := wfield (nth 0 h 0) 0 16
      let bad : Bool := wfield (nth 0 h 0) 16 48 != 0 || (nth (0 : Word) h 1).toNat % 16 != 0 || (h.drop 2).any (fun w => w != 0)
      if bad ∨ n = 0 ∨ wfield soft 32 16 < n + s.nodesHeld vf slot then refuse s 4
      else match s.schedRead vf (img + 256) (256 * n) with
        | (.error t, s) => meet s t
        | (.ok bs, s) =>
          let ws := wordsOf bs
          let nodes := (List.range n).map fun i => (ws.drop (32 * i)).take 32
          if graphOk nodes then
            let done := ((s.slot? vf slot).map (·.done)).getD 0
            (s.setSlot vf slot { nodes, compl := nth 0 h 1, count := 0, done, queue := [], running := none, pl := 0 }).setGstat vf slot 0
          else refuse s 4

/-- The event GLOAD: discarded while the partition replays (R404). -/
def execGload (vf : Nat) (value : BitVec 64) (s : State) : Host.Outcome State Fault Refusal :=
  if s.replaying vf then .next s else .next (s.gload vf value)

/-- TRIG (R164 to R166). -/
def State.trig (s : State) (vf : Nat) (value : Word) : State :=
  let k := value.toNat % 64
  match (if wfield (s.soft vf) 48 7 ≤ k then none else s.slot? vf k) with
  | none => s.setGstat vf k 1
  | some x => if 4 ≤ x.queue.length then s.setGstat vf k 2 else (s.setSlot vf k { x with queue := x.queue ++ [value] }).setGstat vf k 0

def execTrig (vf : Nat) (value : BitVec 64) (s : State) : Host.Outcome State Fault Refusal :=
  if s.replaying vf then .next s else .next (s.trig vf value)

-- ## nodes

/-- A node becomes ready: it joins the queue of its class (R163, R168). -/
def State.releaseNode (s : State) (vf k idx : Nat) : State :=
  match s.slot? vf k with
  | none => s
  | some x => match x.running with
    | none => s
    | some l =>
      let c := nodeClass (nth [] x.nodes idx)
      let s1 := s.setSlot vf k { x with running := some { l with nodes := l.nodes.map fun n => if n.idx = idx then { n with state := .ready } else n } }
      let v := s1.vf vf
      s1.setVf { v with queues := putNth v.queues c (nth [] v.queues c ++ [{ gslot := k, node := idx, time := s.clock }]) }

/-- The run of a node changes. -/
def State.setNode (s : State) (vf k idx : Nat) (f : NodeRun → NodeRun) : State :=
  match s.slot? vf k with
  | some x => match x.running with
    | some l => s.setSlot vf k { x with running := some { l with nodes := l.nodes.map fun n => if n.idx = idx then f n else n } }
    | none => s
  | none => s

def State.node? (s : State) (vf k idx : Nat) : Option NodeRun :=
  ((s.slot? vf k).bind (·.running)).bind fun l => l.nodes.find? fun n => n.idx == idx

/-- The node leaves its queue. -/
def State.unqueue (s : State) (vf k idx : Nat) : State :=
  let v := s.vf vf
  s.setVf { v with queues := v.queues.map fun q => q.filter fun i => !(i.gslot == k && i.node == idx) }

/-- A node completes (R163): its successors count it, and one that has all its predecessors becomes ready, unless the launch
has failed (R165). -/
def State.nodeDone (s : State) (vf k idx : Nat) : State :=
  let s1 := (s.unqueue vf k idx).setNode vf k idx fun n => { n with state := .done }
  match s1.slot? vf k with
  | none => s1
  | some x => (nodeSuccs (nth [] x.nodes idx)).eraseDups.foldl (fun s j =>
      let s2 := s.setNode vf k j fun n => { n with deps := n.deps + 1 }
      match s2.node? vf k j, (s2.slot? vf k).bind (·.running) with
      | some n, some l => if n.state = .waiting ∧ n.deps = nodeDeps (nth [] x.nodes j) ∧ l.failure.isNone then s2.releaseNode vf k j else s2
      | _, _ => s2) s1

/-- A launch fails with a code of R166 (R165): GSTAT reports it at once; nodes that have not started leave their queues. -/
def State.failLaunch (s : State) (vf k code node : Nat) : State :=
  match s.slot? vf k with
  | none => s
  | some x => match x.running with
    | none => s
    | some l =>
      let l' := if l.failure.isSome then l else { l with failure := some (code, node, 0) }
      let s1 := s.setSlot vf k { x with running := some { l' with nodes := l'.nodes.map fun n => if n.state = .ready ∨ (n.idx = node ∧ n.state = .running)
        then { n with state := .failed } else n }, pl := 0 }
      let v := s1.vf vf
      let s2 := s1.setVf { v with queues := v.queues.map fun q => q.filter fun i => !(i.gslot == k && ((s.node? vf k i.node).map fun n => n.state == .ready).getD false) }
      if l.failure.isNone then s2.setGstat vf k code else s2

-- ## the start of a launch (R165)

/-- One entry of a patch list: node, word offset, value; none when the entry is invalid. -/
def patchEntry (nodes : Nat) (e : List Word) : Option (Nat × Nat × Word) :=
  let h := nth 0 e 0
  let k := wfield h 16 8
  if nodes ≤ wfield h 0 16 ∨ k < 6 ∨ 31 < k ∨ wfield h 24 40 ≠ 0 then none else some (wfield h 0 16, k, nth 0 e 1)

/-- The checks of a patch list after its header: the failing node, or the patched records. -/
def patchNodes (nodes : List (List Word)) (es : List (List Word)) : Except Nat (List (List Word)) :=
  match es.find? fun e => (patchEntry nodes.length e).isNone with
  | some e => .error (wfield (nth 0 e 0) 0 16)
  | none =>
    let l := es.foldl (fun ns e => match patchEntry nodes.length e with
      | some (n, k, w) => putNth ns n (putNth (nth [] ns n) k w)
      | none => ns) nodes
    match l.zipIdx.find? fun (r, _) => nodeType r == 0 && !kernelOk r with
    | some (_, i) => .error i
    | none => .ok l

/-- The patch list of a launch is applied, and its roots are released. -/
def State.patchAndRun (s : State) (vf k : Nat) (x : GraphSlot) (l : Launch) : State :=
  let roots (s : State) (x : GraphSlot) : State :=
    x.nodes.zipIdx.foldl (fun s (r, i) => if nodeDeps r = 0 then s.releaseNode vf k i else s) (s.setSlot vf k { x with running := some { l with waiting := none } , pl := 0 })
  let pl := x.pl.toNat / 64 * 64
  let meet (s : State) (t : TrapReq) : State :=
    let wait (s : State) (tag : Nat) : State := s.setSlot vf k { x with running := some { l with waiting := some tag } }
    if t.grp = 31 then s
    else if t.waits then
      match s.postEngine vf t (engAddr 0xFFFF 0 k) true with
      | (some tag, s) => wait s tag
      | (none, s) => s.failLaunch vf k 3 0xFFFF
    else s.failLaunch vf k 3 0xFFFF
  if pl = 0 then roots s x
  else match s.schedRead vf pl 16 with
    | (.error t, s) => meet s t
    | (.ok hb, s) =>
      let h := wordsOf hb
      let n := wfield (nth 0 h 0) 0 16
      if 1024 < n ∨ wfield (nth 0 h 0) 16 48 ≠ 0 ∨ nth (0 : Word) h 1 ≠ 0 then s.failLaunch vf k 3 0xFFFF
      else match s.schedRead vf (pl + 16) (16 * n) with
        | (.error t, s) => meet s t
        | (.ok bs, s) =>
          let ws := wordsOf bs
          match patchNodes x.nodes ((List.range n).map fun i => (ws.drop (2 * i)).take 2) with
          | .error node => s.failLaunch vf k 3 node
          | .ok nodes => roots s { x with nodes }

/-- LAUNCH_START (R165): the oldest accepted request of a slot whose previous launch has completed begins; a start that waits
for a replay goes on when it is released. -/
def State.launchStart (s : State) (vf k : Nat) : State :=
  match s.slot? vf k with
  | none => s
  | some x => match x.running with
    | some l => if x.pl = 0 ∨ l.waiting.isSome ∨ l.failure.isSome then s else s.patchAndRun vf k x l
    | none => match x.queue with
      | [] => s
      | r :: rest =>
        let l : Launch := { count := (x.count + 1) % 2 ^ 42, failure := none, waiting := none, colophon := [], noRecord := false
                            nodes := x.nodes.zipIdx.map fun (_, i) => { idx := i, state := .waiting, deps := 0, placed := 0, retired := 0, life := 0, copy := none, wait := none } }
        -- bit 0 marks a start under way, whatever the patch-list address
        let x1 := { x with queue := rest, count := x.count + 1, running := some l, pl := r ||| 1 }
        (s.setSlot vf k x1).patchAndRun vf k x1 l

def execLaunchStart (vf slot : Nat) (s : State) : Host.Outcome State Fault Refusal := .next (s.launchStart vf slot)

-- ## the end of a launch (R165, R167, R402)

/-- Nothing of the launch runs: every node is done, or the launch has failed and no node or cluster is left. -/
def State.launchOver (s : State) (vf k : Nat) (l : Launch) : Bool :=
  let busy : Bool := s.clusters.any fun c => c.vf == vf && c.gslot == k
  if l.failure.isSome then !busy && l.nodes.all fun n => n.state != .running else l.nodes.all fun n => n.state == .done

/-- The colophon of a launch in RECORD (R400, R402): the run digest over its signatures in order, after the spine signature. In REPLAY
it is compared with the logged one, and a difference is a divergence of code 13 (R405). -/
def State.writeColophon (s : State) (vf k : Nat) (l : Launch) (status : Word) : State :=
  match s.partOf vf with
  | none => s
  | some p =>
    let d := l.colophon.foldl (fun d e => mix (mix d e.2.1) e.2.2) (BitVec.ofNat 64 l.count)
    let name : Word := BitVec.ofNat 64 (k * 2 ^ 58 + l.count)
    if s.log vf = 1 then (s.closeSpine vf name).writeRecord p.num spineCore (mkRecord p.num 3 l.count [name, status, d, 0])
    else if s.log vf = 2 then
      match p.log.replayLog.find? fun r => wfield (nth 0 r 0) 56 8 == 3 && nth 0 r 1 == name with
      | some r => if nth 0 r 2 = status ∧ nth 0 r 3 = d then s else s.divergePart p.num 13 2 (s.spineSig vf)
      | none => s
    else s

/-- LAUNCH_COMPLETE (R165): the completion record is written as a system-scope release, and the slot is free for its next launch. -/
def execLaunchComplete (vf slot : Nat) (s : State) : Host.Outcome State Fault Refusal :=
  match s.slot? vf slot with
  | none => .next s
  | some x => match x.running with
    | none => .next s
    | some l =>
      if !(s.launchOver vf slot l) ∨ x.pl ≠ 0 ∨ l.waiting.isSome then .next s
      else
        let status : Word := match l.failure with
          | none => 0
          | some (code, node, cause) => BitVec.ofNat 64 (code + node * 2 ^ 16 + cause * 2 ^ 32)
        let close (s : State) : State :=
          match s.slot? vf slot with
          | some y =>
            let s1 := s.setSlot vf slot { y with running := none, done := y.done + 1 }
            let v := s1.vf vf
            ({ s1.setVf { v with queues := v.queues.map fun (q : List QItem) => q.filter fun (i : QItem) => i.gslot != slot } with
                slots := s1.slots.filter fun x => !(x.vf == vf && x.gslot == slot) }).writeColophon vf slot l status
          | none => s
        if l.noRecord then .next (close s)
        else match s.schedWrite vf x.compl.toNat (leBytes 8 l.count ++ leBytes 8 status.toNat) with
          | (.ok _, s) => .next (close s)
          | (.error t, s) =>
            if t.grp = 31 then .next s
            else if t.waits then
              match s.postEngine vf t (engAddr 0xFFFF 0 slot) true with
              | (some tag, s) => .next (s.setSlot vf slot { x with running := some { l with waiting := some tag } })
              | (none, s) => .next (close s)
            else .next (close (s.postEngine vf t (engAddr 0xFFFF 0 slot) false).2)

end Sys2Proof.Machine
end

