-- ==== Sys2Proof/Machine/Messages.lean ====
section
/-! DEFINITION. The fabric between devices: streams and the arrival of messages (R206, R376 to R378), acceptance (R380), NACKs
and lost ports (R377, R386), mailboxes (R375), and writes of outside agents to the memory of the device (R385, R388, R390). -/
namespace Sys2Proof.Machine

-- ## streams

/-- A message enters the ordered stream of its destination and class, with the next message number, its packet number and its port
(R206, R373, R376, R380). -/
def State.enterStream (s0 : State) (m : Msg) (vf : Nat) : State :=
  let k := fabricStream (dstDev m.dst) (dstCls m.dst)
  let (num, s) := s0.stamp k
  let n := Sparse.get 0 s.fabric.seqOut k
  let m1 : FabMsg := { msg := { m with seq := BitVec.ofNat 32 n }, cls := dstCls m.dst, vf, num, port := s.portFor (dstDev m.dst) (dstCls m.dst) }
  { s with fabric := { s.fabric with seqOut := Sparse.set 0 s.fabric.seqOut k ((n + 1) % 2 ^ 32), sent := s.fabric.sent ++ [m1] } }

/-- A NACK is recorded at the VF that sent the message (R377). -/
def State.nack (s : State) (vf dev part mbx reason : Nat) : State :=
  let v := s.vf vf
  let n := (wfield v.fnack 32 32 + 1) % 2 ^ 32
  s.setVf { v with fnack := BitVec.ofNat 64 (n * 2 ^ 32 + reason % 256 * 2 ^ 24 + mbx % 64 * 2 ^ 18 + part % 16 * 2 ^ 14 + dev % 8192) }

/-- A message leaves (R380, R384). One for a device that no port reaches any more is discarded with a NACK of reason 2 (R386). One of
a partition that replays goes to another device only when that replays too, which is free here, and is else discarded without a NACK
(R407; log entry 56). -/
def State.sendMessage (s : State) (m : Msg) (vf : Nat) : State :=
  let dev := dstDev m.dst
  if dev = s.deviceNum then s.enterStream m vf
  else if s.log vf = 2 then
    let (k, s1) := s.free
    if k % 2 = 0 then s1 else s1.enterStream m vf
  else if (s.routeSet dev).isEmpty then s.nack vf dev (dstPart m.dst) (dstMbx m.dst) 2
  else s.enterStream m vf

/-- The entry of a message (R376). -/
def msgEntry (m : Msg) : List Byte :=
  let w16 := m.srcDev.toNat + dstCls m.dst * 2 ^ 16 + m.kind.toNat * 2 ^ 18 + m.srcPart.toNat * 2 ^ 20
  let w19 := m.clust.toNat / 2 ^ 32 + m.team.toNat * 2 ^ 16 + m.grp.toNat * 2 ^ 20
  ((List.range 16).flatMap fun i => leBytes 4 (nth (0 : BitVec 32) m.payload i).toNat)
    ++ leBytes 4 w16 ++ leBytes 4 m.srcVf.toNat ++ leBytes 4 (m.clust.toNat % 2 ^ 32) ++ leBytes 4 w19 ++ leBytes 4 m.seq.toNat ++ leBytes 44 0

/-- The VF of a partition that holds an enabled mailbox (R375). -/
def State.mailboxOwner (s : State) (p : Partition) (mb : Nat) : Option (Nat × FabMbox) :=
  (p.vfsOf 65535).findSome? fun v => ((s.vf v).mboxes.find? fun e => e.1 == mb && e.2.v).map fun e => (v, e.2)

/-- A mailbox register of a VF. -/
def State.setMbox (s : State) (vf mb : Nat) (x : FabMbox) : State :=
  let v := s.vf vf
  s.setVf { v with mboxes := putKey v.mboxes mb x }

/-- An ARR event names this message: source device, class, source partition, number and mailbox (R396). -/
def isArr (m : Msg) (e : LogEvent) : Bool :=
  e.code == 7 && wfield (nth 0 e.more 0) 0 32 == m.seq.toNat && wfield (nth 0 e.more 0) 32 6 == dstMbx m.dst
    && (e.a.extractLsb' 0 13) == m.srcDev && (e.a.extractLsb' 16 2).toNat == dstCls m.dst && (e.a.extractLsb' 20 4) == m.srcPart

/-- In REPLAY a mailbox admits an arrival only when it is the mailbox's next logged one, of some group (R407). -/
def State.admits (s : State) (p : Partition) (m : Msg) : Bool :=
  if (p.mode.extractLsb' 2 2).toNat = 2 then
    s.teams.any fun t => ((s.cluster? t.cluster).map fun c => (p.slotOf c.vf).isSome).getD false &&
      (List.range 16).any fun i =>
        ((t.sig.events.find? fun e => e.code == 7 && e.grp == i && wfield (nth 0 e.more 0) 32 6 == dstMbx m.dst).map (isArr m)).getD false
  else true

/-- A message at the head of its stream (R377): written, or discarded with a NACK to its source; none while it must be held. A message
that a replaying partition of this device sends to one that does not replay is discarded (R407). -/
def State.takeMessage (s : State) (m : FabMsg) : Option State :=
  let p := s.part (dstPart m.msg.dst)
  let mb := dstMbx m.msg.dst
  let own : Bool := m.msg.srcDev.toNat == s.deviceNum
  if own ∧ s.log m.msg.srcVf.toNat = 2 ∧ (p.mode.extractLsb' 2 2).toNat ≠ 2 then some s
  else match s.mailboxOwner p mb with
  | none => some (if own then s.nack m.msg.srcVf.toNat s.deviceNum p.num mb 1
      else { s with fabric := { s.fabric with replies := s.fabric.replies ++ [.nack m.msg.srcDev.toNat m.msg.srcVf.toNat p.num mb 1] } })
  | some (v, x) =>
    if 256 ≤ x.count ∨ !s.admits p m.msg ∨ s.linkBlocks ((x.pa + 128 * ((x.head + x.count) % 256)) / lineBytes) then none
    else some ((s.writeMem (x.pa + 128 * ((x.head + x.count) % 256)) (msgEntry m.msg)).setMbox v mb { x with count := x.count + 1, arr := x.arr + 1 })

/-- The messages of a stream that are next in number are handled, as far as none must be held (R206). -/
def State.drainStream (s : State) (dev cls : Nat) : Nat → State
  | 0 => s
  | fuel + 1 =>
    let k := fabricStream dev cls
    let n := Sparse.get 0 s.fabric.seqIn k
    match s.fabric.held.find? fun m => m.msg.srcDev.toNat == dev && m.cls == cls && m.msg.seq.toNat == n with
    | none => s
    | some m => match s.takeMessage m with
      | none => s
      | some s1 => { s1 with fabric := { s1.fabric with held := s1.fabric.held.erase m, seqIn := Sparse.set 0 s1.fabric.seqIn k ((n + 1) % 2 ^ 32) } }.drainStream dev cls fuel

/-- FABRIC_ARRIVAL (R377): a message of another device, or one this device sent to itself, reaches the reorder buffer of its
stream, and what is next in order is handled. A message already there is tried again. -/
def execFabricArrival (m : Msg) (s : State) : Host.Outcome State Fault Refusal :=
  let dev := m.srcDev.toNat
  let cls := dstCls m.dst
  let isM (x : FabMsg) : Bool := x.msg == m
  if dstDev m.dst ≠ s.deviceNum ∨ 12 ≤ dstPart m.dst then .next s
  else if s.fabric.held.any isM then .next (s.drainStream dev cls 257)
  else if dev = s.deviceNum then
    match s.fabric.sent.find? isM with
    | none => .next s
    | some x => .next ({ s with fabric := { s.fabric with sent := s.fabric.sent.erase x, held := s.fabric.held ++ [x] } }.drainStream dev cls 257)
  else
    let ahead := (m.seq.toNat + 2 ^ 32 - Sparse.get 0 s.fabric.seqIn (fabricStream dev cls)) % 2 ^ 32
    let same (x : FabMsg) : Bool := x.msg.srcDev == m.srcDev && x.cls == cls && x.msg.seq == m.seq
    if 256 ≤ ahead ∨ s.fabric.held.any same then .next s
    else .next ({ s with fabric := { s.fabric with held := s.fabric.held ++ [({ msg := m, cls, vf := 0 } : FabMsg)] } }.drainStream dev cls 257)

/-- FABRIC_ACCEPT (R380): the port accepts a group's message once every older access of the group has performed. -/
def execFabricAccept (key op : Nat) (s : State) : Host.Outcome State Fault Refusal :=
  match s.group? key with
  | none => .next s
  | some g => match g.ops with
    | o :: rest => match o.kind with
      | .fsend m =>
        if o.id ≠ op then .next s
        else if 256 ≤ s.streamLoad m.dst then .next (s.accepted m.dst)
        else .next ((s.setGroup { g with ops := rest }).sendMessage m g.id.vf)
      | .load | .store | .rmw _ | .red _ | .mboxPut _ | .mboxGet _ | .sload _ | .frecv _ _ => .next s
    | [] => .next s

/-- NACK_RECEIVE (R377): another device has refused a message of a VF. -/
def execNackReceive (vf dev part mbx reason : Nat) (s : State) : Host.Outcome State Fault Refusal :=
  if 192 ≤ vf ∨ (reason ≠ 1 ∧ reason ≠ 2) then .next s else .next (s.nack vf dev part mbx reason)

/-- PORT_DOWN (R386): the port leaves every route set, and what is not acknowledged is sent again by the ports that are left. Packets
to a device that no port reaches now are discarded, each message with a NACK of reason 2; how many messages the device had already
accepted is free. -/
def execPortDown (port : Nat) (s : State) : Host.Outcome State Fault Refusal :=
  let s1 := { s with fabric := { s.fabric with portsUp := putNth s.fabric.portsUp port false } }
  let lost (m : FabMsg) : Bool := dstDev m.msg.dst != s1.deviceNum && (s1.routeSet (dstDev m.msg.dst)).isEmpty
  let streams := ((s1.fabric.sent.filter lost).map fun m => m.msg.dst).eraseDups
  let s2 := streams.foldl (fun s d => s.accepted d) s1
  let gone := s2.fabric.sent.filter lost
  .next (gone.foldl (fun s m => s.nack m.vf (dstDev m.msg.dst) (dstPart m.msg.dst) (dstMbx m.msg.dst) 2)
    { s2 with fabric := { s2.fabric with
        sent := (s2.fabric.sent.filter fun m => !lost m).map fun (m : FabMsg) => { m with port := s2.portFor (dstDev m.msg.dst) m.cls }
        chunks := (s2.fabric.chunks.filter fun c => !(s2.routeSet c.dev).isEmpty).map fun (c : CopyPacket) => { c with port := s2.portFor c.dev c.cls } } })

/-- TRANSIT_FORWARD (R373): a packet for another device leaves by the port of its device and class, under the next number of that
stream here, and touches no memory. With no port left it is discarded. -/
def execTransitForward (dev cls : Nat) (s : State) : Host.Outcome State Fault Refusal :=
  if dev = s.deviceNum ∨ 8192 ≤ dev ∨ 4 ≤ cls ∨ (s.portFor dev cls).isNone then .next s else .next (s.stamp (fabricStream dev cls)).2

-- ## mailboxes (R375)

/-- A mailbox that was never enabled. -/
def FabMbox.none : FabMbox := { base := 0, pa := 0, leaf := 0, err := false, v := false, arr := 0, head := 0, count := 0 }

/-- The register of a VF's mailbox. -/
def State.mbox (s : State) (vf mb : Nat) : FabMbox := (((s.vf vf).mboxes.find? fun e => e.1 == mb).map (·.2)).getD FabMbox.none

/-- A write of FMBCFG. -/
def State.writeMbox (s : State) (vf mb : Nat) (w : Word) : State :=
  let base := w &&& ~~~0x7FFF
  let x : FabMbox := { s.mbox vf mb with base, leaf := wfield w 13 2 }
  match s.partOf vf with
  | none => s.setMbox vf mb { x with v := false, err := w.getLsbD 0, head := 0, count := 0 }
  | some p =>
    if !w.getLsbD 0 then s.setMbox vf mb (if x.v then { x with v := false, head := 0, count := 0 } else x)
    else
      let other : Bool := match s.mailboxOwner p mb with | some (v, _) => v != vf | none => false
      match s.stage2 vf base.toNat 1 0 7 with
      | (.error _, s1) => s1.setMbox vf mb { x with v := false, err := true, head := 0, count := 0 }
      | (.ok (e, lv), s1) =>
        let pa := leafPa e lv base.toNat
        if other ∨ entryMt e ≠ 0 ∨ !e.getLsbD 3 ∨ rangeOf pa = none ∨ rangeOf pa = some 2 then
          s1.setMbox vf mb { x with v := false, err := true, head := 0, count := 0 }
        else s1.setMbox vf mb { x with v := true, err := false, pa, head := 0, count := 0, arr := 0 }

/-- MAILBOX_ENABLE: a write of FMBCFG of mailbox `mbx` of a VF. -/
def execMailboxEnable (vf mbx : Nat) (value : BitVec 64) (s : State) : Host.Outcome State Fault Refusal :=
  if 192 ≤ vf ∨ 64 ≤ mbx then .next s else .next (s.writeMbox vf mbx value)

-- ## writes from outside (R385, R388, R393)

/-- The partition whose stage-2 tables map a physical address. -/
def State.partMapping (s : State) (pa : Nat) : Option Partition :=
  s.parts.find? fun p => p.ps2root.getLsbD 0 && (stage2Leaves s.mem levels (entryAddr p.ps2root)).any fun (b, n) => b ≤ pa && pa < b + n

/-- Bytes as words, the last one filled with zeros. -/
def wordsFill (bs : List Byte) : List Word := (List.range ((bs.length + 7) / 8)).map fun i => BitVec.ofNat 64 (leNat ((bs.drop (8 * i)).take 8))

/-- A write of an outside agent to one line; none while it waits for the Wiuno link. In RECORD it takes its place in the line's order,
and its event HWR or RWR carries its SEQ and its bytes, in place of a token (R388, R411). While a replay runs such writes are discarded
(R404). -/
def State.outsideLine (s : State) (vf : Nat) (a : Agent) (code : Nat) (pa : Nat) (bs : List Byte) (src : Nat) : Option State :=
  let line := pa / lineBytes
  if s.log vf = 2 ∧ s.replaying vf then some s
  else if s.linkBlocks line then none
  else if s.log vf = 1 then
    let ep := ((s.partOf vf).map (·.log.epoch)).getD 0
    let r := ((s.orderRec ep line).step a.num true).1
    let s1 := { s with orders := Sparse.set OrderRec.absent s.orders line r }.noteSpine vf code (bs.length % 256)
      (BitVec.ofNat 64 pa :: BitVec.ofNat 64 (r.seq.toNat * 2 ^ 8 + src * 2 ^ 51) :: wordsFill bs)
    some (s1.writeMem pa bs)
  else some (s.writeMem pa bs)

/-- Parts of a physical range by line: address and length. -/
def lineParts (pa n : Nat) : List (Nat × Nat) :=
  (List.range ((pa % lineBytes + n + lineBytes - 1) / lineBytes)).map fun i =>
    let lo := max pa ((pa / lineBytes + i) * lineBytes)
    (lo, min (pa + n) ((pa / lineBytes + i + 1) * lineBytes) - lo)

/-- A write of an outside agent to a range. -/
def State.outsideWrite (s : State) (vf : Nat) (a : Agent) (code : Nat) (pa : Nat) (bs : List Byte) (src : Nat) : Option State :=
  (lineParts pa bs.length).foldl (fun o (lo, k) => o.bind fun s => s.outsideLine vf a code lo ((bs.drop (lo - pa)).take k) src) (some s)

/-- The answer of this device to a remote copy's writes (R385). -/
def State.copied (s : State) (dev vf : Nat) (ok : Bool) : State :=
  { s with fabric := { s.fabric with replies := s.fabric.replies ++ [.copied dev vf ok] } }

/-- REMOTE_COPY_WRITE (R385): a remote copy of another device writes at a virtual address of a VF that accepts remote copies, and is
acknowledged; a fault or a refusal is answered, and changes nothing else here. -/
def execRemoteCopyWrite (srcDev vf : Nat) (addr : BitVec 64) (data : List (BitVec 8)) (s : State) : Host.Outcome State Fault Refusal :=
  if 192 ≤ vf ∨ 4096 < data.length then .next s
  else if !(s.vf vf).frcopy.getLsbD 0 then .next (s.copied srcDev vf false)
  else match s.schedXlate vf .write (pageParts addr.toNat data.length) with
    | (.error t, s) => .next (if t.grp = 31 then s else s.copied srcDev vf false)
    | (.ok l, s) => match l.foldl (fun (o : Option (State × List Byte)) (pa, k) => o.bind fun x =>
        (x.1.outsideWrite vf (remoteDevice srcDev) 0x23 pa (x.2.take k) srcDev).map fun s => (s, x.2.drop k)) (some (s, data)) with
      | some x => .next (x.1.copied srcDev vf true)
      | none => .next s

end Sys2Proof.Machine
end

