-- ==== Sys2Proof/Machine/Signature.lean ====
section
/-! DEFINITION. Signatures as they open and close (R394, R396), the records of a log as a replay reads them, and the
comparisons of a replay (R405, R406). -/
namespace Sys2Proof.Machine

-- ## a log as read back

/-- Further words of an event, from its first two words (R396, R397). -/
def eventExtra (w0 w1 : Word) : Nat :=
  match wfield w0 58 6 with
  | 1 | 2 | 3 => 1 + (if wfield w1 16 3 = 1 then 1 else 0)
  | 4 => 1
  | 5 => 3
  | 6 => 2
  | 7 => if w0.getLsbD 31 then 9 else 1
  | 9 => 1 + 4 * popcount (w0.toNat % 16) 4
  | 0x20 | 0x21 | 0x24 => 1
  | 0x22 | 0x23 => 2 + (w0.toNat % 256 + 7) / 8
  | _ => 0

/-- A count from the one before it and a DLT: an access that came back after later words, or after a boundary, has a count a little
before it (log entry 110). -/
def afterCount (prev : Word) (dlt : Nat) : Word := if 2 ^ 22 - 2 ^ 16 ≤ dlt then prev - BitVec.ofNat 64 (2 ^ 22 - dlt) else prev + BitVec.ofNat 64 dlt

/-- The events of a record's body; counts of each group accumulate from its start count, and a repeat has the words of the read token
that it repeats. -/
def parseEvents : Nat → List Word → Sparse Word → List (Nat × List Word) → List LogEvent
  | 0, _, _, _ => []
  | _, [], _, _ => []
  | fuel + 1, w :: r, prev, toks =>
    let n := eventExtra w (nth 0 r 0)
    let grp := wfield w 54 4
    let t := afterCount (Sparse.get 0 prev grp) (wfield w 32 22)
    let a := BitVec.ofNat 32 (wfield w 0 32)
    let e : LogEvent := { code := wfield w 58 6, grp, time := t, a, more := r.take n }
    let tok : List Word := ((toks.find? fun x => x.1 == grp).map (·.2)).getD []
    { e with more := if e.repeats then tok else e.more }
      :: parseEvents fuel (r.drop n) (putKey prev grp t) (if e.code = 1 then putKey toks grp [nth 0 e.more 0, a.setWidth 64] else toks)

/-- The parts of a core signature: slot indices, start counts, events, digests. -/
structure SigParts where
  idx : List Nat
  starts : List (Nat × Word)
  events : List LogEvent
  digests : List (Nat × (Word × Word))

def sigParts (r : List Word) : SigParts :=
  let idx := bitsOf (wfield (nth 0 r 3) 48 16) 16
  let n := idx.length
  let starts := idx.zip ((r.drop 4).take n)
  let body := (r.drop (4 + n)).take (r.length - 5 - 3 * n)
  let dg := (r.drop (r.length - 1 - 2 * n)).take (2 * n)
  { idx, starts, events := parseEvents body.length body starts []
    digests := idx.zipIdx.map fun (i, j) => (i, (nth 0 dg (2 * j), nth 0 dg (2 * j + 1))) }

/-- The logged signature of a team. -/
def State.loggedSig (s : State) (t : Team) (sign : Nat) : Option SigParts :=
  match s.cluster? t.cluster with
  | none => none
  | some c => match s.partOf c.vf with
    | none => none
    | some p => (p.log.replayLog.find? fun r =>
        wfield (nth 0 r 0) 56 8 == 1 && wfield (nth 0 r 0) 0 32 == sign
          && nth 0 r 1 == BitVec.ofNat 64 (c.vf * 2 ^ 56 + t.num * 2 ^ 52 + c.clustid % 2 ^ 48) && nth 0 r 2 == BitVec.ofNat 64 c.gridid).map sigParts

-- ## opening and closing

/-- The event stands before the start count of its group: it is of an access that was pending at the boundary. -/
def SigParts.early (x : SigParts) (e : LogEvent) : Bool := (x.starts.find? fun y => y.1 == e.grp).any fun y => e.time.toNat < y.2.toNat

/-- In REPLAY, the events that a signature of a team has still to meet as it opens: those not yet met of words before it, its own, and
those of the next one that belong to words of this one (log entry 110). -/
def State.toMeet (s : State) (t : Team) (sign : Nat) : List LogEvent :=
  let own := s.loggedSig t sign
  let next := s.loggedSig t (sign + 1)
  (t.sig.events.filter fun e => own.any fun x => x.early e)
    ++ (own.map fun x => x.events.filter fun e => !x.early e).getD [] ++ (next.map fun x => x.events.filter x.early).getD []

/-- A signature opens: every group of the team starts at its present count; in REPLAY the logged events are still to be met. -/
def State.openSig (s : State) (key sign : Nat) : State :=
  match s.team? key with
  | none => s
  | some t =>
    let vf := ((s.cluster? t.cluster).map (·.vf)).getD 0
    let starts := (s.teamGroups key).foldl (fun l g => putKey l g.id.tidx g.ltime) ([] : List (Nat × Word))
    let events := if s.log vf = 2 then s.toMeet t sign else []
    s.setTeam { t with sig := { sign, starts, rdig := [], mdig := [], events, pcore := t.core, mark := false } }

/-- Digests of every group of the team go to its signature. -/
def State.flushTeam (s : State) (key : Nat) : State :=
  (s.teamGroups key).foldl (fun s g => (s.flushDig g).setGroup { g with dig := [] }) s

/-- No word of the team waits for data of its digest. -/
def State.settledSig (s : State) (key : Nat) : Bool := (s.teamGroups key).all fun g => g.dig.all fun d => d.inst.isNone

/-- The signature of a team enters the run digest of its launch (R402). -/
def State.toColophon (s : State) (t : Team) (c : Cluster) : State :=
  match s.slot? c.vf c.gslot with
  | some x => match x.running with
    | some l =>
      let key (i : Nat) : Nat := ((c.clustid * 16 + t.num) * 2 ^ 32 + t.sig.sign) * 16 + i
      let col := t.sig.starts.foldl (fun col e =>
        putKey col (key e.1) (Sparse.get (BitVec.ofNat 64 t.sig.sign) t.sig.rdig e.1, Sparse.get (BitVec.ofNat 64 t.sig.sign) t.sig.mdig e.1)) l.colophon
      s.setSlot c.vf c.gslot { x with running := some { l with colophon := col } }
    | none => s
  | none => s

/-- A divergence found at a team (R405): fatal, and the partition is DIVERGED. -/
def State.divergeTeam (s : State) (t : Team) (code kind : Nat) : State :=
  match s.cluster? t.cluster with
  | none => s
  | some c => match (s.teamGroups t.key).head? with
    | some g => (s.diverged g code).fatal c.vf c.key (divergence code kind g.ltime)
    | none =>
      match s.partOf c.vf with
      | some p => s.divergePart p.num code kind t.sig.sign
      | none => s

/-- What a replay finds wrong at a boundary: code and kind. Events of accesses still pending are met later. -/
def Team.mismatch (t : Team) (x : SigParts) (next : Option SigParts) : Option (Nat × Nat) :=
  let d (m : List (Nat × Word)) (i : Nat) : Word := if m.any (fun e => e.1 == i) then Sparse.get 0 m i else BitVec.ofNat 64 t.sig.sign
  if x.digests.any fun (i, r, _) => d t.sig.rdig i != r then some (1, 1)
  else if x.digests.any fun (i, _, m) => d t.sig.mdig i != m then some (2, 2)
  else if t.sig.events.any fun e => e.code != 8 && !(next.any fun y => y.early e) then some (3, 3) else none

/-- A boundary (R394): the signature closes and is written, or is compared, and the next one opens. -/
def State.closeSig (s : State) (key : Nat) : State :=
  let s1 := s.flushTeam key
  match s1.team? key with
  | none => s
  | some t => match s1.cluster? t.cluster with
    | none => s
    | some c =>
      let part := ((s1.partOf c.vf).map (·.num)).getD 0
      let s2 := s1.toColophon t c
      if s1.log c.vf = 1 then
        let (now, later) := t.fitted
        let s3 := s2.writeRecord part t.core (now.record c part)
        let s4 := s3.tracePacket c.vf 7 [BitVec.ofNat 64 c.clustid, BitVec.ofNat 64 t.num, BitVec.ofNat 64 t.sig.sign, (s3.part part).log.qrhead]
        let s5 := s4.openSig key (t.sig.sign + 1)
        match s5.team? key with
        | some u => s5.setTeam { u with sig := { u.sig with events := later } }
        | none => s5
      else if s1.log c.vf = 2 then
        match (s1.loggedSig t t.sig.sign).bind fun x => t.mismatch x (s1.loggedSig t (t.sig.sign + 1)) with
        | some (code, kind) => s2.divergeTeam t code kind
        | none => s2.openSig key (t.sig.sign + 1)
      else s2.openSig key (t.sig.sign + 1)

/-- The group stands at its logged start count of the next signature (R406). -/
def State.atBoundary (s : State) (t : Team) (g : Group) : Bool :=
  match s.loggedSig t (t.sig.sign + 1) with
  | some x => (x.starts.find? fun e => e.1 == g.id.tidx).any fun e => e.2.toNat ≤ g.ltime.toNat
  | none => false

/-- A boundary is due at a team (R394); in REPLAY boundaries come from the log. -/
def State.boundaryDue (s : State) (t : Team) : Bool :=
  match s.cluster? t.cluster with
  | none => false
  | some c =>
    let gs := s.teamGroups t.key
    if s.log c.vf = 1 then
      let last (g : Group) : Word := (((t.sig.events.filter fun e => e.grp == g.id.tidx).reverse.head?).map (·.time)).getD (Sparse.get 0 t.sig.starts g.id.tidx)
      t.sig.mark || decide (recordLimit ≤ (t.record c 0).length) || gs.any fun g => 2 ^ 22 - 1 ≤ (g.ltime - last g).toNat
    else if s.log c.vf = 2 then !gs.isEmpty && gs.all fun g => s.atBoundary t g || g.wait == .ended && (s.loggedSig t (t.sig.sign + 1)).isSome
    else false

/-- In REPLAY, an event of the group that its retired words have passed (R405): the code and kind of the divergence. Repeats, pieces
of engine commands and points of pre-emption are of no one word. -/
def State.lateEvent (s : State) (g : Group) : Option (Nat × Nat) :=
  if s.log g.id.vf ≠ 2 then none
  else
    let passed (e : LogEvent) : Bool := decide (e.time.toNat < g.ltime.toNat)
    let held (e : LogEvent) : Bool := g.ops.any fun o => sameTime o.ltime e.time
    let engine (e : LogEvent) : Bool := (e.code ≤ 3 && wfield (nth 0 e.more 0) 16 3 != 0) || (e.code == 4 && 0x3000 ≤ e.a.toNat && e.a.toNat < 0x3040)
    match (s.eventsAt g.collator).find? fun e => passed e && !held e && !engine e && !e.repeats && e.code != 8 && e.code != 5 with
    | some e => some (if e.code = 6 then (12, 0) else (3, 3))
    | none => none

end Sys2Proof.Machine
end

