-- ==== Sys2Proof/Machine/Place.lean ====
section
/-! DEFINITION. Where work stands: what a kernel claims (R19, R156, R162), the resources of a core (R169, R324), the rectangle
of a cluster (R169) within the limits of R328, R337 and R338, launching a cluster (R14, R31, R157, R170, R284), spilling one
(R328) and restoring one (R329), and releasing what a retired one held. -/
namespace Sys2Proof.Machine

-- ## what a kernel claims

/-- The shape of a kernel (R162): teams across and down, groups, registers, tiles per quadrant, stash rows, the groups that
are dealt with their quadrants in ascending number, and the matrix groups. -/
structure Shape where
  w : Nat
  h : Nat
  n : Nat
  regs : Nat
  tiles : Nat
  stash : Nat
  deal : List Nat
  mx : List Nat

/-- Each group in ascending number goes to its matrix quadrant, or to the lowest of those that hold the fewest (R156). -/
def dealQuads (n : Nat) (mx : List Nat) : List Nat :=
  let fixed (g : Nat) : Option Nat := mx.findIdx? fun x => x == g
  ((List.range n).foldl (fun (acc : List Nat × List Nat) g =>
    match fixed g with
    | some q => (acc.1 ++ [q], acc.2)
    | none =>
      let q := (List.range 4).foldl (fun b k => if nth 0 acc.2 k < nth 0 acc.2 b then k else b) 0
      (acc.1 ++ [q], putNth acc.2 q (nth 0 acc.2 q + 1))) ([], if mx.isEmpty then [0, 0, 0, 0] else [1, 1, 1, 1])).1

/-- The shape in a kernel record. -/
def shapeOf (r : List Word) : Shape :=
  let sh := nth (0 : Word) r 9
  let mx := if sh.getLsbD 22 then (List.range 4).map fun i => wfield sh (23 + 4 * i) 4 else []
  let n := wfield sh 8 5
  { w := wfield sh 0 4, h := wfield sh 4 4, n, regs := wfield sh 13 5 * 48, tiles := wfield sh 18 4
    stash := wfield (nth 0 r 10) 0 32, deal := dealQuads n mx, mx }

/-- D of one cluster of the shape once placed (R336). -/
def Shape.dirty (x : Shape) : Nat := x.w * x.h * (x.n * (x.regs * 128 + 1024) + x.stash * 128 + 4 * x.tiles * 8192)

-- ## the resources of a core

/-- PQUOTA in slots, bank rows, stash rows and tiles (R324): first and count of each. -/
structure Quota where
  slots : Nat × Nat
  rows : Nat × Nat
  stash : Nat × Nat
  tiles : Nat × Nat
  deriving DecidableEq

def quotaOf (w : Word) : Quota :=
  { slots := (wfield w 55 4, wfield w 59 5), rows := (wfield w 44 5 * 8, wfield w 49 6 * 8)
    stash := (wfield w 29 7 * 32, wfield w 36 8 * 32), tiles := (wfield w 22 3, wfield w 25 4) }

/-- What is taken on a core: slots by quadrant, bank rows by quadrant as first and count, stash rows as first and count, tiles
by quadrant, and the matrix sequencer. -/
structure Used where
  slots : List (Nat × Nat)
  rows : List (Nat × Nat × Nat)
  stash : List (Nat × Nat)
  tiles : List (Nat × Nat)
  mx : Bool

/-- What one team takes: slots with their row offsets, by team slot index as (quadrant, slot, offset); its stash base; its
tiles by quadrant. -/
structure Take where
  core : Nat
  slots : List (Nat × Nat × Nat)
  stashBase : Nat
  tiles : List (List Nat)

/-- The slots of a team: team slot index with (quadrant, slot, row offset), those vacated included. -/
def State.allSlots (s : State) (t : Team) : List (Nat × (Nat × Nat × Nat)) :=
  ((s.teamGroups t.key).map fun g => (g.id.tidx, (g.id.quad, g.id.slot, g.id.rowOff))) ++ t.vacant.map fun v => (v.2.2.1, (v.1, v.2.1, v.2.2.2))

/-- The slots of a team that stand on its core, those vacated included. -/
def State.slotsOf (s : State) (t : Team) : List (Nat × Nat × Nat) := ((s.allSlots t).filter fun e => !t.out.contains (.group e.1)).map (·.2)

/-- The units of a team (R328). -/
def Team.units (t : Team) : List SpillUnit := (List.range t.ngroups).map .group ++ t.runs ++ t.tileUnits

/-- No unit of a team stands. -/
def Team.gone (t : Team) : Bool := t.units.all t.out.contains

/-- Stash rows of a team's claim that stand, and those in the save area. -/
def Team.rowsIn (t : Team) : List Nat := (List.range t.stashRows).filter fun i => !t.out.contains (.run (i / 32))
def Team.rowsOut (t : Team) : List Nat := (List.range t.stashRows).filter fun i => t.out.contains (.run (i / 32))

/-- Tiles of a team that stand: quadrant, place in the team's list, tile of the core. -/
def Team.tilesIn (t : Team) : List (Nat × Nat × Nat) :=
  (t.tiles.zipIdx.flatMap fun (l, q) => l.zipIdx.map fun (k, i) => (q, i, k)).filter fun x => !t.out.contains (.tile (x.1 * 8 + x.2.1))

/-- Bank rows of a claim of registers (R19, R169). -/
def bankRowsOf (regs : Nat) : Nat := regs / 6

/-- What the teams of a core hold, but those of clusters passed over. -/
def State.usedOn (s : State) (core : Nat) (skip : Cluster → Bool) : Used :=
  let here := s.teams.filter fun t => t.core == core &&
    ((s.cluster? t.cluster).map fun c => c.residence != .saved && !skip c).getD false
  { slots := here.flatMap fun t => (s.slotsOf t).map fun x => (x.1, x.2.1)
    rows := here.flatMap fun t => (s.slotsOf t).map fun x => (x.1, x.2.2, bankRowsOf t.claim)
    stash := here.flatMap fun t => t.runs.filterMap fun u => match u with
      | .run i => if t.out.contains u then none else some (t.stashBase + 32 * i, (t.runRows i).length)
      | .group _ | .tile _ => none
    tiles := here.flatMap fun t => t.tilesIn.map fun x => (x.1, x.2.2)
    mx := here.any fun t => !t.mx.isEmpty && !t.gone }

/-- The lowest free slot of a quadrant within the quota. -/
def Used.slot (u : Used) (q : Quota) (quad : Nat) : Option Nat :=
  (List.range q.slots.2).findSome? fun i => let k := q.slots.1 + i; if u.slots.contains (quad, k) then none else some k

/-- The lowest offset of a free run of bank rows; every claim and every quota is a multiple of 8 rows. -/
def Used.rowRun (u : Used) (q : Quota) (quad n : Nat) : Option Nat :=
  (List.range (q.rows.2 / 8)).findSome? fun i =>
    let a := q.rows.1 + 8 * i
    if q.rows.1 + q.rows.2 < a + n || u.rows.any (fun x => x.1 == quad && overlap a (a + n) x.2.1 (x.2.1 + x.2.2)) then none else some a

/-- The lowest start of a free run of stash rows: the base of the quota or the end of a run that is taken. -/
def Used.stashRun (u : Used) (q : Quota) (n : Nat) : Option Nat :=
  let ok (a : Nat) : Bool := q.stash.1 ≤ a && a + n ≤ q.stash.1 + q.stash.2 && !u.stash.any fun x => overlap a (a + n) x.1 (x.1 + x.2)
  ((q.stash.1 :: u.stash.map fun x => x.1 + x.2).filter ok).foldl (fun b a => match b with | none => some a | some y => some (min a y)) none

/-- The lowest free tiles of a quadrant. -/
def Used.tileSet (u : Used) (q : Quota) (quad n : Nat) : Option (List Nat) :=
  let l := (((List.range q.tiles.2).map fun i => q.tiles.1 + i).filter fun k => !u.tiles.contains (quad, k)).take n
  if l.length = n then some l else none

/-- One team's choice on a core (R169). -/
def Used.takeTeam (u : Used) (q : Quota) (x : Shape) (core : Nat) : Option Take :=
  let go := x.deal.foldl (fun (o : Option (Used × List (Nat × Nat × Nat))) quad => o.bind fun (u, l) =>
    (u.slot q quad).bind fun sl => (u.rowRun q quad (bankRowsOf x.regs)).map fun off =>
      ({ u with slots := (quad, sl) :: u.slots, rows := (quad, off, bankRowsOf x.regs) :: u.rows }, l ++ [(quad, sl, off)])) (some (u, []))
  if !x.mx.isEmpty && u.mx then none
  else go.bind fun (_, slots) => (u.stashRun q x.stash).bind fun base =>
    let ts := (List.range 4).map fun quad => u.tileSet q quad x.tiles
    if ts.all Option.isSome then some { core, slots, stashBase := base, tiles := ts.map fun o => o.getD [] } else none

-- ## rectangles

/-- Bit `core` of four words. -/
def coreBit (l : List Word) (core : Nat) : Bool := (nth (0 : Word) l (core / 64)).getLsbD (core % 64)

/-- A place for a cluster: leaf, x, y, and what each team takes in team order. -/
structure Rect where
  leaf : Nat
  x : Nat
  y : Nat
  takes : List Take

/-- Every origin in raster order (R169). -/
def origins (w h : Nat) : List (Nat × Nat × Nat) :=
  (List.range 4).flatMap fun l => (List.range (9 - h)).flatMap fun y => (List.range (9 - w)).map fun x => (l, x, y)

/-- The first rectangle that fits, with some clusters passed over; classes 1 to 3 stay off the reserve. -/
def State.findRect (s : State) (p : Partition) (cls : Nat) (x : Shape) (skip : Cluster → Bool) : Option Rect :=
  let q := quotaOf p.force.pquota
  (origins x.w x.h).findSome? fun (l, ox, oy) =>
    let cores := (List.range (x.w * x.h)).map fun t => l * 64 + (oy + t / x.w) * 8 + ox + t % x.w
    let takes := cores.map fun c =>
      if coreBit p.force.pcore c && (cls == 0 || !coreBit p.force.pres c) then (s.usedOn c skip).takeTeam q x c else none
    if takes.all Option.isSome then some { leaf := l, x := ox, y := oy, takes := takes.filterMap id } else none

/-- A halted cluster at rest: what its groups issued is complete, so its resources may be claimed (R327, R328). -/
def State.spillable (s : State) (c : Cluster) : Bool :=
  c.residence == .halted && s.groups.all fun g => g.id.cluster != c.key || (g.ops.isEmpty && g.tagBusy == 0)

/-- A unit of a team that stands lies where another team would stand; matrix teams exclude each other whole. -/
def State.unitHit (s : State) (t : Team) (k : Take) (x : Shape) (u : SpillUnit) : Bool :=
  t.core == k.core && !t.out.contains u && ((!t.mx.isEmpty && !x.mx.isEmpty) || (match u with
    | .group i => (s.allSlots t).any fun e => e.1 == i && k.slots.any fun b => e.2.1 == b.1 &&
        (e.2.2.1 == b.2.1 || overlap e.2.2.2 (e.2.2.2 + bankRowsOf t.claim) b.2.2 (b.2.2 + bankRowsOf x.regs))
    | .run i => overlap (t.stashBase + 32 * i) (t.stashBase + 32 * i + (t.runRows i).length) k.stashBase (k.stashBase + x.stash)
    | .tile n => (nth [] k.tiles (n / 8)).contains (nth 0 (nth [] t.tiles (n / 8)) (n % 8))))

/-- A unit of a team lies where a cluster of a shape would stand. -/
def State.unitInTheWay (s : State) (takes : List Take) (x : Shape) (t : Team) (u : SpillUnit) : Bool := takes.any fun k => s.unitHit t k x u

/-- A cluster holds something that a rectangle takes. -/
def State.inTheWay (s : State) (c : Cluster) (takes : List Take) (x : Shape) : Bool :=
  (s.clusterTeams c.key).any fun t => t.units.any (s.unitInTheWay takes x t)

/-- Bytes that stand against a deadline: the queues and dirty lines of the VFs of an eviction (R339). -/
def State.evictBytes (s : State) (p : Partition) (mask : Nat) : Nat :=
  ((p.vfsOf mask).map fun v => s.dirtyLines v + (((List.range 4).map fun c => s.queueDirty v c).sum)).sum

/-- M(t) ≤ T − t, with `more` bytes on top (R338, R339): 1,280 bytes each ns, H = 20 µs. -/
def State.meetsDeadline (s : State) (p : Partition) (e : Evict) (more : Nat) : Bool :=
  decide (20000 * 1280 + s.evictBytes p e.vfm.toNat + more + s.ns * 1280 ≤ (e.t0 + e.limit) * 1280)

/-- The limits on a new claim of a VF: CAP (R337), its save area (R328), a deadline in force (R338). -/
def State.claimFits (s : State) (p : Partition) (vf bytes : Nat) : Bool :=
  let i := (p.slotOf vf).getD 16
  let held := ((s.clusters.filter fun c => c.vf == vf).map fun c => s.clusterSize c.key).sum
  decide (s.partDirty p + bytes ≤ p.cap) && decide (held + bytes ≤ (nth (0 : Word) p.force.vfsave i).toNat % 65536 * 2 ^ 20)
    && (match p.evict with
        | some e => !e.vfm.getLsbD i || s.meetsDeadline p e bytes
        | none => true)

-- ## records that move with what they describe

/-- A sparse map with its keys changed. -/
def rekey {α : Type} [DecidableEq α] (d : α) (f : Nat → Nat) (m : Sparse α) : Sparse α := m.foldl (fun r (k, v) => Sparse.set d r (f k) v) []

/-- A key in one of some ranges moves to another base: first, count, new first. -/
def moveKey (l : List (Nat × Nat × Nat)) (k : Nat) : Nat :=
  match l.find? fun (a, n, _) => a ≤ k && k < a + n with
  | some (a, _, b) => b + (k - a)
  | none => k

/-- Moves turned round. -/
def movesBack (l : List (Nat × Nat × Nat)) : List (Nat × Nat × Nat) := l.map fun (a, n, b) => (b, n, a)

/-- Where the records of a team's private rows and tiles are kept while it stands on no core. -/
def parkRow (team : Nat) : Nat := 2 ^ 64 + team * 2 ^ 20
def parkTile (team : Nat) : Nat := 2 ^ 65 + team * 2 ^ 12

/-- Where the records of some units of a team lie, and where they are kept while those are in the save area: of rows, of their bytes,
of tile rows (R232, R239, R247, R392). -/
structure RecordMoves where
  rows : List (Nat × Nat × Nat)
  bytes : List (Nat × Nat × Nat)
  tiles : List (Nat × Nat × Nat)

def Team.recordMoves (t : Team) (us : List SpillUnit) : RecordMoves :=
  let base := t.core * 4096 + t.stashBase
  let runs := us.filterMap fun u => match u with | .run i => some i | .group _ | .tile _ => none
  { rows := runs.map fun i => (2 ^ 60 + (base + 32 * i), (t.runRows i).length, parkRow t.key + 32 * i)
    bytes := runs.map fun i => (2 ^ 60 + (base + 32 * i) * lineBytes, (t.runRows i).length * lineBytes, parkRow t.key + 32 * i * lineBytes)
    tiles := us.filterMap fun u => match u with
      | .tile n => some (tileLoc ((t.core * 4 + n / 8) * 8 + nth 0 (nth [] t.tiles (n / 8)) (n % 8)) 0, 32, parkTile t.key + n * 32)
      | .group _ | .run _ => none }

/-- The records of some units of a team's stash and tiles, to or from where they are kept. -/
def State.moveRecords (s : State) (t : Team) (us : List SpillUnit) (park : Bool) : State :=
  let m := t.recordMoves us
  let way (l : List (Nat × Nat × Nat)) : List (Nat × Nat × Nat) := if park then l else movesBack l
  { s with scopes := rekey noScope (moveKey (way m.rows)) s.scopes, orders := rekey OrderRec.absent (moveKey (way m.rows)) s.orders
           conflicts := rekey ({ accesses := [] } : ConfRec) (moveKey (way (m.bytes ++ m.tiles))) s.conflicts }

/-- The records of what a claim holds are gone (R247). -/
def State.dropRecords (s : State) (t : Team) : State :=
  let m := t.recordMoves (t.units.filter fun u => !t.out.contains u)
  let isIn (l : List (Nat × Nat × Nat)) (k : Nat) : Bool := l.any fun (a, n, _) => a ≤ k && k < a + n
  { s with scopes := s.scopes.filter fun e => !isIn m.rows e.1, orders := s.orders.filter fun e => !isIn m.rows e.1
           conflicts := s.conflicts.filter fun e => !isIn (m.bytes ++ m.tiles) e.1 }

-- ## launching a cluster

/-- The comparators of a group of an attached VF (R416). -/
def Partition.comparators (p : Partition) (attached : Bool) (clustid team grp : Nat) : Comparators :=
  let f := p.dbg.flt
  if attached && (!f.getLsbD 63 || (wfield f 0 48 == clustid && wfield f 48 4 == team && wfield f 52 4 == grp))
  then { ibp := p.dbg.ibp, wplo := p.dbg.wplo, wphi := p.dbg.wphi } else { ibp := [0, 0], wplo := [0, 0], wphi := [0, 0] }

/-- Trap registers at launch (R305). -/
def TrapRegs.launch : TrapRegs := { cause := 0, det0 := 0, det1 := 0, det2 := 0, pc := 0, mask := 0, scr := [0, 0, 0, 0] }

/-- A group at launch (R14, R31): `args` are the initial s0 to s15. R31 speaks of a launched thread count that no field of the node
record gives (R162): every lane holds a live thread (DESIGN CHOICE, log entry 102). -/
def Group.launch (id : Ident) (entry seed : Word) (args : List Word) (table : List (BitVec 32)) (cmp : Comparators) : Group :=
  { id, live := 0xFFFFFFFF, mask := 0xFFFFFFFF, origin := allLanes.foldl (fun m l => Sparse.set 0 m l id.grpid) []
    regs := { v := [], x := [], p := [], z := [], s := args.zipIdx.foldl (fun m (w, i) => Sparse.set 0 m i w) [], c := 0, k0 := 0, k1 := 0 }
    pc := entry, dv := List.replicate 16 emptyDiv, dvDepth := 0, fflags := 0, seed, agelim := 512, ltime := 0, enacc := 0, enBanked := 0, pidx := 0, pidxPc := 0
    view := table, fmtPend := [], tagBusy := 0, tagDone := 0, tagFlt := 0, latchA := none, latchB := none, rq := [], fqHeld := [], fqSince := 0
    trap := { usr := TrapRegs.launch, sys := TrapRegs.launch, utvec := 0, utdeleg := 0, lvl := 0, plvl := 0, udepth := 0, sdepth := 0
              tdec := [0, 0, 0, 0], entry := none, async := [] }
    sel := { dv := 0, bar := 0, fmt := 0, rl := 0, acc := 0, image := [0, 0, 0, 0, 0] }, wait := .run, ops := [], nextInst := 0, failed := []
    counts := { tb := 0, cb := 0, gb := 0, rf := 0 }, cmp, exempt := false, dbgpc := 0, replays := 0, again := false, dig := [], mxSeen := 0 }

/-- A sequencer with no stream (R287). -/
def Sequencer.idle : Sequencer :=
  { run := false, flt := false, mxpc := 0, fcode := 0, barw := none, owner := 0, start := 0, view := Fmt.launchTable, pend := [], flight := []
    counts := { tb := 0, cb := 0, gb := 0, rf := 0 }, word := none, fault := none, faultPost := none, went := 0 }

/-- The team of a cluster on the core it takes, with all its tiles +0 and STEPS 0 (R39, R156, R284); `key` is followed by
the keys of its groups. With DET = 1 its stash reads as one that nothing has written, whoever held it before (R5; log entry 53). -/
def State.launchTeam (s : State) (p : Partition) (c : Cluster) (r : List Word) (x : Shape) (num : Nat) (k : Take) : State :=
  let key := s.nextKey
  let table := if (nth (0 : Word) r 0).getLsbD 10 then nodeFormats r else Fmt.launchTable
  let t : Team := {
    key, cluster := c.key, num, core := k.core, ngroups := x.n, claim := x.regs, stashBase := k.stashBase, stashRows := x.stash
    tiles := k.tiles, mx := x.mx, table, arrive := List.replicate 18 0, vacant := [], filed := [], drawn := [], seqr := { Sequencer.idle with view := table }
    sig := { sign := 0, starts := [], rdig := [], mdig := [], events := [], pcore := k.core, mark := false }, enacc := 0, retired := 0
    saved := [], savedTiles := [], savedSteps := [], savedLocks := [], out := [] }
  let gs := k.slots.zipIdx.map fun ((quad, slot, off), i) =>
    Group.launch { key := key + 1 + i, tidx := i, vf := c.vf, cluster := c.key, team := key, grpid := i, core := k.core, quad, slot, claim := x.regs
                   rowOff := off, cls := c.cls, age := s.clock, passed := 0 }
      (nth 0 r 6) (nth 0 r 15) ((List.range 16).map fun j => nth 0 r (16 + j)) table (p.comparators (s.attached c.vf) c.clustid num i)
  let rowKeys := (List.range x.stash).map fun i => k.core * 4096 + k.stashBase + i
  let tileKeys := (List.range x.tiles).flatMap t.tileKeys
  let s1 := rowKeys.foldl (fun s key => s.releaseRow key) s
  let lo := k.core * Config.stashBytes + k.stashBase * lineBytes
  let s2 := { s1 with nextKey := key + 1 + x.n, groups := s1.groups ++ gs, teams := s1.teams ++ [t]
                      stash := if s1.det c.vf then s1.stash.filter fun e => !(lo ≤ e.1 && e.1 < lo + x.stash * lineBytes) else s1.stash
                      tileVals := s1.tileVals.filter fun e => !tileKeys.contains (e.1 / 2048)
                      tileSteps := s1.tileSteps.filter fun e => !tileKeys.contains e.1 }
  (s2.dropRecords t).openSig key 0

/-- Launches the cluster with CLUSTID `i` of a node on a rectangle, all teams in one step (R170), and charges it (R168). -/
def State.launchCluster (s : State) (part vf gslot node count cls i : Nat) (r : List Word) (x : Shape) (a : Rect) : State :=
  let c : Cluster := {
    key := s.nextKey, vf, gslot, node, launch := count, clustid := i, cls, leaf := a.leaf, x := a.x, y := a.y, w := x.w, h := x.h
    residence := .resident, resumable := true, atck := false, halting := false, atGrid := false, cause := 0, told := 0, started := s.ns }
  let p := s.part part
  let s1 := { s.setPart { p with served := p.served + x.w * x.h } with nextKey := s.nextKey + 1, clusters := s.clusters ++ [c] }
  let s2 := a.takes.zipIdx.foldl (fun s (k, n) => s.launchTeam p c r x n k) s1
  s2.noteSpine vf 0x21 (node + gslot * 2 ^ 16) [BitVec.ofNat 64 i]

-- ## spilling a cluster (R328)

/-- A lock entry is of a group of the team that stands, or of its matrix sequencer (R194). -/
def State.ownsLock (s : State) (t : Team) (e : LockEntry) : Bool :=
  e.core == t.core && (if e.kind then !t.mx.isEmpty && !t.gone else (s.slotsOf t).any fun x => x.1 == e.quad && x.2.1 == e.slot)

/-- A lock entry as the save area keeps it: stash ranges relative to the claims they lie in, named by team; its slot by team slot
index. -/
def State.packLock (s : State) (t : Team) (e : LockEntry) : LockEntry :=
  let rel (core lo : Nat) : Nat × Nat := match (s.clusterTeams t.cluster).find? fun u => u.core == core with
    | some u => (u.num, lo - u.stashBase * lineBytes)
    | none => (15, lo)
  let tidx := ((s.allSlots t).find? fun x => x.2.1 == e.quad && x.2.2.1 == e.slot).map (·.1)
  let d := if e.dsp then rel e.dcore e.dlo.toNat else (e.dcore, e.dlo.toNat)
  let r := if e.ssp then rel e.score e.slo.toNat else (e.score, e.slo.toNat)
  { e with slot := tidx.getD e.slot, dcore := d.1, score := r.1
           dlo := BitVec.ofNat 64 d.2, dhi := BitVec.ofNat 64 d.2 + (e.dhi - e.dlo), slo := BitVec.ofNat 64 r.2, shi := BitVec.ofNat 64 r.2 + (e.shi - e.slo) }

/-- The lock entries that go with some units of a team: a group's with the group, the sequencer's with the last unit. -/
def State.locksOut (s : State) (t : Team) (us : List SpillUnit) : List LockEntry :=
  let all : Bool := t.units.all fun u => t.out.contains u || us.contains u
  s.locks.filter fun e => s.ownsLock t e && (if e.kind then all else (s.allSlots t).any fun x => x.2.1 == e.quad && x.2.2.1 == e.slot && us.contains (.group x.1))

/-- Some units of one team go to the save area (R328): mapped rows are written back and will return in I (R199), tile values are
rounded (R294). -/
def State.packUnits (s : State) (t : Team) (us : List SpillUnit) (locks : List LockEntry) : State :=
  let base := t.core * 4096 + t.stashBase
  let rows := us.flatMap fun u => match u with | .run i => t.runRows i | .group _ | .tile _ => []
  let s1 := rows.foldl (fun s i => s.recallRow (base + i)) s
  let saved := rows.map fun i => (i, (Memory.readN s1.stash ((base + i) * lineBytes) lineBytes, s1.row (base + i)))
  let tiles := us.filterMap fun u => match u with
    | .tile n => some ((t.core * 4 + n / 8) * 8 + nth 0 (nth [] t.tiles (n / 8)) (n % 8), n)
    | .group _ | .run _ => none
  let round := tileRound (((s.cluster? t.cluster).map fun c => s.wide c.vf).getD true)
  let vals : List (Nat × BitVec 40) := tiles.flatMap fun (key, n) => (s1.tileVals.filter fun e => e.1 / 2048 == key).map fun e => (n * 2048 + e.1 % 2048, round e.2)
  let steps : List (Nat × BitVec 32) := tiles.map fun (key, n) => (n, Sparse.get 0 s1.tileSteps key)
  let keys := tiles.map (·.1)
  let gone := s.locksOut t us
  let out := t.out ++ us
  let parked : Bool := t.units.all out.contains
  let s2 := s1.moveRecords t us true
  { s2.setTeam { t with saved := t.saved ++ saved, savedTiles := t.savedTiles ++ vals, savedSteps := t.savedSteps ++ steps, savedLocks := t.savedLocks ++ locks, out } with
      rows := rows.foldl (fun m i => Sparse.set Row.plain m (base + i) Row.plain) s2.rows
      tileVals := s2.tileVals.filter fun e => !keys.contains (e.1 / 2048), tileSteps := s2.tileSteps.filter fun e => !keys.contains e.1
      locks := s2.locks.filter fun e => !gone.contains e
      bins := s2.bins.map fun (b : Bin) => if b.team = t.key ∧ parked then { b with core := 2 ^ 20 + t.key } else b }

/-- The save engine writes bytes of its own layout somewhere in the save area of the VF; the area is opaque to software. -/
def State.saveBytes (s : State) (p : Partition) (vf n : Nat) : State :=
  let w := nth (0 : Word) p.force.vfsave ((p.slotOf vf).getD 16)
  let size := w.toNat % 65536 * 2 ^ 20
  let (k, s1) := s.free
  let off := k % (size - n + 1) / lineBytes * lineBytes
  { s1.writeMem (w.toNat / 65536 * 65536 + off) ((List.range (min n size)).map fun i => BitVec.ofNat 8 (Config.freeNat (s1.fresh + i))) with fresh := s1.fresh + n }

/-- The pins of a VF are cleared when it holds no resident cluster (R208). -/
def State.unpin (s : State) (vf : Nat) : State :=
  if s.clusters.any fun c => c.vf == vf && c.residence != .saved then s
  else { s with slices := s.slices.map fun (x : SliceLine) => if x.vf = vf ∧ x.cnt ∧ x.uc = 15 then { x with uc := 0, cnt := false } else x }

/-- A point where a cluster stops is logged for each of its groups, and closes the signatures of its teams (R388, R394). -/
def State.notePre (s : State) (c : Cluster) (code : Nat) : State :=
  if s.log c.vf = 1 then
    let s1 := (s.groups.filter fun g => g.id.cluster == c.key && g.wait != .ended).foldl (fun s g =>
      s.logEvent g.collator { code := 8, grp := g.id.tidx, time := g.ltime, a := BitVec.ofNat 32 code, more := [] }) s
    (s1.clusterTeams c.key).foldl (fun s t => s.closeSig t.key) s1
  else s

/-- Units of a halted cluster that a condition selects are spilled (R328); with its last unit the cluster stands nowhere. One that other
work moves from where it waits at a grid barrier is pre-empted by it (R173, R327). -/
def State.spillUnits (s0 : State) (c : Cluster) (pick : Team → SpillUnit → Bool) : State :=
  match s0.partOf c.vf with
  | none => s0
  | some p =>
    let chosen (t : Team) : List SpillUnit := t.units.filter fun u => !t.out.contains u && pick t u
    if (s0.clusterTeams c.key).all fun t => (chosen t).isEmpty then s0
    else
      let s := if c.atGrid ∧ (s0.clusterTeams c.key).all fun t => t.out.isEmpty then s0.notePre c 3 else s0
      let before := s.clusterDirty c.key
      let plan := (s.clusterTeams c.key).map fun t => (t, chosen t, (s.locksOut t (chosen t)).map (s.packLock t))
      let s1 := plan.foldl (fun s (t, us, l) => if us.isEmpty then s else s.packUnits t us l) s
      let s2 := s1.saveBytes p c.vf (before - s1.clusterDirty c.key)
      if (s2.clusterTeams c.key).all Team.gone then (s2.setCluster { c with residence := .saved }).unpin c.vf else s2

/-- Every unit of a halted cluster is spilled. -/
def State.spillCluster (s : State) (c : Cluster) : State := s.spillUnits c fun _ _ => true

-- ## restoring a cluster (R329)

/-- The shape of a cluster in the state: its claims as its teams made them. -/
def State.shapeHeld (s : State) (c : Cluster) : Option Shape :=
  (s.clusterTeams c.key).head?.map fun t =>
    { w := c.w, h := c.h, n := t.ngroups, regs := t.claim, tiles := t.accClaim, stash := t.stashRows, deal := dealQuads t.ngroups t.mx, mx := t.mx }

/-- Lock entries return to the tables of the cores where their teams now stand, at the lowest free entries. -/
def State.unpackLocks (s : State) (t : Team) (k : Take) : State :=
  let abs (num lo : Nat) : Nat × Nat := match (s.clusterTeams t.cluster).find? fun u => u.num == num with
    | some u => (u.core, lo + u.stashBase * lineBytes)
    | none => (num, lo)
  t.savedLocks.foldl (fun s e =>
    let idx := if e.kind then e.idx else (s.freeLock k.core).getD e.idx
    let (quad, slot, _) := if e.kind then (e.quad, e.slot, 0) else nth (0, 0, 0) k.slots e.slot
    let d := if e.dsp then abs e.dcore e.dlo.toNat else (e.dcore, e.dlo.toNat)
    let r := if e.ssp then abs e.score e.slo.toNat else (e.score, e.slo.toNat)
    { s with locks := s.locks ++ [{ e with
        core := k.core, idx, quad, slot, dcore := d.1, score := r.1, dlo := BitVec.ofNat 64 d.2, dhi := BitVec.ofNat 64 d.2 + (e.dhi - e.dlo)
        slo := BitVec.ofNat 64 r.2, shi := BitVec.ofNat 64 r.2 + (e.shi - e.slo) }] }) s

/-- One team comes back on the core it takes, what stands of it staying where it is; its lock entries follow once every team stands. -/
def State.unpackTeam (s : State) (t : Team) (k : Take) : State :=
  let t1 : Team := { t with core := k.core, stashBase := k.stashBase, tiles := k.tiles
                            vacant := t.vacant.map fun v => let a := nth (0, 0, 0) k.slots v.2.2.1; (a.1, a.2.1, v.2.2.1, a.2.2)
                            saved := [], savedTiles := [], savedSteps := [], savedLocks := [], out := [], sig := { t.sig with pcore := k.core } }
  let base := k.core * 4096 + k.stashBase
  let s1 := t.rowsOut.foldl (fun s i => s.releaseRow (base + i)) s
  let s2 := t.saved.foldl (fun s (i, bs, r) =>
    { s with stash := Memory.writeN s.stash ((base + i) * lineBytes) bs, rows := Sparse.set Row.plain s.rows (base + i) r }) s1
  let key (n : Nat) : Nat := (k.core * 4 + n / 8) * 8 + nth 0 (nth [] k.tiles (n / 8)) (n % 8)
  let came := (t.tileUnits.filter t.out.contains).filterMap fun u => match u with | .tile n => some (key n) | .group _ | .run _ => none
  let vals : Sparse (BitVec 40) := t.savedTiles.foldl (fun m (e : Nat × BitVec 40) => Sparse.set 0 m (key (e.1 / 2048) * 2048 + e.1 % 2048) e.2)
    (s2.tileVals.filter fun e => !came.contains (e.1 / 2048))
  let steps : Sparse (BitVec 32) := t.savedSteps.foldl (fun m (e : Nat × BitVec 32) => Sparse.set 0 m (key e.1) e.2)
    (s2.tileSteps.filter fun e => !came.contains e.1)
  { (s2.setTeam t1).moveRecords t1 t.out false with
      tileVals := vals, tileSteps := steps, bins := s2.bins.map fun (b : Bin) => if b.team = t.key then { b with core := k.core } else b
      groups := s2.groups.map fun (g : Group) => if g.id.team = t.key then
        (let a := nth (0, 0, 0) k.slots g.id.tidx
         { g with id := { g.id with core := k.core, quad := a.1, slot := a.2.1, rowOff := a.2.2 } }) else g }

/-- Ranges in lock entries that stayed in the tables follow a claim that came back elsewhere on its core. -/
def State.rebaseLocks (s : State) (was : List Team) : State :=
  let moved (core lo : Nat) : Nat := match was.find? fun t => t.core == core && t.stashBase * lineBytes ≤ lo && lo < (t.stashBase + t.stashRows) * lineBytes with
    | some t => lo - t.stashBase * lineBytes + (((s.team? t.key).map (·.stashBase)).getD t.stashBase) * lineBytes
    | none => lo
  let mine (e : LockEntry) : Bool := was.any fun t => s.ownsLock t e
  { s with locks := s.locks.map fun (e : LockEntry) => if mine e then
      (let d := if e.dsp then moved e.dcore e.dlo.toNat else e.dlo.toNat
       let r := if e.ssp then moved e.score e.slo.toNat else e.slo.toNat
       { e with dlo := BitVec.ofNat 64 d, dhi := BitVec.ofNat 64 d + (e.dhi - e.dlo), slo := BitVec.ofNat 64 r, shi := BitVec.ofNat 64 r + (e.shi - e.slo) }) else e }

/-- A cluster stands on what its teams take. -/
def State.restoreOn (s0 : State) (c : Cluster) (takes : List Take) : State :=
  let ts := s0.clusterTeams c.key
  let stash (t : Team) (k : Take) : Team := { t with stashBase := k.stashBase }
  let s := ((ts.zip takes).foldl (fun s (t, k) => if t.gone then s else s.setTeam (stash t k)) s0).rebaseLocks (ts.filter fun t => !t.gone)
  let s1 := (ts.zip takes).foldl (fun s (t, k) => s.unpackTeam t k) s
  let s2 := (ts.zip takes).foldl (fun s (t, k) => s.unpackLocks t k) s1
  s2.setCluster { c with residence := .resident, halting := false, atck := false }

/-- A saved cluster stands on a rectangle. -/
def State.restoreAt (s : State) (c : Cluster) (a : Rect) : State := s.restoreOn { c with leaf := a.leaf, x := a.x, y := a.y } a.takes

/-- The place of one slot of a team in place of a unit that was spilled: its quadrant, else, for a team without matrix groups, any
(R156, R329). -/
def Used.newSlot (u : Used) (q : Quota) (t : Team) (quad : Nat) : Option (Used × (Nat × Nat × Nat)) :=
  (quad :: if t.mx.isEmpty then (List.range 4).filter fun k => k != quad else []).findSome? fun k =>
    (u.slot q k).bind fun sl => (u.rowRun q k (bankRowsOf t.claim)).map fun off =>
      ({ u with slots := (k, sl) :: u.slots, rows := (k, off, bankRowsOf t.claim) :: u.rows }, (k, sl, off))

/-- The slots of a team that comes back on its core: what stands stays. -/
def State.slotsBack (s : State) (u : Used) (q : Quota) (t : Team) : Option (List (Nat × Nat × Nat)) :=
  ((List.range t.ngroups).foldl (fun (o : Option (Used × List (Nat × Nat × Nat))) i => o.bind fun (u, l) =>
    let a := (((s.allSlots t).find? fun e => e.1 == i).map (·.2)).getD (0, 0, 0)
    if !t.out.contains (.group i) then some (u, l ++ [a]) else (u.newSlot q t a.1).map fun (u, b) => (u, l ++ [b])) (some (u, []))).map (·.2)

/-- The base of its stash claim: where rows of it stand the same, if the others are free there. -/
def Used.stashBack (u : Used) (q : Quota) (t : Team) : Option Nat :=
  if t.rowsIn.isEmpty then u.stashRun q t.stashRows
  else if t.rowsOut.all fun i => q.stash.1 ≤ t.stashBase + i && t.stashBase + i < q.stash.1 + q.stash.2
      && !u.stash.any fun x => x.1 ≤ t.stashBase + i && t.stashBase + i < x.1 + x.2 then some t.stashBase
  else none

/-- The tiles of a quadrant: those that stand, and free ones for the others. -/
def Used.tilesBack (u : Used) (q : Quota) (t : Team) (quad : Nat) : Option (List Nat) :=
  let l := nth [] t.tiles quad
  let isOut (i : Nat) : Bool := t.out.contains (.tile (quad * 8 + i))
  let need := ((List.range l.length).filter isOut)
  (u.tileSet q quad need.length).map fun new => l.zipIdx.map fun (k, i) => if isOut i then nth 0 new (need.idxOf i) else k

/-- What a team takes to come back on the core where the rest of it, or of its cluster, stands. -/
def State.takeBack (s : State) (p : Partition) (skip : Cluster → Bool) (t : Team) : Option Take :=
  let q := quotaOf p.force.pquota
  let u := s.usedOn t.core skip
  let ts := (List.range 4).map fun quad => u.tilesBack q t quad
  if !coreBit p.force.pcore t.core || (t.gone && !t.mx.isEmpty && u.mx) || !ts.all Option.isSome then none
  else (s.slotsBack u q t).bind fun slots => (u.stashBack q t).map fun base => { core := t.core, slots, stashBase := base, tiles := ts.map fun o => o.getD [] }

/-- Every team of a list takes what it needs. -/
def State.takesBack (s : State) (p : Partition) (skip : Cluster → Bool) (ts : List Team) : Option (List Take) :=
  let l := ts.map (s.takeBack p skip)
  if l.all Option.isSome then some (l.filterMap id) else none

-- ## retirement

/-- What a retired team held is free: its rows are in P, its locks and records gone (R170, R199, R247). -/
def State.releaseTeam (s : State) (t : Team) : State :=
  let rows := t.rowsIn.map fun i => t.core * 4096 + t.stashBase + i
  let s1 := rows.foldl (fun s k => s.releaseRow k) s
  { s1.dropRecords t with locks := s1.locks.filter fun e => !s.ownsLock t e }

-- ## choosing a place

/-- What stands in the way of a cluster of a shape is spilled, unit by unit (R328). -/
def State.clearFor (s : State) (can : Cluster → Bool) (takes : List Take) (x : Shape) : State :=
  (s.clusters.filter fun c => can c && s.inTheWay c takes x).foldl (fun s c => s.spillUnits c (s.unitInTheWay takes x)) s

/-- A rectangle on free resources, or else on those of halted clusters that may be spilled for it (R169, R327, R328). -/
def State.makeRoom (s : State) (p : Partition) (cls : Nat) (x : Shape) (may : Cluster → Bool) : Option (State × Rect) :=
  match s.findRect p cls x fun _ => false with
  | some r => some (s, r)
  | none =>
    let can (c : Cluster) : Bool := may c && s.spillable c && (p.slotOf c.vf).isSome
    (s.findRect p cls x can).map fun r => (s.clearFor can r.takes x, r)

/-- The places of a cluster of which something stands: free ones, or else those of halted clusters that may be spilled for them. -/
def State.makeRoomBack (s : State) (p : Partition) (c : Cluster) (x : Shape) (may : Cluster → Bool) : Option (State × List Take) :=
  let ts := s.clusterTeams c.key
  match s.takesBack p (fun _ => false) ts with
  | some l => some (s, l)
  | none =>
    let can (d : Cluster) : Bool := d.key != c.key && may d && s.spillable d && (p.slotOf d.vf).isSome
    (s.takesBack p can ts).map fun l => (s.clearFor can l x, l)

end Sys2Proof.Machine
end

