-- ==== Sys2Proof/Machine/Spine.lean ====
section
/-! DEFINITION. Pieces of a copy (R269), and the spine copy commands of copy nodes (R277 to R280, R385): their chunks as the
eight engines choose them, their faults, their budgets (R332) and their completion. -/
namespace Sys2Proof.Machine

-- ## pieces (R269)

/-- A piece of a copy: its place in seq, its length, and where it lies from the bases of destination and source. -/
structure Piece where
  seq : Nat
  len : Nat
  dst : Int
  src : Int

/-- The cuts of a row from x0 to x1 at 16-byte boundaries of the destination; `a` is the row's address. -/
def cuts (a x0 x1 : Nat) : List (Nat × Nat) :=
  let first := 16 - (a + x0) % 16
  (List.range ((x1 - x0 + 15) / 16 + 1)).filterMap fun i =>
    let lo := if i = 0 then x0 else x0 + first + 16 * (i - 1)
    let hi := min x1 (x0 + first + 16 * i)
    if lo < hi then some (lo, hi - lo) else none

/-- The pieces of the bytes of seq from `lo` to `hi`, in order. -/
def piecesIn (dbase xlen ycnt : Nat) (dy dz sy sz : Int) (lo hi : Nat) : List Piece :=
  if hi ≤ lo then []
  else (List.range ((hi - 1) / xlen + 1 - lo / xlen)).flatMap fun i =>
    let n := lo / xlen + i
    let d := rowOffset n ycnt dy dz
    let r := rowOffset n ycnt sy sz
    (cuts ((dbase + d) % 16).toNat (lo - n * xlen) (min xlen (hi - n * xlen))).map fun (x, k) => { seq := n * xlen + x, len := k, dst := d + x, src := r + x }

/-- An address moved by an offset, modulo 2^64. -/
def shiftAddr (a : Word) (o : Int) : Nat := (a + BitVec.ofInt 64 o).toNat

-- ## commands

/-- A copy node's record (R277). -/
structure CopyNode where
  dst : Word
  src : Word
  x : Nat
  y : Nat
  z : Nat
  sstr : Word
  dstr : Word
  dev : Nat
  remote : Bool
  ok : Bool

def copyNode (r : List Word) : CopyNode :=
  let w (k : Nat) : Word := nth 0 r k
  let remote := (w 11).getLsbD 13
  { dst := w 6, src := w 7, x := shapeX (w 8), y := shapeY (w 8), z := shapeZ (w 8), sstr := w 9, dstr := w 10, dev := wfield (w 11) 0 13, remote
    ok := shapeOk (w 8) && wfield (w 11) 14 50 == 0 && (remote || wfield (w 11) 0 13 == 0) && (r.drop 12).all (fun x => x == 0) }

def CopyNode.bytes (c : CopyNode) : Nat := c.x * c.y * c.z
def CopyNode.chunks (c : CopyNode) : Nat := (c.bytes + 4095) / 4096
def CopyNode.chunk (c : CopyNode) (n : Nat) : List Piece :=
  piecesIn c.dst.toNat c.x c.y (strideY c.dstr) (strideZ c.dstr) (strideY c.sstr) (strideZ c.sstr) (n * 4096) (min c.bytes ((n + 1) * 4096))

/-- A running spine command: VF, graph slot, node, class, its record and its progress. -/
structure SpineCmd where
  vf : Nat
  gslot : Nat
  node : Nat
  cls : Nat
  rcd : CopyNode
  prog : SpineCopy

/-- The spine commands of a partition. -/
def State.spineCmds (s : State) (p : Partition) : List SpineCmd :=
  (p.vfsOf 65535).flatMap fun v => (s.vf v).slots.flatMap fun (k, sl) => match sl.running with
    | none => []
    | some l => l.nodes.filterMap fun n => match n.copy with
      | some c => if n.state = .running then
          let r := nth [] sl.nodes n.idx
          some { vf := v, gslot := k, node := n.idx, cls := nodeClass r, rcd := copyNode r, prog := c } else none
      | none => none

/-- The work of a queue is stopped: its VF slot is halted and not resumed, or an eviction has checkpointed it (R327, R339). -/
def Partition.stopped (p : Partition) (vf cls : Nat) : Bool :=
  match p.slotOf vf with
  | none => true
  | some i => p.held.getLsbD i || (match p.evict with
      | some e => e.queues.any fun q => q.vfslot == i && q.cls == cls && q.decision == 2
      | none => false)

/-- Spine copies of a VF park at their next chunk boundary (R327): a cluster of it is being stopped, `halt` has stopped one (R330), or a
shrink has suspended one (R179). -/
def State.parksCopies (s : State) (p : Partition) (vf : Nat) : Bool :=
  (p.slotOf vf).any (fun i => p.hlt.getLsbD i) || s.clusters.any fun c => c.vf == vf && (c.halting || (c.cause == 6 && c.residence != .resident))

/-- Bytes of a chunk. -/
def CopyNode.size (c : CopyNode) (n : Nat) : Nat := min c.bytes ((n + 1) * 4096) - n * 4096

/-- A partition's turn before another's: served(p)/PWT(p) ascending (R168). -/
def servedBefore (a b : Partition) : Bool := decide (a.served * wfield b.force.pwt 0 8 < b.served * wfield a.force.pwt 0 8)

/-- The bytes of a chunk leave D of its partition within CAP, as for a copy (R336, R337). -/
def State.chunkFits (s : State) (p : Partition) (c : SpineCmd) (chunk : Nat) : Bool := decide (s.partDirty p + c.rcd.size chunk ≤ p.cap)

/-- The command whose chunk an engine takes next (R278): class, then served/PWT, then ready time. -/
def State.nextChunk (s : State) : Option (Partition × SpineCmd × Nat) :=
  let all := s.parts.flatMap fun p => (s.spineCmds p).filterMap fun c => match c.prog.todo with
    | n :: _ => if c.prog.parked.isNone && !p.stopped c.vf c.cls && !s.parksCopies p c.vf && s.affords engineUnit c.vf c.cls (c.rcd.size n) && s.chunkFits p c n then some (p, c, n) else none
    | [] => none
  let before (a b : Partition × SpineCmd × Nat) : Bool :=
    if a.2.1.cls ≠ b.2.1.cls then decide (a.2.1.cls < b.2.1.cls)
    else if servedBefore a.1 b.1 then true else if servedBefore b.1 a.1 then false else decide (a.2.1.prog.ready < b.2.1.prog.ready)
  all.foldl (fun best a => match best with | none => some a | some b => if before a b then some a else some b) none

def State.setCopy (s : State) (c : SpineCmd) (x : Option SpineCopy) : State := s.setNode c.vf c.gslot c.node fun n => { n with copy := x }

/-- The agent of a spine command (R220, R391). -/
def SpineCmd.agent (c : SpineCmd) : Agent := { Agent.nobody with kind := 6, vf := c.vf, gslot := c.gslot, node := c.node, slot := c.node % 256 }

-- ## the bytes of a chunk

/-- Granules translated for the spine: granule and physical base. -/
def State.spinePages (s : State) (vf : Nat) (acc : Access) : List Nat → Except TrapReq (List (Nat × Nat)) × State
  | [] => (.ok [], s)
  | gr :: r =>
    match s.translate { core := none, vf, sys := true } acc (BitVec.ofNat 64 (gr * 65536)) with
    | (.error t, s) => (.error t, s)
    | (.ok (pa, _), s) => match s.spinePages vf acc r with
      | (.error t, s) => (.error t, s)
      | (.ok l, s) => (.ok ((gr, pa) :: l), s)

/-- Granules that hold some ranges, each once. -/
def granulesOf (l : List (Nat × Nat)) : List Nat :=
  (l.flatMap fun (a, n) => (List.range ((a % 65536 + n + 65535) / 65536)).map fun i => (a / 65536 + i) % 2 ^ 48).eraseDups

/-- The physical parts of a virtual range, by line. -/
def physParts (pages : List (Nat × Nat)) (va n : Nat) : List (Nat × Nat) :=
  (lineParts va n).map fun (a, k) => (((pages.find? fun p => p.1 == a / 65536 % 2 ^ 48).map (·.2)).getD 0 + a % 65536, k)

/-- Reads parts in the order of their lines, charged at their banks (R332); an error while one is held. -/
def State.readParts (s : State) (c : SpineCmd) (l : List (Nat × Nat)) : Except State (List Byte × State) :=
  l.foldl (fun o (pa, k) => o.bind fun (bs, s) => (s.orderLines c.vf c.agent pa k false).map fun s =>
    let (b, s) := (s.charge (bankUnit (pa / lineBytes)) c.vf c.cls k).readMem pa k
    (bs ++ b, s)) (.ok ([], s))

def State.writeParts (s : State) (c : SpineCmd) (l : List (Nat × Nat)) (bs : List Byte) : Except State State :=
  (l.foldl (fun (o : Except State (List Byte × State)) (pa, k) => o.bind fun (r, s) =>
    (s.orderLines c.vf c.agent pa k true).map fun s =>
      (r.drop k, (s.charge (bankUnit (pa / lineBytes)) c.vf c.cls k).writeMem pa (r.take k))) (.ok (bs, s))).map (·.2)

/-- The budgets of the banks cover the requests for some parts (R332). -/
def State.banksAfford (s : State) (c : SpineCmd) (l : List (Nat × Nat)) : Bool := l.all fun (pa, k) => s.affords (bankUnit (pa / lineBytes)) c.vf c.cls k

/-- How a chunk's bytes end up: moved, with what goes to another device; not translated; held by a replay or for a budget, the Wiuno link
or room in a stream; or refused by the remote end. -/
inductive Moved where
  | done (s : State) (out : List (Nat × List Byte))
  | fault (t : TrapReq) (s : State)
  | held (s : State)
  | refused (s : State)

/-- The chunk goes to another device, or to this device's own number (R385). -/
def CopyNode.away (c : CopyNode) (s : State) : Bool := c.remote && c.dev != s.deviceNum

/-- A chunk is translated whole and then moved, each piece as one read and one write (R269, R280); the pieces of a chunk for another
device are read, and their bytes go there. -/
def State.moveChunk (s : State) (c : SpineCmd) (chunk : Nat) (perform : Bool) : Moved :=
  let ps := c.rcd.chunk chunk
  let srcs := ps.map fun p => (shiftAddr c.rcd.src p.src, p.len)
  let dsts := ps.map fun p => (shiftAddr c.rcd.dst p.dst, p.len)
  match s.spinePages c.vf .read (granulesOf srcs) with
  | (.error t, s) => .fault t s
  | (.ok sp, s) =>
    let src (p : Piece) : List (Nat × Nat) := physParts sp (shiftAddr c.rcd.src p.src) p.len
    if c.rcd.away s then
      if !perform then .done s []
      else if 256 ≤ s.streamCount c.rcd.dev c.cls ∨ !ps.all (fun p => s.banksAfford c (src p)) then .held s
      else match ps.foldl (fun (o : Except State (List (Nat × List Byte) × State)) p => o.bind fun (l, s) =>
          (s.readParts c (src p)).map fun (bs, s) => (l ++ [(shiftAddr c.rcd.dst p.dst, bs)], s)) (.ok ([], s)) with
        | .ok (l, s) => .done s l
        | .error s => .held s
    else if c.rcd.remote ∧ !(s.vf c.vf).frcopy.getLsbD 0 then .refused s
    else match s.spinePages c.vf .write (granulesOf dsts) with
      | (.error t, s) => if t.grp = 31 then .held s else if c.rcd.remote then .refused s else .fault t s
      | (.ok dp, s) =>
        let dst (p : Piece) : List (Nat × Nat) := physParts dp (shiftAddr c.rcd.dst p.dst) p.len
        if !perform then .done s []
        else if !ps.all (fun p => s.banksAfford c (src p ++ dst p)) then .held s
        else match ps.foldl (fun (o : Except State State) p => o.bind fun s =>
            (s.readParts c (src p)).bind fun (bs, s) => s.writeParts c (dst p) bs) (.ok s) with
          | .ok s => .done s []
          | .error s => .held s

/-- A chunk's bytes enter the stream to another device (R206, R373, R385). -/
def State.sendChunk (s0 : State) (c : SpineCmd) (chunk : Nat) (bytes : List (Nat × List Byte)) : State :=
  let (num, s) := s0.stamp (fabricStream c.rcd.dev c.cls)
  { s with fabric := { s.fabric with chunks := s.fabric.chunks ++ [{ dev := c.rcd.dev, cls := c.cls, vf := c.vf, gslot := c.gslot, node := c.node, chunk
                                                                     num, port := s.portFor c.rcd.dev c.cls, bytes }] } }

-- ## events

/-- A fault parks the command and is posted (R280); with its ring disabled it is fatal to the node (R313, R319). -/
def State.parkCopy (s : State) (c : SpineCmd) (chunk : Nat) (t : TrapReq) : State :=
  if t.grp = 31 then s
  else match s.postEngine c.vf t (engAddr c.node chunk c.gslot) true with
    | (some tag, s) => s.setCopy c (some { c.prog with parked := some tag })
    | (none, s) => (s.setCopy c none).failNode c.vf c.gslot c.node 33 (t.cause false).toNat

/-- The node fails with a status code and its command is gone. -/
def State.failCopy (s : State) (c : SpineCmd) (code : Nat) : State := (s.setCopy c none).failNode c.vf c.gslot c.node code 0

/-- Progress of a command; with every chunk performed the node completes (R280). -/
def State.progress (s : State) (c : SpineCmd) (x : SpineCopy) : State :=
  if x.todo.isEmpty ∧ x.running.isEmpty then (s.setCopy c none).nodeDone c.vf c.gslot c.node else s.setCopy c (some x)

def chunkTrace (s : State) (type : Nat) (c : SpineCmd) (chunk engine : Nat) : State :=
  s.tracePacket c.vf type [BitVec.ofNat 64 c.agent.slot, BitVec.ofNat 64 c.node, BitVec.ofNat 64 chunk, BitVec.ofNat 64 engine]

/-- SPINE_CHUNK_SELECT (R278): a free engine takes its next chunk, translates it and starts it, charged to its budget. -/
def execSpineChunkSelect (engine : Nat) (s : State) : Host.Outcome State Fault Refusal :=
  let busy : Bool := s.parts.any fun p => (s.spineCmds p).any fun c => c.prog.running.any fun r => r.1 == engine
  if 8 ≤ engine ∨ busy then .next s
  else match s.nextChunk with
    | none => .next s
    | some (_p, c, n) => match s.moveChunk c n false with
      | .held s => .next s
      | .fault t s => .next (s.parkCopy c n t)
      | .refused s => .next (s.failCopy c 35)
      | .done s _ =>
        let s1 := s.charge engineUnit c.vf c.cls (c.rcd.size n)
        .next (chunkTrace (s1.setCopy c (some { c.prog with todo := c.prog.todo.erase n, running := c.prog.running ++ [(engine, n)] })) 3 c n engine)

/-- The command and chunk that an engine runs; engine 8 stands for chunks that wait for the acknowledgement of another device. -/
def State.onEngine (s : State) (engine : Nat) : Option (SpineCmd × Nat) :=
  s.parts.findSome? fun p => (s.spineCmds p).findSome? fun c => (c.prog.running.find? fun r => r.1 == engine).map fun r => (c, r.2)

/-- SPINE_CHUNK_COMPLETE (R279, R280): the chunk of an engine performs; `error` other than 0 is uncorrectable source data, which
fails the launch with code 32. -/
def execSpineChunkComplete (engine error : Nat) (s : State) : Host.Outcome State Fault Refusal :=
  if 8 ≤ engine then .next s
  else match s.onEngine engine with
    | none => .next s
    | some (c, n) =>
      let rest := c.prog.running.erase (engine, n)
      if error ≠ 0 then .next (s.failCopy c 32)
      else match s.moveChunk c n true with
        | .held s => .next s
        | .fault t s => if t.grp = 31 then .next s else .next (s.parkCopy { c with prog := { c.prog with running := rest, todo := n :: c.prog.todo } } n t)
        | .refused s => .next (s.failCopy c 35)
        | .done s out =>
          let away := c.rcd.away s
          let x := { c.prog with running := if away then rest ++ [(8, n)] else rest }
          let s1 := if away then s.sendChunk c n out else (s.stamp (engineStream engine c.cls)).2
          .next ((chunkTrace s1 4 c n engine).progress c x)

/-- REMOTE_COPY_ACK (R385): another device has performed a chunk's writes, or has refused them. -/
def execRemoteCopyAck (vf slot node chunk : Nat) (ok : Bool) (s : State) : Host.Outcome State Fault Refusal :=
  match (s.partOf vf).bind fun p => (s.spineCmds p).find? fun c => c.vf == vf && c.gslot == slot && c.node == node with
  | none => .next s
  | some c =>
    if !c.prog.running.contains (8, chunk) then .next s
    else
      let s := { s with fabric := { s.fabric with chunks := s.fabric.chunks.filter fun x =>
        !(x.vf == vf && x.gslot == slot && x.node == node && x.chunk == chunk) } }
      if ok then .next (s.progress c { c.prog with running := c.prog.running.erase (8, chunk) }) else .next (s.failCopy c 35)

/-- BUDGET_REFILL (R332): the budgets of a VF and class gain bytes at every unit, up to 64 KiB; a rate of 0 never refills. -/
def execBudgetRefill (vf cls bytes : Nat) (s : State) : Host.Outcome State Fault Refusal :=
  if s.rateOf vf cls = 0 ∨ 4 ≤ cls ∨ 192 ≤ vf then .next s
  else
    let mine (k : Nat) : Bool := k % 1024 == vf * 4 + cls
    .next { s with spent := (s.spent.map fun e => if mine e.1 then (e.1, e.2 - bytes) else e).filter fun e => e.2 != 0 }

end Sys2Proof.Machine
end

