-- ==== Sys2Proof/Machine/Schedule.lean ====
section
/-! DEFINITION. The dispatcher (R168 to R173, R178, R334): queue heads in their order, starting nodes of each type, placing
clusters; event nodes (R163, R167) and notify nodes (R384); the retirement of clusters and the completion of kernels. -/
namespace Sys2Proof.Machine

-- ## kernels

/-- X × Y × Z and L of a kernel record (R162, R171). -/
def gridOfRec (r : List Word) : Nat := let w := nth (0 : Word) r 8; wfield w 0 16 * wfield w 16 16 * wfield w 32 16
def positionsOf (r : List Word) : Nat :=
  let n := wfield (nth 0 r 10) 32 32
  let x := shapeOf r
  max 1 (if n = 0 then gridOfRec r else n / (x.w * x.h))

/-- A queue head: partition, VF, class, its item, its record, its launch and its run. -/
structure Head where
  p : Partition
  vf : Nat
  cls : Nat
  item : QItem
  rcd : List Word
  count : Nat
  run : NodeRun

/-- A kernel's code of R166 at dispatch: 6 for a DET that differs, 5 for a FIXED cooperative grid that does not give every
cluster its position (R171). -/
def Head.refused (h : Head) (det : Bool) : Option Nat :=
  let n := wfield (nth 0 h.rcd 10) 32 32
  let x := shapeOf h.rcd
  if (nth (0 : Word) h.rcd 9).getLsbD 39 != det then some 6
  else if det && (nth (0 : Word) h.rcd 0).getLsbD 8 && n != 0 && n != x.w * x.h * gridOfRec h.rcd then some 5 else none

/-- A halted cluster may be moved for a position of a kernel: with DET = 1 one of the same grid only where it waits at the grid barrier
(R173). -/
def State.yields (s : State) (vf gslot node launch : Nat) (d : Cluster) : Bool :=
  !(s.det vf && d.vf == vf && d.gslot == gslot && d.node == node && d.launch == launch) || d.atGrid

/-- Places one cluster and launches it; `limited` applies CAP, the save area and a deadline. -/
def State.placeOne (s : State) (h : Head) (i : Nat) (limited : Bool) : Option State :=
  let x := shapeOf h.rcd
  (s.makeRoom (s.part h.p.num) h.cls x (s.yields h.vf h.item.gslot h.item.node h.count)).bind fun (s1, r) =>
    if limited && !s1.claimFits (s1.part h.p.num) h.vf x.dirty then none
    else some (s1.launchCluster h.p.num h.vf h.item.gslot h.item.node h.count h.cls i h.rcd x r)

/-- Places clusters from `i` on. -/
def State.placeMany (s : State) (h : Head) (limited : Bool) : List Nat → Option State
  | [] => some s
  | i :: r => (s.placeOne h i limited).bind fun s1 => s1.placeMany h limited r

/-- How placing goes: on, to a failure of the launch, or not now. -/
inductive Placed where
  | on (s : State) (n : Nat)
  | fails (code : Nat)
  | no

/-- The next clusters of a kernel: all of a cooperative FREE grid at once, else one; a FIXED cluster waits for the one before it
in its position (R168, R171, R178). -/
def State.placeNext (s : State) (h : Head) : Placed :=
  let i := h.run.placed
  let det := s.det h.vf
  let all := gridOfRec h.rcd
  match h.refused det with
  | some c => .fails c
  | none =>
    if !det && (nth (0 : Word) h.rcd 0).getLsbD 8 then
      let empty := { s with groups := [], teams := [], clusters := [] }
      match empty.placeMany h false (List.range all) with
      | none => .fails 5
      | some _ => match s.placeMany h true (List.range all) with
        | some s1 => .on s1 all
        | none => .no
    else
      let l := positionsOf h.rcd
      let before : Bool := det && l ≤ i && s.clusters.any fun c =>
        c.vf == h.vf && c.gslot == h.item.gslot && c.node == h.item.node && c.launch == h.count && c.clustid == i - l
      if before then .no else match s.placeOne h i true with
        | some s1 => .on s1 1
        | none => .no

-- ## event and notify nodes

/-- An access of an event node was refused or faulted (R167): it waits for its replay, or the launch fails. -/
def State.eventFault (s : State) (vf k idx : Nat) (t : TrapReq) : State :=
  if t.grp = 31 then s
  else if t.waits then
    match s.postEngine vf t (engAddr idx 0 k) true with
    | (some tag, s) => s.setNode vf k idx fun n => { n with wait := some tag }
    | (none, s) => s.failNode vf k idx 33 (t.cause false).toNat
  else s.failLaunch vf k 7 idx

/-- The message of a notify node (R376, R384). -/
def State.notifyMsg (s : State) (vf : Nat) (r : List Word) : Msg :=
  { dst := nth 0 r 6, kind := 2, srcDev := BitVec.ofNat 13 s.deviceNum, srcPart := BitVec.ofNat 4 (((s.partOf vf).map (·.num)).getD 0)
    srcVf := BitVec.ofNat 8 vf, clust := 0xFFFFFFFFFFFF, team := 0, grp := 0, seq := 0
    payload := (List.range 16).map fun i => BitVec.ofNat 32 (wfield (nth 0 r (7 + i / 2)) (32 * (i % 2)) 32) }

/-- A running event-wait, event-signal or notify node acts, and completes if it can (R163, R384). -/
def State.actNode (s : State) (vf k idx : Nat) : State :=
  match s.slot? vf k, s.node? vf k idx with
  | some x, some n =>
    let r := nth [] x.nodes idx
    if n.state ≠ .running ∨ n.wait.isSome then s
    else if nodeType r = 2 then
      match s.schedRead vf (nth (0 : Word) r 6).toNat 8 with
      | (.error t, s) => s.eventFault vf k idx t
      | (.ok bs, s) => if (nth (0 : Word) r 7).toNat ≤ leNat bs then s.nodeDone vf k idx else s
    else if nodeType r = 3 then
      match s.schedWrite vf (nth (0 : Word) r 6).toNat (leBytes 8 (nth (0 : Word) r 7).toNat) with
      | (.error t, s) => s.eventFault vf k idx t
      | (.ok _, s) => s.nodeDone vf k idx
    else if nodeType r = 4 then
      let d := nth (0 : Word) r 6
      if 256 ≤ s.streamLoad d then s.accepted d else ((s.sendMessage (s.notifyMsg vf r) vf).count vf 11 1).nodeDone vf k idx
    else s
  | _, _ => s

/-- EVENT_WAIT_POLL (R163, R167): a running event node acts again. -/
def execEventWaitPoll (vf slot node : Nat) (s : State) : Host.Outcome State Fault Refusal :=
  let cls := ((s.slot? vf slot).map fun x => nodeClass (nth [] x.nodes node)).getD 0
  if ((s.partOf vf).map fun p => p.stopped vf cls).getD true then .next s else .next (s.actNode vf slot node)

-- ## starting nodes

/-- A node leaves ready for running, and the log names it (R397). -/
def State.startNode (s : State) (h : Head) : State :=
  (s.setNode h.vf h.item.gslot h.item.node fun n => { n with state := .running }).noteSpine h.vf 0x20
    (h.item.node + h.item.gslot * 2 ^ 16) [BitVec.ofNat 64 h.count]

/-- A head that is no kernel starts and leaves its queue (R168). -/
def State.startOther (s : State) (h : Head) : State :=
  let k := h.item.gslot
  let idx := h.item.node
  let s1 := (s.startNode h).unqueue h.vf k idx
  match nodeType h.rcd with
  | 1 =>
    let c := copyNode h.rcd
    if c.ok then s1.setNode h.vf k idx fun n => { n with copy := some { todo := List.range c.chunks, running := [], total := c.chunks, parked := none, ready := h.item.time } }
    else s1.failLaunch h.vf k 7 idx
  | 4 => if (s.dstTrap (nth 0 h.rcd 6)).isSome || (h.rcd.drop 15).any (fun x => x != 0) then s1.failLaunch h.vf k 7 idx else s1.actNode h.vf k idx
  | _ => s1.actNode h.vf k idx

/-- A kernel head starts or goes on; none when nothing can be placed. -/
def State.runKernel (s : State) (h : Head) : Option State :=
  let k := h.item.gslot
  let s0 := if h.run.state = .ready then s.startNode h else s
  match s0.placeNext h with
  | .no => none
  | .fails c => some (s0.failLaunch h.vf k c h.item.node |>.unqueue h.vf k h.item.node)
  | .on s1 n =>
    let s2 := s1.setNode h.vf k h.item.node fun r => { r with placed := r.placed + n }
    some (if gridOfRec h.rcd ≤ h.run.placed + n then s2.unqueue h.vf k h.item.node else s2)

/-- A queue item that may still start or go on: its node runs, or is ready in a launch that has not failed. -/
def State.liveItem (s : State) (vf : Nat) (i : QItem) : Bool :=
  match s.node? vf i.gslot i.node, (s.slot? vf i.gslot).bind (·.running) with
  | some n, some l => n.state == .running || (n.state == .ready && l.failure.isNone)
  | _, _ => false

/-- The head of a node. -/
def State.headOf (s : State) (p : Partition) (vf : Nat) (i : QItem) : Option Head :=
  match s.slot? vf i.gslot, s.node? vf i.gslot i.node with
  | some x, some n => let r := nth [] x.nodes i.node
    some { p, vf, cls := nodeClass r, item := i, rcd := r, count := ((x.running.map (·.count)).getD 0), run := n }
  | _, _ => none

/-- A grid suspended by a shrink blocks its queue (R179). -/
def State.suspended (s : State) (vf cls : Nat) : Bool := s.clusters.any fun c => c.vf == vf && c.cls == cls && c.cause == 6 && c.residence != .resident

/-- The heads of a class that may act: not while an APPLY is under way (R322), not of a halted VF (R334), and unstarted ones not of a VF under eviction (R338). -/
def State.heads (s : State) (cls : Nat) : List Head :=
  (s.parts.filter fun p => (p.mode.extractLsb' 2 2) != 2 && p.applying.isNone && !p.log.pending.any fun x => x.core == 256).flatMap fun p =>
    (p.vfsOf 65535).filterMap fun v =>
      (((nth [] (s.vf v).queues cls).find? fun i => s.liveItem v i).bind fun i => s.headOf p v i).bind fun h =>
        let evicted : Bool := (p.slotOf v).any fun j => p.evf.getLsbD j
        if p.stopped v cls || s.suspended v cls || (evicted && h.run.state == .ready) then none else some h

/-- Heads in the order of R168. -/
def insertHead (h : Head) : List Head → List Head
  | [] => [h]
  | g :: r =>
    let first : Bool := if servedBefore h.p g.p then true else if servedBefore g.p h.p then false
      else decide (h.item.time < g.item.time ∨ (h.item.time = g.item.time ∧ h.vf < g.vf))
    if first then h :: g :: r else g :: insertHead h r

/-- The first head of a class that can act does so. -/
def State.tryHeads (s : State) : List Head → Option State
  | [] => none
  | h :: r => if nodeType h.rcd ≠ 0 then some (s.startOther h) else match s.runKernel h with
    | some s1 => some s1
    | none => s.tryHeads r

/-- One action of the dispatcher's loop. -/
def State.dispatch (s : State) : Option State :=
  [0, 1, 2, 3].findSome? fun c => s.tryHeads ((s.heads c).foldl (fun l h => insertHead h l) [])

-- ## dispatch in a replay (R388, R404)

/-- A launch that a NODE event names begins: its roots are released, with the node records as they stand. -/
def State.replayLaunch (s : State) (vf k count : Nat) : State :=
  match s.slot? vf k with
  | none => s
  | some x => if x.running.isSome then s else
    let l : Launch := { count, failure := none, waiting := none, colophon := [], noRecord := false
                        nodes := x.nodes.zipIdx.map fun (_, i) => { idx := i, state := .waiting, deps := 0, placed := 0, retired := 0, life := 0, copy := none, wait := none } }
    x.nodes.zipIdx.foldl (fun s (r, i) => if nodeDeps r = 0 then s.releaseNode vf k i else s) (s.setSlot vf k { x with count, running := some l, pl := 0 })

/-- A partition that replays: the next logged node start or cluster of a VF takes place, if it can. -/
def State.replayVf (s : State) (p : Partition) (vf : Nat) : Option State :=
  match (s.eventsAt (.spine vf)).find? fun e => e.code == 0x20 || e.code == 0x21 with
  | none => none
  | some e =>
    let idx := (e.a.extractLsb' 0 16).toNat
    let k := (e.a.extractLsb' 16 6).toNat
    let w := (nth (0 : Word) e.more 0).toNat
    let s0 := if e.code = 0x20 then s.replayLaunch vf k w else s
    match s0.headOf p vf { gslot := k, node := idx, time := s.clock } with
    | none => none
    | some h =>
      let met (s : State) : State := s.meetEvent (.spine vf) e
      if e.code = 0x20 then
        (if h.run.state = .ready ∧ h.count = w then
          some (met (if nodeType h.rcd ≠ 0 then s0.startOther h
            else match h.refused (s.det vf) with
              | some c => (s0.startNode h).failLaunch vf k c idx
              | none => s0.startNode h))
        else none)
      else if h.run.state = .running ∧ nodeType h.rcd = 0 ∧ h.run.placed = w then
        (s0.placeOne h w true).map fun s1 =>
          let s2 := s1.setNode vf k idx fun r => { r with placed := r.placed + 1 }
          met (if gridOfRec h.rcd ≤ w + 1 then s2.unqueue vf k idx else s2)
      else none

/-- DISPATCH_STEP (R168): the dispatcher acts once, for a partition that replays as its log says. -/
def execDispatchStep (s : State) : Host.Outcome State Fault Refusal :=
  match s.dispatch with
  | some s1 => .next s1
  | none =>
    match s.parts.findSome? fun p => if p.log.rpstat.toNat % 256 = 3 then (p.vfsOf 65535).findSome? fun v => s.replayVf p v else none with
    | some s1 => .next s1
    | none => .next s

-- ## retirement

/-- Every team of the cluster has ended and nothing it issued is left (R149, R170). -/
def State.clusterOver (s : State) (c : Cluster) : Bool :=
  c.residence != .saved && (s.clusterTeams c.key).all fun t =>
    (s.teamGroups t.key).isEmpty && t.filed.isEmpty && t.drawn.isEmpty && t.seqr.flight.isEmpty && t.seqr.faultPost.isNone
      && !s.bins.any fun b => b.team == t.key

/-- The energy record of a team (R428); a write that is refused is posted as R167 gives for a completion address. -/
def State.energyRecord (s : State) (c : Cluster) (t : Team) : State :=
  let b := (s.vf c.vf).ebase
  let n := wfield b 0 5
  if b = 0 ∨ 20 < n then s
  else
    let a := b.toNat / 4096 * 4096 + (c.clustid * (c.w * c.h) + t.num) % 2 ^ n * 64
    match s.schedWrite c.vf a (leBytes 8 c.gridid ++ leBytes 8 c.clustid ++ leBytes 8 t.num ++ leBytes 8 t.enacc.toNat ++ leBytes 8 t.retired ++ leBytes 24 0) with
    | (.ok _, s) => s
    | (.error x, s) => if x.grp = 31 then s else (s.postEngine c.vf x (engAddr c.node 0 c.gslot) false).2

/-- CLUSTER_RETIRE (R170): a cluster all of whose teams have ended releases what it held; its node counts it. -/
def execClusterRetire (cluster : Nat) (s0 : State) : Host.Outcome State Fault Refusal :=
  let s := s0.reap
  match s.cluster? cluster with
  | none => .next s
  | some c =>
    if !s.clusterOver c then .next s
    else
      let s1 := (s.clusterTeams c.key).foldl (fun s t => match (s.closeSig t.key).team? t.key with
        | some u => ((s.closeSig t.key).energyRecord c u).releaseTeam u
        | none => s) s
      let s2 := (s1.dropCluster c).setNode c.vf c.gslot c.node fun n => { n with retired := n.retired + 1, life := n.life + (s.ns - c.started) }
      let s3 := s2.unpin c.vf
      let failed : Bool := ((s3.node? c.vf c.gslot c.node).map fun n => n.state == .failed).getD false
      .next (if failed && !s3.clusters.any (fun d => d.vf == c.vf && d.gslot == c.gslot && d.node == c.node) then
        { s3 with slots := s3.slots.filter fun x => !(x.vf == c.vf && x.gslot == c.gslot && x.node == c.node) } else s3)

/-- KERNEL_COMPLETE (R163): every cluster has retired; what is staged is folded (R236), and the node completes. -/
def execKernelComplete (vf slot node : Nat) (s : State) : Host.Outcome State Fault Refusal :=
  match s.slot? vf slot, s.node? vf slot node with
  | some x, some n =>
    let r := nth [] x.nodes node
    let all := gridOfRec r
    if nodeType r ≠ 0 ∨ n.state ≠ .running ∨ n.placed ≠ all ∨ n.retired ≠ all then .next s
    else match s.foldOrdered vf fun y => y.vf == vf && y.gslot == slot && y.node == node with
      | .error s1 => .next s1
      | .ok s1 => .next (s1.nodeDone vf slot node)
  | _, _ => .next s

end Sys2Proof.Machine
end

