-- ==== Sys2Proof/Machine/Traps.lean ====
section
/-! DEFINITION. Completing a trap's entry (R302, R306, R307, R295), posting fault and debug records (R313, R314, R418), replay
commands (R311, R313), and the debug agent's commands (R415, R418 to R420). -/
namespace Sys2Proof.Machine

-- ## entries (R306, R307)

/-- The group may take an asynchronous trap now: it is at a word or at a barrier, not at a replay or a stop (R295, R307). -/
def Group.takesAsync (g : Group) : Bool :=
  g.trap.entry.isNone && !g.trap.async.isEmpty && (match g.wait with
    | .run | .bar _ => true
    | .fault _ _ | .debug _ | .stopped | .ended => false)

/-- The first asynchronous trap of a group is taken at the word it would issue next. -/
def State.takeAsync (s : State) (g : Group) : State :=
  match g.trap.async with
  | [] => s
  | t :: r =>
    let (s1, g1) := s.withdraw { g with trap := { g.trap with async := r } }
    (s1.setGroup g1).takeTrap g1 { t with pc := g1.pc, async := true }

/-- The event at a group's next word: an instruction breakpoint (R417). -/
def State.breakpoint (s : State) (g : Group) : Option TrapReq :=
  if g.exempt ∨ !s.attached g.id.vf ∨ g.wait ≠ .run ∨ g.trap.entry.isSome ∨ g.live = 0 then none
  else [0, 1].findSome? fun n =>
    let w := nth (0 : Word) g.cmp.ibp n
    if w.getLsbD 0 ∧ w &&& ~~~7 = g.pc then some { mkTrap 18 2 (g.pc.toNat + 2 ^ 64 * n) with pc := g.pc } else none

/-- The cluster of a group is resident: one that has halted takes its traps after it is restored (R307). -/
def State.standing (s : State) (g : Group) : Bool := ((s.cluster? g.id.cluster).map fun c => c.residence == .resident).getD false

/-- A trap of a group that goes one of some ways is delivered, once the group has drained; with none pending an asynchronous
one is taken, after a breakpoint at the next word (R307). -/
def State.settleTrap (s : State) (key : Nat) (ways : List Way) : State :=
  match s.group? key with
  | none => s
  | some g =>
    let way (t : TrapReq) : Way := trapWay t (s.det g.id.vf) g.trap (s.vf g.id.vf).stvec
    if !s.standing g then s
    else match g.trap.entry with
    | some t => if g.drained ∧ ways.contains (way t) then s.deliver g t else s
    | none => match g.trap.async with
      | t :: _ => if g.takesAsync ∧ (s.breakpoint g).isNone ∧ ways.contains (way { t with async := true }) then s.takeAsync g else s
      | [] => s

/-- HANDLER_ENTRY (R306). -/
def execHandlerEntry (g : Nat) (s : State) : Host.Outcome State Fault Refusal := .next (s.settleTrap g [.user, .system])

/-- FATAL_TRAP (R319). -/
def execFatalTrap (g : Nat) (s : State) : Host.Outcome State Fault Refusal := .next (s.settleTrap g [.fatal])

/-- REPLAYABLE_FAULT (R311). -/
def execReplayableFault (g : Nat) (s : State) : Host.Outcome State Fault Refusal := .next (s.settleTrap g [.replay])

/-- DEBUG_EVENT (R418): the event at the next word, or one that is pending, stops the group. -/
def execDebugEvent (key : Nat) (s : State) : Host.Outcome State Fault Refusal :=
  match s.group? key with
  | none => .next s
  | some g => match s.breakpoint g with
    | some t => .next (if s.standing g then s.takeTrap g t else s)
    | none => .next (s.settleTrap key [.debug])

-- ## posting records (R313)

/-- The trap of a record's TCAUSE image, with its detail. -/
def postTrap (bs : List Byte) : TrapReq :=
  let a := leNat (bs.take 4)
  { mkTrap (field a 11 5) (field a 0 11) (leNat ((bs.drop 8).take 12)) (if a.testBit 24 then some (field a 16 8) else none) with async := a.testBit 30 }

/-- VFs whose faults go to a ring, and the tag under which an agent keeps a fault of it. -/
def State.ringVfs (s : State) (r : RingRef) : List Nat :=
  match r with
  | .vf n => [n]
  | .host p | .debug p => (s.part p).vfsOf 65535

/-- Agents other than groups that wait under a tag: sequencers, spine commands, nodes, launches, graph loads (R311). -/
def State.waitingTags (s : State) (r : RingRef) : List Nat :=
  let vs := s.ringVfs r
  let mine (tag : Nat) : Bool := (match r with | .host _ => true | .vf _ | .debug _ => false) == decide (2 ^ 32 ≤ tag) && decide (tag < 2 ^ 33)
  let seqs := s.teams.filterMap fun t => if ((s.cluster? t.cluster).map fun c => vs.contains c.vf).getD false then t.seqr.fault else none
  let nodes := vs.flatMap fun v => (s.vf v).slots.flatMap fun (_, sl) => match sl.running with
    | some l => l.waiting.toList ++ l.nodes.flatMap fun n => n.wait.toList ++ ((n.copy.bind (·.parked)).toList)
    | none => []
  (seqs ++ nodes ++ vs.flatMap fun v => (s.vf v).gloadWait.map (·.2)).filter mine

/-- Every agent that waits under a tag goes on (R167, R280, R286, R311). -/
def State.releaseTag (s : State) (vs : List Nat) (tag : Nat) : State :=
  let s1 := { s with teams := s.teams.map fun (t : Team) =>
    if t.seqr.fault = some tag ∧ ((s.cluster? t.cluster).map fun c => vs.contains c.vf).getD false then { t with seqr := { t.seqr with fault := none } } else t }
  vs.foldl (fun s v =>
    let x := s.vf v
    let node (n : NodeRun) : NodeRun :=
      { n with wait := if n.wait = some tag then none else n.wait
               copy := n.copy.map fun (c : SpineCopy) => if c.parked = some tag then { c with parked := none } else c }
    let slot (e : Nat × GraphSlot) : Nat × GraphSlot := (e.1, { e.2 with running := e.2.running.map fun (l : Launch) =>
      { l with waiting := if l.waiting = some tag then none else l.waiting, nodes := l.nodes.map node } })
    let (now, rest) := x.gloadWait.partition fun e => e.2 == tag
    now.foldl (fun s e => s.gload v e.1) (s.setVf { x with slots := x.slots.map slot, gloadWait := rest })) s1

/-- The fault of an agent whose record cannot be posted is fatal to it (R313, R319): to its grid, its node, its launch, its
graph load. -/
def State.unposted (s : State) (r : RingRef) (x : RingPost) : State :=
  let t := postTrap x.bytes
  match x.group.bind s.group? with
  | some g => s.fatal g.id.vf g.id.cluster t
  | none =>
    let fid := leNat ((x.bytes.drop 4).take 4)
    let tag := faultTag r fid
    let vs := s.ringVfs r
    let s1 := (s.teams.filter fun u => u.seqr.fault == some tag && ((s.cluster? u.cluster).map fun c => vs.contains c.vf).getD false).foldl (fun s u =>
      s.fatal (((s.cluster? u.cluster).map (·.vf)).getD 0) u.cluster t) s
    vs.foldl (fun s v => ((s.vf v).slots).foldl (fun s (k, sl) => match sl.running with
      | none => s
      | some l =>
        let s2 := if l.waiting = some tag then
            (if sl.pl = 0 then s.setSlot v k { sl with running := some { l with waiting := none, noRecord := true } } else s.failLaunch v k 3 0xFFFF) else s
        (l.nodes.filter fun n => n.wait == some tag || (n.copy.bind (·.parked)) == some tag).foldl (fun s n =>
          (s.setNode v k n.idx fun m => { m with copy := none, wait := none }).failNode v k n.idx 33 (t.cause false).toNat) s2)
      (let y := s.vf v
       s.setVf { y with gloadWait := y.gloadWait.filter fun e => e.2 != tag })) s1

/-- Where the next record of a ring goes: its physical address; none when the slot cannot be written. An error is a walk that is held
(R393). -/
def State.ringSlot (s : State) (r : RingRef) : Except TrapReq (Option Nat) × State :=
  let x := s.ring r
  let n := wfield x.base 0 5
  let a := x.base.toNat / 4096 * 4096 + x.head.toNat % 2 ^ n * 32
  match r with
  | .host _ | .debug _ => (.ok (some a), s)
  | .vf v => match s.stage2 v a 1 0 7 with
    | (.error t, s) => (if t.grp = 31 then .error t else .ok none, s)
    | (.ok (e, lv), s) =>
      let pa := leafPa e lv a
      (.ok (if 2 ≤ entryMt e ∨ !e.getLsbD 3 ∨ rangeOf pa = none ∨ rangeOf pa = some 2 then none else some pa), s)

/-- FAULT_RECORD_POST (R313): the oldest queued record of a ring is written as a system-scope release, unless the ring is full. -/
def execFaultRecordPost (ring : RingRef) (s : State) : Host.Outcome State Fault Refusal :=
  let x := s.ring ring
  match x.queue with
  | [] => .next s
  | q :: rest =>
    let s0 := s.setRing ring { x with queue := rest }
    if !x.enabled then .next (s0.unposted ring q)
    else if (x.head - x.tail).toNat = 2 ^ wfield x.base 0 5 then .next s
    else match s0.ringSlot ring with
      | (.error _, _) => .next s
      | (.ok none, s1) => .next (s1.unposted ring q)
      | (.ok (some pa), s1) =>
        let vf := leNat ((q.bytes.drop 22).take 2)
        match s1.orderLines vf (scheduler vf) pa 32 true with
        | .error s2 => .next (s2.setRing ring x)
        | .ok s2 =>
          let fid := leNat ((q.bytes.drop 4).take 4)
          let s3 := (s2.writeMem pa q.bytes).scopePut (scheduler vf) (pa / lineBytes) 3
          let y := s3.ring ring
          let s4 := (s3.setRing ring { y with head := y.head + 1 }).interrupt (.ring ring)
          .next (match q.group.bind s4.group? with
            | none => s4
            | some g => match g.wait with
              | .fault r none => s4.setGroup { g with wait := .fault r (some fid) }
              | .debug none => s4.setGroup { g with wait := .debug (some fid) }
              | .fault _ (some _) | .debug (some _) | .run | .bar _ | .stopped | .ended => s4)

-- ## replay commands (R311, R313)

/-- FREPLAY: the named waiting fault of a ring, or every one, is released. Groups go on at FAULT_REPLAY, other agents at once. -/
def execFreplay (ring : RingRef) (value : BitVec 64) (s : State) : Host.Outcome State Fault Refusal :=
  match ring with
  | .debug _ => .next s
  | .vf _ | .host _ =>
    if wfield value 32 31 ≠ 0 then .next s
    else
      let all := value.getLsbD 63
      let fid := wfield value 0 32
      let waits := s.groups.filterMap fun g => match g.wait with
        | .fault r (some n) => if r = ring ∧ (all ∨ n = fid) then some n else none
        | .fault _ none | .run | .bar _ | .debug _ | .stopped | .ended => none
      let x := s.ring ring
      let s1 := s.setRing ring { x with released := (x.released ++ waits).eraseDups }
      let tags := (s.waitingTags ring).filter fun t => (all || t % 2 ^ 32 == fid) && !x.queue.any fun q => q.group.isNone && leNat ((q.bytes.drop 4).take 4) == t % 2 ^ 32
      .next (tags.eraseDups.foldl (fun s t => s.releaseTag (s.ringVfs ring) t) s1)

/-- FAULT_REPLAY (R311): a released group issues its word again, from its first check. -/
def execFaultReplay (key : Nat) (s : State) : Host.Outcome State Fault Refusal :=
  match s.group? key with
  | none => .next s
  | some g => match g.wait with
    | .fault r (some n) =>
      let x := s.ring r
      if x.released.contains n then .next ((s.setRing r { x with released := x.released.erase n }).setGroup { g with wait := .run, replays := g.replays + 1, again := true })
      else .next s
    | .fault _ none | .run | .bar _ | .debug _ | .stopped | .ended => .next s

-- ## the debug agent (R415 to R420)

/-- A gap record of a partition (R400, R401): the gap count rises. -/
def State.gapRecord (s : State) (part dropped : Nat) : State :=
  let p := s.part part
  let n := p.log.gapCount + 1
  let s1 := s.setPart { p with log := { p.log with gapCount := n, rrstat := p.log.rrstat &&& ~~~0xFFFF0000 ||| BitVec.ofNat 64 (min n 65535 * 65536) } }
  s1.writeRecord part spineCore (mkRecord part 5 n [BitVec.ofNat 64 s.ns, BitVec.ofNat 64 dropped, 0, 0])

/-- Groups of a partition's VF slots. -/
def State.slotGroups (s : State) (p : Partition) (mask : Nat) : List Group := let vs := p.vfsOf mask; s.groups.filter fun g => vs.contains g.id.vf

/-- The groups of some VF slots are detached: stopped ones resume at the stopped word, comparators are cleared (R416, R419). -/
def State.detach (s : State) (p : Partition) (mask : Nat) : State :=
  let ks := (s.slotGroups p mask).map (·.id.key)
  { s with groups := s.groups.map fun (g : Group) => if ks.contains g.id.key then
      { g with cmp := { ibp := [0, 0], wplo := [0, 0], wphi := [0, 0] }
               wait := match g.wait with
                 | .debug _ => .run
                 | .run | .bar _ | .fault _ _ | .stopped | .ended => g.wait
               exempt := match g.wait with
                 | .debug _ => true
                 | .run | .bar _ | .fault _ _ | .stopped | .ended => g.exempt } else g }

/-- Every attached group loads the comparators at its next issue (R416). -/
def State.loadComparators (s : State) (part : Nat) : State :=
  let p := s.part part
  { s with groups := s.groups.map fun (g : Group) =>
      if s.attached g.id.vf ∧ (p.slotOf g.id.vf).isSome then
        { g with cmp := p.comparators true (((s.cluster? g.id.cluster).map (·.clustid)).getD 0) (((s.team? g.id.team).map (·.num)).getD 0) g.id.grpid } else g }

/-- DBGTOK (R415): a new token; the partition is locked again. -/
def execDbgtok (part : Nat) (value : BitVec 64) (s : State) : Host.Outcome State Fault Refusal :=
  if 12 ≤ part then .next s
  else
    let s1 := s.detach (s.part part) 65535
    let p := s1.part part
    .next (s1.setPart { p with dbg := { p.dbg with token := some value, unl := false } })

/-- DBGUNLK (R415): the token unlocks; the fourth failure within a second raises the alarm (R430). -/
def execDbgunlk (part : Nat) (value : BitVec 64) (s : State) : Host.Outcome State Fault Refusal :=
  if 12 ≤ part then .next s
  else
    let p := s.part part
    if p.dbg.token = some value then .next (s.setPart { p with dbg := { p.dbg with unl := true } })
    else
      let l := lately p.dbg.failTimes s.ns
      let s1 := s.setPart { p with dbg := { p.dbg with failTimes := l } }
      .next (if 4 ≤ l.length then s1.tamper 2 part else s1)

/-- The group stopped under an event number of a partition. -/
def State.stoppedGroup (s : State) (p : Partition) (n : Nat) : Option Group :=
  (s.slotGroups p 65535).find? fun g => g.wait == .debug (some n)

/-- DBGRES (R419): the stopped group resumes at its word or at the address set for it. -/
def execDbgres (part : Nat) (value : BitVec 64) (s : State) : Host.Outcome State Fault Refusal :=
  let p := s.part part
  if 12 ≤ part ∨ !p.dbg.unl then .next s
  else match s.stoppedGroup p (wfield value 0 32) with
    | none => .next s
    | some g =>
      let new := value.getLsbD 63
      let s1 := s.setGroup { g with wait := .run, exempt := true, pc := if new then g.dbgpc &&& ~~~7 else g.pc }
      .next (if new ∧ s.log g.id.vf = 1 then s1.gapRecord part 0 else s1)

/-- The value of the selected item (R420). -/
def State.debugItem (s : State) (g : Group) (item : Nat) : Word × State :=
  if item < 0x1000 then s.srRead g item
  else if 0x8000 ≤ item ∧ item < 0x8040 then (g.getS (item - 0x8000), s)
  else if 0x8040 ≤ item ∧ item < 0x8048 then (w64 (g.getC (item - 0x8040)).toNat, s)
  else if item = 0x10000 then (g.dbgpc &&& ~~~7, s)
  else if 0x20000 ≤ item ∧ item - 0x20000 < 32 * g.id.claim then ((g.getV ((item - 0x20000) / 32) ((item - 0x20000) % 32)).setWidth 64, s)
  else (0, s)

/-- A write of the selected item; what is read-only or names no state is ignored. -/
def State.putItem (s : State) (g : Group) (item : Nat) (w : Word) : State :=
  if item < 0x1000 then (if srWritable item then (let (s1, g1) := s.srPut g item w; s1.setGroup g1) else s)
  else if 0x8000 ≤ item ∧ item < 0x8040 then s.setGroup (g.setS (item - 0x8000) w)
  else if 0x8040 ≤ item ∧ item < 0x8048 then s.setGroup (g.setC (item - 0x8040) (w.getLsbD 0))
  else if item = 0x10000 then s.setGroup { g with dbgpc := w &&& ~~~7 }
  else if 0x20000 ≤ item ∧ item - 0x20000 < 32 * g.id.claim then s.setGroup (g.setV ((item - 0x20000) / 32) ((item - 0x20000) % 32) (w.setWidth 32))
  else s

/-- DBGDAT_WRITE (R420): a write through DBGDAT; with LOG = RECORD it leaves a gap. -/
def execDbgdatWrite (part : Nat) (value : BitVec 64) (s : State) : Host.Outcome State Fault Refusal :=
  let p := s.part part
  if 12 ≤ part ∨ !p.dbg.unl then .next s
  else match s.stoppedGroup p (wfield p.dbg.sel 32 32) with
    | none => .next s
    | some g =>
      let s1 := s.putItem g (wfield p.dbg.sel 0 24) value
      .next (if s.log g.id.vf = 1 then s1.gapRecord part 0 else s1)

end Sys2Proof.Machine
end

