-- ==== Sys2Proof/Machine/Halting.lean ====
section
/-! DEFINITION. Stopping clusters in place (R173, R327, R330), spilling them when other work claims what they hold (R328),
restoring them (R329), and containment events (R318). -/
namespace Sys2Proof.Machine

-- ## telling a cluster to stop

/-- The resident clusters that a condition selects are told to stop; one that is stopping already keeps its cause. -/
def State.haltWhere (s : State) (pick : Cluster → Bool) (cause : Nat) (atck : Bool) : State :=
  { s with clusters := s.clusters.map fun (c : Cluster) => if c.residence = .resident ∧ pick c then
      (if c.halting then { c with atck := c.atck && atck } else { c with halting := true, atck, cause, told := s.ns }) else c }

/-- A group has stopped: what it issued has come back, and under ATCK it has reached a `ckpt`, a wait or its end (R327, R330). An entry
that is pending is saved with it (R307). -/
def Group.atRest (g : Group) (atck : Bool) : Bool := g.wait == .ended || (g.drained && (!atck || g.wait != .run))

/-- Every group of a cluster has stopped, and what its signatures need is known. -/
def State.atRest (s : State) (c : Cluster) : Bool :=
  (s.groups.all fun g => g.id.cluster != c.key || g.atRest c.atck) && (s.clusterTeams c.key).all fun t => s.settledSig t.key

/-- With DET = 1, every live thread of the cluster waits at the grid barrier (R173). -/
def State.waitsAtGrid (s : State) (c : Cluster) : Bool :=
  let ts := s.clusterTeams c.key
  s.det c.vf && !c.atGrid && (ts.all fun t => s.teamAt t 17) && ts.any fun t => s.someAt t 17

/-- A cluster stops in place: its groups lose their latches, and what has failed waits for its consumer (R22, R317). -/
def State.stopCluster (s : State) (c : Cluster) : State :=
  { s with groups := s.groups.map fun (g : Group) => if g.id.cluster = c.key then g.preempted else g }.setCluster { c with residence := .halted }

/-- PREEMPTION (R327, R173): a cluster that was told to stop has stopped, or a FIXED cluster has arrived at its grid barrier.
One that has ended retires instead (R180). -/
def execPreemption (cluster : Nat) (s0 : State) : Host.Outcome State Fault Refusal :=
  let s := s0.reap
  match s.cluster? cluster with
  | none => .next s
  | some c =>
    if c.residence ≠ .resident ∨ s.clusterOver c then .next s
    else if c.halting then
      (if s.atRest c then .next ((s.stopCluster { c with halting := false, atck := false }).notePre c (if c.cause = 6 then 3 else c.cause))
      else .next s)
    else if s.waitsAtGrid c then .next (s.stopCluster { c with atGrid := true, cause := 3 })
    else .next s

/-- The bound H of R327, in ns. -/
def stopBound : Nat := 20000

/-- ATCK_TIMEOUT (R330): a group that has reached no `ckpt`, end or wait within H stops where it stands. -/
def execAtckTimeout (key : Nat) (s : State) : Host.Outcome State Fault Refusal :=
  match s.group? key with
  | none => .next s
  | some g => match s.cluster? g.id.cluster with
    | none => .next s
    | some c =>
      if c.residence = .resident ∧ c.halting ∧ c.atck ∧ g.wait = .run ∧ g.trap.entry.isNone ∧ c.told + stopBound ≤ s.ns
      then .next (s.setGroup { g with wait := .stopped }) else .next s

-- ## spilling (R328)

/-- A unit of a team lies on a core or on resources that a partition's new registers no longer give it (R179, R322). -/
def State.unitOutside (s : State) (r : Staged) (t : Team) (u : SpillUnit) : Bool :=
  let q := quotaOf r.pquota
  let isIn (b n lo k : Nat) : Bool := decide (b ≤ lo ∧ lo + k ≤ b + n)
  !coreBit r.pcore t.core || (match u with
    | .group i => (s.allSlots t).any fun e => e.1 == i && (!isIn q.slots.1 q.slots.2 e.2.2.1 1 || !isIn q.rows.1 q.rows.2 e.2.2.2 (bankRowsOf t.claim))
    | .run i => !isIn q.stash.1 q.stash.2 (t.stashBase + 32 * i) (t.runRows i).length
    | .tile n => !isIn q.tiles.1 q.tiles.2 (nth 0 (nth [] t.tiles (n / 8)) (n % 8)) 1)

/-- A VF number has a slot in a set of registers. -/
def Staged.holds (r : Staged) (vf : Nat) : Bool := r.vfid.any fun w => w.getLsbD 63 && w.toNat % 256 == vf

/-- A unit of a cluster that stands cannot stay under new registers (R322). -/
def State.unitDisplaced (s : State) (r : Staged) (c : Cluster) (t : Team) (u : SpillUnit) : Bool :=
  !t.out.contains u && (!r.holds c.vf || s.unitOutside r t u)

/-- A cluster cannot stay where it stands under new registers. -/
def State.displaced (s : State) (r : Staged) (c : Cluster) : Bool := (s.clusterTeams c.key).any fun t => t.units.any (s.unitDisplaced r c t)

/-- The queue of a cluster is checkpointed by an eviction (R339). -/
def Partition.checkpointed (p : Partition) (vf cls : Nat) : Bool :=
  (p.evict.map fun e => e.queues.any fun q => q.vf == vf && q.cls == cls && q.decision == 2).getD false

/-- What the queue heads of a partition that fit nowhere else would take, which a cluster may be moved for: the takes and the shape. -/
def State.claims (s : State) (p : Partition) (c : Cluster) : List (List Take × Shape) :=
  [0, 1, 2, 3].flatMap fun cls => (s.heads cls).filterMap fun h =>
    let x := shapeOf h.rcd
    let may := s.yields h.vf h.item.gslot h.item.node h.count
    if h.p.num ≠ p.num ∨ nodeType h.rcd ≠ 0 ∨ !may c ∨ (s.findRect p cls x fun _ => false).isSome then none
    else (s.findRect p cls x fun d => may d && s.spillable d).map fun r => (r.takes, x)

/-- Checkpointed queues drain in ascending index, 4 × VF slot + class, with the dirty lines of each VF after its last queue (R339): no
queue of the eviction below this one is still to drain. -/
def Partition.drainsNow (p : Partition) (c : Cluster) : Bool :=
  match p.evict.bind fun e => (e.queues.find? fun q => q.vf == c.vf && q.cls == c.cls).map fun q => (e, q) with
  | some (e, q) => e.queues.all fun r => r.decision != 2 || r.vacantAt.isSome || 4 * q.vfslot + q.cls ≤ 4 * r.vfslot + r.cls
  | none => true

/-- SPILL (R328): units of a halted cluster go to the save area: those that an APPLY removes or that other work takes, or all of them
for an eviction or an anchor. -/
def execSpill (cluster : Nat) (s : State) : Host.Outcome State Fault Refusal :=
  match s.cluster? cluster with
  | none => .next s
  | some c => match s.partOf c.vf with
    | none => .next s
    | some p =>
      let all : Bool := (p.checkpointed c.vf c.cls && p.drainsNow c) || p.log.anchorWait.isSome
      let cl := s.claims p c
      let pick (t : Team) (u : SpillUnit) : Bool :=
        all || (p.applying.map fun r => s.unitDisplaced r c t u).getD false || cl.any fun x => s.unitInTheWay x.1 x.2 t u
      if s.spillable c then .next (s.spillUnits c pick) else .next s

-- ## restoring (R329)

/-- A stopped cluster may go on: it is resumable, its queue is not stopped, it does not wait at a grid barrier, and the
partition takes no anchor, has no APPLY under way and is at no stop of a replay. -/
def Partition.mayResume (p : Partition) (c : Cluster) : Bool :=
  let rp := p.log.rpstat.toNat % 256
  c.resumable && !p.stopped c.vf c.cls && !c.atGrid && p.log.anchorWait.isNone && p.applying.isNone && rp ≠ 2 && rp ≤ 3

/-- The limits on a spilled cluster that comes back: CAP and a deadline in force (R337, R338). -/
def State.backFits (s : State) (p : Partition) (c : Cluster) : Bool :=
  let n := s.clusterSize c.key - s.clusterDirty c.key
  decide (s.partDirty p + n ≤ p.cap) && (match p.evict with
    | some e => !((p.slotOf c.vf).map fun i => e.vfm.getLsbD i).getD false || s.meetsDeadline p e n
    | none => true)

/-- Some unit of the cluster is in the save area. -/
def State.partly (s : State) (c : Cluster) : Bool := (s.clusterTeams c.key).any fun t => !t.out.isEmpty

/-- A saved cluster takes a new rectangle. -/
def State.bringSaved (s : State) (p : Partition) (c : Cluster) (x : Shape) (may : Cluster → Bool) : Option State :=
  (s.makeRoom p c.cls x fun d => d.key != c.key && may d).map fun (s1, r) => s1.restoreAt { c with cause := 0 } r

/-- One cluster goes on where it stands, its spilled units in any free place of their cores, or on a new rectangle (R329). Where the
rest of it keeps a spilled unit from ever coming back, the rest is spilled too (log entry 52). -/
def State.bringBack (s : State) (c : Cluster) : Option State :=
  let may := s.yields c.vf c.gslot c.node c.launch
  match s.partOf c.vf, s.shapeHeld c with
  | some p, some x =>
    match c.residence with
    | .resident => some s
    | .halted =>
      if !s.partly c then some (s.setCluster { c with residence := .resident, cause := 0 })
      else if !s.backFits p c then none
      else match s.makeRoomBack p c x may with
        | some (s1, l) => some (s1.restoreOn { c with cause := 0 } l)
        | none =>
          if (s.takesBack p (fun d => d.key != c.key) (s.clusterTeams c.key)).isSome then none
          else let s1 := s.spillCluster c; (s1.cluster? c.key).bind fun d => s1.bringSaved p d x may
    | .saved => if !s.backFits p c then none else s.bringSaved p c x may
  | _, _ => none

/-- In REPLAY, where the log of a partition ends the signature that a cluster stands in: clusters come back in this order (R388; log
entry 113). -/
def State.logRank (s : State) (p : Partition) (c : Cluster) : Nat :=
  match (s.clusterTeams c.key).head? with
  | none => p.log.replayLog.length
  | some t => p.log.replayLog.findIdx fun r => wfield (nth 0 r 0) 56 8 == 1 && wfield (nth 0 r 0) 0 32 == t.sig.sign
      && nth 0 r 1 == BitVec.ofNat 64 (c.vf * 2 ^ 56 + t.num * 2 ^ 52 + c.clustid % 2 ^ 48) && nth 0 r 2 == BitVec.ofNat 64 c.gridid

/-- Another cluster that is not whole on its place comes back before this one: of a FIXED grid one in a lower position (R173), in
REPLAY one that the log names first (R388). -/
def State.comesFirst (s : State) (p : Partition) (c d : Cluster) : Bool :=
  let away (x : Cluster) : Bool := x.residence == .saved || (x.residence == .halted && s.partly x)
  away c && away d && !d.atGrid &&
    ((s.det c.vf && (s.gridOf c).any (fun e => e.key == d.key) && decide (d.clustid < c.clustid))
      || (s.log c.vf == 2 && (p.slotOf d.vf).isSome && p.mayResume d && decide (s.logRank p d < s.logRank p c)))

/-- Every cluster of a list comes back, or none. -/
def State.bringAll (s : State) : List Nat → Option State
  | [] => some s
  | k :: r => match s.cluster? k with
    | none => s.bringAll r
    | some c => (s.bringBack c).bind fun s1 => s1.bringAll r

/-- CLUSTER_RESTORE (R329): a cluster goes on where it stands or on a new place; positions of a FIXED grid in ascending order
(R173), a cooperative grid that a shrink suspended as a whole (R179). -/
def execClusterRestore (cluster : Nat) (s : State) : Host.Outcome State Fault Refusal :=
  match s.cluster? cluster with
  | none => .next s
  | some c => match s.partOf c.vf with
    | none => .next s
    | some p =>
      if c.residence = .resident ∨ !p.mayResume c then .next s
      else if c.cause = 6 then .next ((s.bringAll ((s.gridOf c).map (·.key))).getD s)
      else if s.clusters.any (s.comesFirst p c) then .next s
      else .next ((s.bringBack c).getD s)

-- ## containment (R318)

/-- Every resident cluster of a partition is told to stop, and its queues are held until the host resumes or discards them. -/
def State.holdAll (s : State) (part cause : Nat) : State :=
  let p := s.part part
  let vs := p.vfsOf 65535
  let slots : Nat := (List.range 16).foldl (fun m i => if (nth (0 : Word) p.force.vfid i).getLsbD 63 then m + 2 ^ i else m) 0
  (s.setPart { p with held := p.held ||| BitVec.ofNat 16 slots }).haltWhere (fun c => vs.contains c.vf) cause false

-- the bytes that a containment event loses

/-- The bytes of a line that a sector of 32 holds. -/
def sectorMask (pa : Nat) : BitVec 128 := BitVec.ofNat 128 ((2 ^ 32 - 1) * 2 ^ (pa % lineBytes / 32 * 32))

/-- The dirty bytes of a stash row in a sector are lost: the row takes what lies below it. -/
def State.loseRow (s : State) (key : Nat) (m : BitVec 128) : State :=
  let r := s.row key
  if r.st = .d then
    let lost := maskBytes (r.dirty &&& m) (s.lineNow r.line) (Memory.readN s.stash (key * lineBytes) lineBytes)
    { s with stash := Memory.writeN s.stash (key * lineBytes) lost }.setRow key { r with dirty := r.dirty &&& ~~~m }
  else s

/-- The dirty bytes of a slice line in a sector are lost. -/
def State.loseSlice (s : State) (x : SliceLine) (m : BitVec 128) : State :=
  let gone := x.dirty &&& m
  { s with mem := Memory.writeN s.mem (x.line * lineBytes) (maskBytes gone x.back (s.lineNow x.line))
           slices := s.slices.map fun (y : SliceLine) => if y.leaf = x.leaf ∧ y.line = x.line then { y with dirty := y.dirty &&& ~~~m } else y }

/-- The bytes of a sector that the L3 alone holds are lost; bytes that a slice holds dirty are not. -/
def State.loseL3 (s : State) (e : L3Line) (m : BitVec 128) : State :=
  if e.dirty then
    let above := (s.slices.filter fun x => x.line == e.line).foldl (fun d x => d ||| x.dirty) 0
    { s with mem := Memory.writeN s.mem (e.line * lineBytes) (maskBytes (m &&& ~~~above) e.back (s.lineNow e.line))
             slices := s.slices.map fun (x : SliceLine) => if x.line = e.line ∧ x.dirty ≠ 0 then { x with back := maskBytes m e.back x.back } else x }
  else s

/-- The bytes of a sector that a level lost keep the value they last held below it (R318): 0 HBM, with nothing below, 1 L3,
2 slice, 3 stash. -/
def State.loseSector (s : State) (pa level : Nat) : State :=
  let line := pa / lineBytes
  let m := sectorMask pa
  if level = 3 then (s.owners line).foldl (fun s k => s.loseRow k m) s
  else if level = 2 then (s.slices.filter fun x => x.line == line && x.dirty != 0).foldl (fun s x => s.loseSlice x m) s
  else if level = 1 then (s.l3.filter fun e => e.line == line).foldl (fun s e => s.loseL3 e m) s
  else s

/-- A containment event of a partition: its clusters halt, and the host ring receives a record with the address, the level and
the path in its detail. -/
def State.contain (s : State) (part pa level path : Nat) : State :=
  let s1 := s.holdAll part 1
  let p := s1.part part
  let t := mkTrap 20 7 (pa % 2 ^ 64 + level % 4 * 2 ^ 64 + path % 8 * 2 ^ 66)
  let s2 := s1.noteSpine p.spineVf 0x24 (t.cause true).toNat [t.detail.extractLsb' 0 64]
  (s2.queueRecord (.host part) (fun fid => recordBytes t true fid 0 0 0) none).2

/-- CONTAINMENT_EVENT (R214, R316, R318): on the paths of a write-back, a sweep, a scrub and a save the bytes of the sector are lost. -/
def execContainmentEvent (part pa level path : Nat) (s : State) : Host.Outcome State Fault Refusal :=
  if 12 ≤ part then .next s else .next ((if path ≤ 3 then s.loseSector pa level else s).contain part pa level path)

end Sys2Proof.Machine
end

