-- ==== Sys2Proof/Machine/Partitions.lean ====
section
/-! DEFINITION. The commands of the partition manager: MODE (R4), APPLY with its checks (R322, R324, R325, R179), HALT, RESUME and
DISCARD (R323, R333). -/
namespace Sys2Proof.Machine

-- ## command status

/-- CMDST takes a code; RBUSY is cleared when it changes (R323). -/
def Partition.setCmd (p : Partition) (n : Nat) : Partition := { p with cmdst := n, rbusy := p.rbusy && n == p.cmdst }

/-- A command is answered with a code. -/
def State.answer (s : State) (part n : Nat) : State := s.setPart ((s.part part).setCmd n)

/-- A command that arrives while another is in progress is discarded; else it runs. -/
def State.command (s : State) (part : Nat) (run : Partition → State) : Host.Outcome State Fault Refusal :=
  if 12 ≤ part then .next s
  else
    let p := s.part part
    if p.cmdst = 1 then .next (s.setPart { p with rbusy := true }) else .next (run p)

/-- The VF slots in use, as a mask. -/
def Staged.validSlots (r : Staged) : BitVec 16 :=
  BitVec.ofNat 16 ((List.range 16).foldl (fun m i => if (nth (0 : Word) r.vfid i).getLsbD 63 then m + 2 ^ i else m) 0)

/-- Some cluster of the partition holds resources. -/
def State.anyResident (s : State) (p : Partition) : Bool := s.clusters.any fun c => (p.vfsOf 65535).contains c.vf && c.residence != .saved

-- ## anchors (R400)

/-- The words of a partition's graph memory. -/
def State.graphWords (s : State) (p : Partition) : List Word := (p.vfsOf 65535).flatMap fun v => (s.vf v).slots.flatMap fun (_, sl) => sl.nodes.flatten

/-- What the save areas and the graph memory hold now. -/
def State.snapshot (s : State) (p : Partition) (n : Nat) : Anchor :=
  let vs := p.vfsOf 65535
  let cl := s.clusters.filter fun c => vs.contains c.vf
  let mine (k : Nat) : Bool := cl.any fun c => c.key == k
  let ts := s.teams.filter fun t => mine t.cluster
  { num := n, clusters := cl, teams := ts, groups := s.groups.filter fun g => mine g.id.cluster
    bins := s.bins.filter (fun b => ts.any fun t => t.key == b.team), vfs := vs.map s.vf }

/-- The order record at a location is a partition's: of a line that its stage-2 tables map, or of a row in P of its cores. -/
def Partition.ordersOf (p : Partition) (leaves : List (Nat × Nat)) (loc : Nat) : Bool :=
  if loc < 2 ^ 60 then leaves.any fun (b, n) => b ≤ loc * lineBytes && loc * lineBytes < b + n
  else coreBit p.force.pcore ((loc - 2 ^ 60) / 4096)

/-- A new epoch of a partition; when the epoch wraps, every record of the partition is cleared (R392). -/
def State.newEpoch (s : State) (part : Nat) : State :=
  let p := s.part part
  let leaves := if p.ps2root.getLsbD 0 then stage2Leaves s.mem levels (entryAddr p.ps2root) else []
  let s1 := if p.log.epoch = 255 then { s with orders := s.orders.filter fun e => !p.ordersOf leaves e.1 } else s
  s1.setPart { p with log := { p.log with epoch := p.log.epoch + 1 } }

/-- The anchor record: part and stepping with MODE, PTIME, the digest of graph memory, QRHEAD at the anchor. -/
def State.anchorRecord (s : State) (p : Partition) (n : Nat) : List Word :=
  mkRecord p.num 2 n [BitVec.ofNat 64 (Config.partStepping.toNat * 2 ^ 40 + p.mode.toNat), BitVec.ofNat 64 s.ns, Config.graphDigest (s.graphWords p), p.log.qrhead]

/-- An anchor is written, or waits for room: its number is the newest, and its contexts stand in the save areas. -/
def State.writeAnchor (s : State) (part n : Nat) : State :=
  let p := s.part part
  let s1 := s.writeRecord part spineCore (s.anchorRecord p n)
  let q := s1.part part
  s1.setPart { q with log := { q.log with
    anchors := (q.log.anchors.filter fun a => a.num != n) ++ [s.snapshot p n]
    rrstat := (q.log.rrstat &&& 0xFFFFFFFF) ||| BitVec.ofNat 64 (n * 2 ^ 32) } }

/-- An anchor is confirmed: QROLD names its record, and recording that a gap had stopped goes on (R400, R401). -/
def State.confirm (s : State) (part n : Nat) : State :=
  let p := s.part part
  match p.log.anchorAt with
  | some (m, off) => if m = n then s.setPart { p with log := { p.log with qrold := off, dropping := false, gapPos := none } } else s
  | none => s

-- ## MODE (R4)

/-- Recording starts: an empty ring, a new epoch, anchor 0 confirmed (R400). -/
def State.startRecord (s : State) (part : Nat) : State :=
  let p := s.part part
  let log := { p.log with qrhead := 0, qrold := 0, anchors := [], anchorAt := none, pending := [], dropping := false, gapPos := none
                          spine := [], spineSign := [] }
  let s1 := s.setPart { p with log }
  let s2 := (((s1.newEpoch part).writeAnchor part 0).confirm part 0)
  let p2 := s2.part part
  (s2.teams.filter fun t => ((s2.cluster? t.cluster).map fun c => (p2.vfsOf 65535).contains c.vf).getD false).foldl (fun s t => s.openSig t.key t.sig.sign) s2

/-- PMODE_WRITE (R3, R4). -/
def execPmodeWrite (part : Nat) (value : BitVec 64) (s : State) : Host.Outcome State Fault Refusal :=
  if 12 ≤ part then .next s
  else
    let p := s.part part
    let pwr := wfield value 6 2
    let log := wfield value 2 2
    if value.toNat / 256 ≠ 0 ∨ pwr = 3 ∨ log = 3 then .next s
    else
      let new : BitVec 32 := if value.getLsbD 0 then value.setWidth 32 &&& ~~~2 else value.setWidth 32
      let others : Bool := (new ^^^ p.mode) &&& ~~~0xC0 != 0
      if others && s.anyResident p then .next s
      else
        let was := (p.mode.extractLsb' 2 2).toNat
        let rp : Word := if log = 2 ∧ was = 2 then p.log.rpstat else rpstatNow p.log.rpstat 0 (if log = 2 then 1 else 0)
        let s1 := s.setPart { p with mode := new, log := { p.log with rpstat := rp } }
        .next (if log = 1 ∧ was ≠ 1 then s1.startRecord part else s1)

-- ## APPLY (R322)

/-- A physical range lies wholly within HBM. -/
def inHbm (a n : Nat) : Bool := decide (a + n ≤ 0x8000000000)

/-- Every range of a quota ends within its resource (R324). -/
def Quota.ok (q : Quota) : Bool :=
  decide (q.slots.1 + q.slots.2 ≤ 16 ∧ q.rows.1 + q.rows.2 ≤ 256 ∧ q.stash.1 + q.stash.2 ≤ 4096 ∧ q.tiles.1 + q.tiles.2 ≤ 8)

/-- Two quotas share something. -/
def Quota.meets (a b : Quota) : Bool :=
  let x (r q : Nat × Nat) : Bool := overlap r.1 (r.1 + r.2) q.1 (q.1 + q.2)
  x a.slots b.slots || x a.rows b.rows || x a.stash b.stash || x a.tiles b.tiles

/-- Some core is in both sets. -/
def coresMeet (a b : List Word) : Bool := (List.zipWith (fun x y => x &&& y) a b).any fun w => w != 0

/-- Registers of other partitions in force, or about to be. -/
def State.otherRegs (s : State) (part : Nat) : List Staged := (s.parts.filter fun q => q.num != part).flatMap fun q => q.force :: q.applying.toList

/-- The refusals of APPLY with code 5. -/
def State.applyBad (s : State) (part : Nat) (r : Staged) : Bool :=
  let q := quotaOf r.pquota
  let cores : Bool := r.pcore.any fun w => w != 0
  let notice := r.pnotice.toNat % 2 ^ 32
  let qr := r.qrbase.toNat % 128
  (cores && (!q.ok || r.pwt.toNat % 256 == 0))
    || (s.otherRegs part).any (fun o => coresMeet o.pcore r.pcore && (quotaOf o.pquota).meets q)
    || (List.zipWith (fun (x y : Word) => x &&& ~~~y) r.pres r.pcore).any (fun w => w != 0)
    || notice < 100 || 10000000 < notice
    || !inHbm (r.pstage.toNat / 65536 * 65536) (r.pstage.toNat % 65536 * 65536)
    || qr < 1 || 64 < qr || !inHbm (r.qrbase.toNat / 2 ^ 30 * 2 ^ 30) (qr * 2 ^ 30)
    || (List.range 16).any fun i => (nth (0 : Word) r.vfid i).getLsbD 63 &&
        !inHbm ((nth (0 : Word) r.vfsave i).toNat / 65536 * 65536) ((nth (0 : Word) r.vfsave i).toNat % 65536 * 2 ^ 20)

/-- VF numbers of the slots in use. -/
def Staged.vfs (r : Staged) : List Nat := (r.vfid.filter fun w => w.getLsbD 63).map fun w => w.toNat % 256

/-- The refusal of APPLY with code 6: a number used twice, or beyond 191. -/
def State.vfInUse (s : State) (part : Nat) (r : Staged) : Bool :=
  r.vfs.eraseDups.length != r.vfs.length || r.vfs.any fun v => 192 ≤ v || (s.otherRegs part).any fun o => o.vfs.contains v

/-- A cooperative FREE grid that the cores left cannot hold (R179). -/
def State.tooSmall (s : State) (p : Partition) (r : Staged) (c : Cluster) : Bool :=
  !s.det c.vf && (match s.headOf { p with force := r } c.vf { gslot := c.gslot, node := c.node, time := 0 } with
    | none => false
    | some h => (nth (0 : Word) h.rcd 0).getLsbD 8 &&
      ((({ s with groups := [], teams := [], clusters := [] }.setPart { p with force := r }).placeMany h false (List.range (gridOfRec h.rcd))).isNone))

/-- The partition has cores or virtual functions. -/
def Staged.nonEmpty (r : Staged) : Bool := (r.pcore.any fun w => w != 0) || !r.vfs.isEmpty

/-- A link's shares are computed anew at its next window when the cores that the partition holds on its leaf come or go, or
their weight changes (R361). -/
def State.sharesDue (s : State) (old new : Staged) : State :=
  let holds (r : Staged) (leaf : Nat) : Bool := nth (0 : Word) r.pcore leaf != 0
  { s with links := s.links.zipIdx.map fun (l, leaf) =>
      { l with due := l.due || holds old leaf != holds new leaf || (holds new leaf && old.pwt != new.pwt) } }

/-- An APPLY completes once nothing of the partition stands where the new registers do not allow it. -/
def State.finishApply (s : State) (part : Nat) : State :=
  let p := s.part part
  match p.applying with
  | none => s
  | some r =>
    let mine (c : Cluster) : Bool := p.force.vfs.contains c.vf || r.holds c.vf
    if s.clusters.any fun c => mine c && s.displaced r c then s
    else
      let suspended : Bool := s.clusters.any fun c => mine c && c.cause == 6 && c.residence != .resident
      let kept : BitVec 16 := BitVec.ofNat 16 ((List.range 16).foldl (fun m i => if nth (0 : Word) r.vfid i = nth 0 p.force.vfid i then m + 2 ^ i else m) 0)
      let busy : Bool := s.clusters.any fun c => mine c && c.residence != .saved
      let p1 : Partition := { p with
        applying := none, capNp := s.notice p, held := p.held &&& kept, hlt := p.hlt &&& kept
        force := if busy then { r with ewt0 := p.force.ewt0, ewt1 := p.force.ewt1, ewt2 := p.force.ewt2 } else r
        weights := if busy then some (r.ewt0, r.ewt1, r.ewt2) else none
        served := if p.keyed then p.served else 0, keyed := r.nonEmpty
        stateCode := if !r.nonEmpty then 0 else if p.stateCode = 0 then 1 else p.stateCode }
      let p2 := p1.setCmd (if suspended then 3 else 0)
      let s1 := (s.sharesDue p.force r).setPart p2
      if p.keyed && !r.nonEmpty then s1.eraseKeys p2 else s1

/-- Once D has first fallen to a new CAP, the notice period before it is in force no longer (R322). -/
def State.noteCap (s : State) (part : Nat) : State :=
  let p := s.part part
  let new := p.force.pnotice.toNat % 2 ^ 32
  if p.capNp = new ∨ s.notice p ≠ new then s else s.setPart { p with capNp := new }

/-- Energy weights that waited take effect when no cluster is resident (R427). -/
def State.finishWeights (s : State) (part : Nat) : State :=
  let p := s.part part
  match p.weights with
  | some (a, b, c) => if s.anyResident p then s else s.setPart { p with weights := none, force := { p.force with ewt0 := a, ewt1 := b, ewt2 := c } }
  | none => s

/-- APPLY: refused, or accepted; clusters that lose their place are told to stop. The windows accept it once bring-up is over
(R433). -/
def execApplyCmd (part : Nat) (s : State) : Host.Outcome State Fault Refusal :=
  if s.device.step < 7 then .next s else s.command part fun p =>
    let r := p.stagedRegs
    if p.evf ≠ 0 then s.answer part 4
    else if s.applyBad part r then s.answer part 5
    else if s.vfInUse part r then s.answer part 6
    else
      let mine (c : Cluster) : Bool := (p.vfsOf 65535).contains c.vf
      let lost := s.clusters.filter fun c => mine c && s.displaced r c
      let grids := lost.filter fun c => s.tooSmall p r c
      let inGrid (c : Cluster) : Bool := grids.any fun d => (s.gridOf d).any fun e => e.key == c.key
      let s1 := ((s.setPart ({ p with applying := some r }.setCmd 1)).haltWhere inGrid 6 false).haltWhere (fun c => lost.any fun d => d.key == c.key) 3 false
      let s2 := { s1 with clusters := s1.clusters.map fun (c : Cluster) => if inGrid c then { c with cause := 6 } else c }
      s2.finishApply part

-- ## HALT, RESUME, DISCARD (R323)

/-- The layout of PCMD for a command that takes a mask. -/
def pcmdOk (w : Word) : Bool := wfield w 32 32 == 0 && wfield w 9 7 == 0 && wfield w 16 16 != 0

/-- A HALT completes when no cluster of its VF slots is resident. -/
def State.finishHalt (s : State) (part : Nat) : State :=
  let p := s.part part
  let vs := p.vfsOf p.halts.toNat
  if p.halts = 0 ∨ s.clusters.any (fun c => vs.contains c.vf && c.residence == .resident) then s
  else
    let valid := p.force.validSlots
    s.setPart ({ p with halts := 0, stateCode := if p.evf = 0 ∧ p.stateCode ≠ 0 ∧ valid ≠ 0 ∧ valid &&& ~~~p.held = 0 then 2 else p.stateCode }.setCmd 0)

/-- PARTITION_HALT: every resident cluster of the VF slots in the mask stops in place (R327); with ATCK each group stops at its
next `ckpt` (R330). -/
def execPartitionHalt (part : Nat) (value : BitVec 64) (s : State) : Host.Outcome State Fault Refusal :=
  s.command part fun p =>
    let m : BitVec 16 := value.extractLsb' 16 16
    if !pcmdOk value then s.answer part 2
    else if p.evf &&& m ≠ 0 then s.answer part 4
    else
      let vs := p.vfsOf m.toNat
      let atck := value.getLsbD 8
      ((s.setPart ({ p with held := p.held ||| m, halts := m }.setCmd 1)).haltWhere (fun c => vs.contains c.vf) (if atck then 2 else 1) atck).finishHalt part

/-- RESUME: halted and saved clusters of the VF slots may run again, groups that stopped go on, a replay leaves BREAK (R404). -/
def execResume (part : Nat) (value : BitVec 64) (s : State) : Host.Outcome State Fault Refusal :=
  s.command part fun p =>
    let m : BitVec 16 := value.extractLsb' 16 16
    if !pcmdOk value then s.answer part 2
    else if p.evf &&& m ≠ 0 then s.answer part 4
    else
      let vs := p.vfsOf m.toNat
      let rp := if p.log.rpstat.toNat % 256 = 4 then (p.log.rpstat &&& ~~~0xFF) ||| 3 else p.log.rpstat
      let p1 : Partition := { p with held := p.held &&& ~~~m, hlt := p.hlt &&& ~~~m, log := { p.log with rpstat := rp }
                                     stateCode := if p.evf = 0 ∧ p.stateCode ≠ 0 then 1 else p.stateCode }
      let s1 := s.setPart (p1.setCmd 0)
      let mine (k : Nat) : Bool := s.clusters.any fun c => c.key == k && vs.contains c.vf
      { s1 with clusters := s1.clusters.map fun (c : Cluster) => if vs.contains c.vf then { c with resumable := true, halting := false, atck := false } else c
                groups := s1.groups.map fun (g : Group) => if mine g.id.cluster ∧ g.wait = .stopped then { g with wait := .run } else g }

/-- DISCARD (R323, R333): the clusters of the VF slots that hold resources are retired without saving; those whose units are all in the
save area stay there. -/
def execDiscard (part : Nat) (value : BitVec 64) (s : State) : Host.Outcome State Fault Refusal :=
  s.command part fun p =>
    let m : BitVec 16 := value.extractLsb' 16 16
    if !pcmdOk value then s.answer part 2
    else if p.evf &&& m ≠ 0 then s.answer part 4
    else
      let vs := p.vfsOf m.toNat
      (s.discardWhere (fun c => vs.contains c.vf && c.residence != .saved) 34).answer part 0

end Sys2Proof.Machine
end

