-- ==== Sys2Proof/Machine/Evict.lean ====
section
/-! DEFINITION. Eviction deadlines (R338 to R341), and the invalidation of translations of both stages (R217, R343). -/
namespace Sys2Proof.Machine

-- ## the queues of an eviction (R339)

/-- Nodes of a VF's queue that run: graph slot, launch, record, run. -/
def State.startedOf (s : State) (vf cls : Nat) : List (Nat × List Word × NodeRun) :=
  (s.vf vf).slots.flatMap fun (k, sl) => match sl.running with
    | none => []
    | some l => l.nodes.filterMap fun n =>
      let r := nth [] sl.nodes n.idx
      if n.state = .running ∧ nodeClass r = cls then some (k, r, n) else none

/-- The clusters of a queue. -/
def State.queueClusters (s : State) (vf cls : Nat) : List Cluster := s.clusters.filter fun c => c.vf == vf && c.cls == cls

/-- The projected finish of a started node, in ns from now; none when none is in sight. -/
def State.projected (s : State) (vf k : Nat) (r : List Word) (n : NodeRun) : Option Nat :=
  match nodeType r with
  | 0 =>
    let left := gridOfRec r - n.retired
    let here := (s.clusters.filter fun c => c.vf == vf && c.gslot == k && c.node == n.idx && c.residence == .resident).length
    if n.retired = 0 then none else some ((left + max here 1 - 1) / max here 1 * n.life / n.retired)
  | 1 => n.copy.map fun c => (c.todo.length + c.running.length) * (if (copyNode r).remote then 4000 else 1000)
  | _ => none

/-- P(q) from now: the latest finish of its started nodes; none with halted state or a group that waits on a fault. -/
def State.finish (s : State) (vf cls : Nat) : Option Nat :=
  let cl := s.queueClusters vf cls
  let waits : Bool := s.groups.any fun g => (cl.any fun c => c.key == g.id.cluster) && (match g.wait with
    | .fault _ _ => true
    | .run | .bar _ | .debug _ | .stopped | .ended => false)
  if waits || cl.any (fun c => c.residence != .resident) then none
  else (s.startedOf vf cls).foldl (fun o (k, r, n) => o.bind fun a => (s.projected vf k r n).map (max a)) (some 0)

/-- A queue holds no resource of R336 and runs no node; a checkpointed queue's nodes are halted. -/
def State.vacantQueue (s : State) (q : EvictQueue) : Bool :=
  s.queueDirty q.vf q.cls == 0 && (s.queueClusters q.vf q.cls).all (fun c => c.residence == .saved) && (q.decision == 2 || (s.startedOf q.vf q.cls).isEmpty)

/-- Dirty lines of a VF are written back, and its pins are cleared (R339). -/
def State.flushVf (s : State) (vf : Nat) : State :=
  ((s.slices.filter fun x => x.vf == vf && x.dirty != 0).foldl (fun s x => s.cleanLine x vf 0) s).unpin vf

/-- The first times at which queues of an eviction are vacant; with the last queue of a VF its dirty lines are written back. -/
def State.noteVacant (s : State) (part : Nat) : State :=
  let p := s.part part
  match p.evict with
  | none => s
  | some e =>
    let mark (q : EvictQueue) : EvictQueue := if q.vacantAt.isNone ∧ s.vacantQueue q then { q with vacantAt := some s.ns } else q
    let l := e.queues.map mark
    let gone (l : List EvictQueue) (v : Nat) : Bool := l.any (fun q => q.vf == v) && l.all fun q => q.vf != v || q.vacantAt.isSome
    let s1 := s.setPart { p with evict := some { e with queues := l } }
    (p.vfsOf e.vfm.toNat).foldl (fun s v => if gone l v && !gone e.queues v then s.flushVf v else s) s1

/-- Every queue of an eviction that is to be checkpointed stops (R327, R339). -/
def State.haltQueues (s : State) (e : Evict) : State :=
  s.haltWhere (fun c => e.queues.any fun q => q.decision == 2 && q.vf == c.vf && q.cls == c.cls) 5 false

-- ## posting a deadline (R338, R339)

/-- An answer that does not disturb a command in progress (R323). -/
def State.answerSoft (s : State) (part n : Nat) : State := if (s.part part).cmdst = 1 then s else s.answer part n

/-- The queues of the affected VFs as they stand at the posting. -/
def State.evictQueues (s : State) (p : Partition) (m : BitVec 16) : List EvictQueue :=
  (bitsOf m.toNat 16).flatMap fun i =>
    let v := (nth (0 : Word) p.force.vfid i).toNat % 256
    (List.range 4).filterMap fun c =>
      let started := s.startedOf v c
      if started.isEmpty && !(s.queueClusters v c).any (fun d => d.residence == .halted) then none
      else some { vfslot := i, vf := v, cls := c, decision := 0, switched := false, disc := started.any fun x => (nth (0 : Word) x.2.1 0).getLsbD 9
                  vacantAt := none, dirty0 := s.queueDirty v c, finish0 := s.finish v c }

/-- Queues to be discarded while the deadline cannot be met, the largest first. -/
def discardPlan (limit lines : Nat) : Nat → List EvictQueue → List EvictQueue
  | 0, l => l
  | fuel + 1, l =>
    let m := 20000 * 1280 + lines + ((l.filter fun q => q.decision != 3).map (·.dirty0)).sum
    let cand := l.filter fun q => q.decision != 3 && q.disc
    match cand.foldl (fun b q => match b with | none => some q | some y => if y.dirty0 < q.dirty0 then some q else b) (none : Option EvictQueue) with
    | some q => if limit * 1280 < m then discardPlan limit lines fuel (l.map fun (y : EvictQueue) => if y = q then { y with decision := 3 } else y) else l
    | none => l

/-- A queue is discarded (R333): its clusters, and its other running nodes, with code 34. -/
def State.discardQueue (s : State) (q : EvictQueue) : State :=
  let s1 := s.discardWhere (fun c => c.vf == q.vf && c.cls == q.cls) 34
  (s1.startedOf q.vf q.cls).foldl (fun s (k, _, n) => ((s.setNode q.vf k n.idx fun m => { m with copy := none, wait := none }).failNode q.vf k n.idx 34 0).unqueue q.vf k n.idx) s1

/-- DEADLINE_POST. -/
def execDeadlinePost (part : Nat) (value : BitVec 64) (s : State) : Host.Outcome State Fault Refusal :=
  if 12 ≤ part then .next s
  else
    let p := s.part part
    let m : BitVec 16 := value.extractLsb' 48 16
    let limit := wfield value 0 32 * 1000
    if m = 0 ∨ m &&& ~~~p.force.validSlots ≠ 0 ∨ wfield value 32 16 ≠ 0 ∨ limit = 0 then .next (s.answerSoft part 2)
    else if p.evf ≠ 0 then .next (s.answerSoft part 4)
    else
      let vs := p.vfsOf m.toNat
      let lines := (vs.map s.dirtyLines).sum
      let enough : Bool := s.notice p * 1000 ≤ limit
      let l0 := s.evictQueues p m
      let l1 := if enough then l0 else discardPlan limit lines l0.length l0
      let need := 20000 * 1280 + lines + ((l1.filter fun q => q.decision != 3).map (·.dirty0)).sum
      let decide1 (q : EvictQueue) : EvictQueue :=
        if q.decision = 3 then q
        else { q with decision := match q.finish0 with | some f => if f * 1280 + need ≤ limit * 1280 then 1 else 2 | none => 2 }
      let e : Evict := { vfm := m, t0 := s.ns, limit, enough, queues := l1.map decide1
                         dirtyCap := (List.range 192).map fun v => if vs.contains v then s.dirtyLines v else 0 }
      let s1 := s.setPart { p with evict := some e, evf := m, stateCode := 3 }
      let s2 := (e.queues.filter fun q => q.decision == 3).foldl (fun s q => s.discardQueue q) s1
      .next (((s2.haltQueues e).answerSoft part 0).noteVacant part)

/-- DEADLINE_SWITCH: at the first t ≥ T − M(t), queues that were to complete and are not vacant are checkpointed. -/
def execDeadlineSwitch (part : Nat) (s : State) : Host.Outcome State Fault Refusal :=
  let p := s.part part
  match p.evict with
  | none => .next s
  | some e =>
    if 12 ≤ part ∨ 20000 * 1280 + s.evictBytes p e.vfm.toNat + s.ns * 1280 < (e.t0 + e.limit) * 1280 then .next s
    else
      let e1 : Evict := { e with queues := e.queues.map fun (q : EvictQueue) =>
        if q.decision = 1 ∧ !s.vacantQueue q then { q with decision := 2, switched := true } else q }
      .next (((s.setPart { p with evict := some e1 }).haltQueues e1).noteVacant part)

-- ## the report (R341)

/-- The record of a queue; times in whole µs after the posting, sizes in whole KiB. -/
def EvictQueue.bytes (q : EvictQueue) (e : Evict) : List Byte :=
  let late : Bool := decide (e.t0 + e.limit < q.vacantAt.getD 0)
  let d := if q.decision = 2 ∧ late then 4 else q.decision
  leBytes 1 d ++ leBytes 1 (q.switched.toNat + 2 * q.disc.toNat) ++ leBytes 2 0 ++ leBytes 4 ((q.vacantAt.getD 0 - e.t0) / 1000)
    ++ leBytes 4 (q.dirty0 / 1024) ++ leBytes 4 (match q.finish0 with | some f => f / 1000 | none => 0xFFFFFFFF)

/-- The report of an eviction that ends now: 64 records and the summary. -/
def Evict.report (e : Evict) (now : Nat) : List Byte :=
  ((List.range 64).flatMap fun i => match e.queues.find? fun q => 4 * q.vfslot + q.cls == i with
    | some q => q.bytes e
    | none => leBytes 16 0)
    ++ leBytes 8 ((now - e.t0) / 1000) ++ leBytes 8 (e.enough.toNat + 2 * (decide (now ≤ e.t0 + e.limit)).toNat)

/-- EVICTION_REPORT: every queue is vacant; dirty lines are written back, the report is written as a system-scope release, and
the eviction ends with the VFs held until RESUME. -/
def execEvictionReport (part : Nat) (s0 : State) : Host.Outcome State Fault Refusal :=
  let s := s0.noteVacant part
  let p := s.part part
  match p.evict with
  | none => .next s
  | some e =>
    if 12 ≤ part ∨ e.queues.any (fun q => q.vacantAt.isNone) then .next s
    else
      let s1 := (p.vfsOf e.vfm.toNat).foldl (fun s v => s.flushVf v) s
      let a := p.pdlrep.toNat / 4096 * 4096
      match s1.orderLines p.spineVf (scheduler p.spineVf) a 1040 true with
      | .error s2 => .next s2
      | .ok s2 =>
        let s3 := (List.range 9).foldl (fun s i => s.scopePut (scheduler p.spineVf) (a / lineBytes + i) 3) (s2.writeMem a (e.report s.ns))
        let q := s3.part part
        .next ((s3.setPart { q with evict := none, evf := 0, held := q.held ||| e.vfm, stateCode := if q.force.validSlots &&& ~~~e.vfm = 0 then 4 else 1 }).interrupt
          (.evicted part))

-- ## stage-2 invalidation (R343)

/-- The base and the size of the stage-2 page that holds a guest physical address, 64 KiB where none is found. -/
def State.guestPage (s : State) (vf gpa : Nat) : Nat × Nat :=
  let n := match (s.stage2 vf gpa 0 0 7).1 with
    | .ok (_, lv) => 2 ^ pageBits lv
    | .error _ => 65536
  (gpa / n * n, n)

/-- A row that maps a line of the pages is written back and marked checked. -/
def State.checkRow (s : State) (key : Nat) : State := let s1 := s.writeBackRow key; s1.setRow key { s1.row key with checked := true }

/-- Rows of the partition that map a line of the pages, on cores and in save areas, and mailboxes whose ring they cover (R375). -/
def State.revokePages (s : State) (p : Partition) (inPages : Nat → Nat → Bool) (srec : Bool) : State :=
  let vs := p.vfsOf 65535
  let mine (t : Team) : Bool := ((s.cluster? t.cluster).map fun c => vs.contains c.vf).getD false
  let held := (s.teams.filter fun t => mine t && ((s.cluster? t.cluster).map fun c => c.residence != .saved).getD false).flatMap fun t =>
    t.rowsIn.map fun i => t.core * 4096 + t.stashBase + i
  let hit (r : Row) : Bool := r.st != .p && inPages r.gpa 1
  let s1 := if srec then (held.filter fun k => hit (s.row k)).foldl (fun s k => s.checkRow k) s else s
  let s2 := if srec then { s1 with teams := s1.teams.map fun (t : Team) => if mine t then
      { t with saved := t.saved.map fun (i, bs, r) => (i, bs, if hit r then { r with checked := true } else r) } else t } else s1
  vs.foldl (fun s v =>
    let x := s.vf v
    s.setVf { x with mboxes := x.mboxes.map fun (n, b) => (n, if b.v ∧ inPages b.base.toNat 32768 then
      { b with v := false, err := true, head := 0, count := 0 } else b) }) s2

/-- The pages of a PS2INV value, of a partition. -/
def State.inPages (s : State) (p : Partition) (value : Word) : Nat → Nat → Bool :=
  let (base, n) := s.guestPage p.spineVf (value.toNat / 65536 * 65536)
  fun a k => value.getLsbD 0 || overlap a (a + k) base (base + n)

/-- PS2INV: a page, or every page; a second write while one is pending makes both cover every page, with SREC if either has it. -/
def execPs2inv (part : Nat) (value : BitVec 64) (s : State) : Host.Outcome State Fault Refusal :=
  if 12 ≤ part then .next s
  else if wfield value 2 14 ≠ 0 then .next (s.answerSoft part 2)
  else
    let p := s.part part
    let s1 := s.revokePages p (s.inPages p value) (value.getLsbD 1)
    let q := s1.part part
    .next (s1.setPart { q with ps2pend := some (match q.ps2pend with | some v => ((v ||| value) &&& 2) ||| 1 | none => value) })

/-- No stash store of the partition's groups is pending to a row that maps a line of the pages. -/
def State.quietRows (s : State) (vs : List Nat) (inPages : Nat → Nat → Bool) : Bool :=
  s.groups.all fun g => !vs.contains g.id.vf || g.ops.all fun o => o.space != .stash || !o.stores || o.parts.all fun p =>
    let r := s.row (p.addr / lineBytes)
    r.st == .p || !inPages r.gpa 1

/-- No access of a VF that may have used a translation is under way. -/
def State.quietVf (s : State) (vf : Nat) : Bool :=
  (s.groups.all fun g => g.id.vf != vf || !g.ops.any fun o => o.space != .stash) && (s.copies.all fun c => c.vf != vf)
    && match s.partOf vf with
      | some p => (s.spineCmds p).all fun c => c.vf != vf || c.prog.running.isEmpty
      | none => true

/-- STAGE2_INVAL_COMPLETE: no buffer holds a translation of the partition any more, and every access that used one has
performed: PEND2 clears. With SREC, stores that were on their way to the rows have been written, and the rows are written back and
marked again, so that every later write to one is checked (R343, R344). -/
def execStage2InvalComplete (part : Nat) (s : State) : Host.Outcome State Fault Refusal :=
  let p := s.part part
  let vs := p.vfsOf 65535
  let value := p.ps2pend.getD 0
  if 12 ≤ part ∨ p.ps2pend.isNone ∨ !vs.all s.quietVf ∨ (value.getLsbD 1 ∧ !s.quietRows vs (s.inPages p value)) then .next s
  else
    let s := if value.getLsbD 1 then s.revokePages p (s.inPages p value) true else s
    let p := s.part part
    .next ({ s with tlb := s.tlb.filter fun t => !vs.contains t.vf, walks := s.walks.filter fun w => !(if w.stage2 then w.owner == part else vs.contains w.owner) }.setPart
    { p with ps2pend := none })

-- ## stage-1 invalidation (R217)

/-- A buffered translation uses a stage-1 entry for the page. -/
def TlbEntry.uses (t : TlbEntry) (w : Word) : Bool :=
  w.getLsbD 0 || t.va / 2 ^ pageBits t.level1 == w.toNat / 65536 * 65536 % 2 ^ 64 / 2 ^ pageBits t.level1

/-- A cached table entry of stage 1 is on the way to the page. -/
def WalkEntry.uses (x : WalkEntry) (w : Word) : Bool :=
  w.getLsbD 0 || (levels.find? fun l => l.1 == x.level).any fun l => (w.toNat % 2 ^ 57) / 65536 * 65536 / 2 ^ l.2.1 == x.key

/-- TLBI_COMPLETE: no buffer holds a translation of the VF that uses the invalidated entries, and every access that used one
has performed: PEND clears. -/
def execTlbiComplete (vf : Nat) (s : State) : Host.Outcome State Fault Refusal :=
  let v := s.vf vf
  match v.tlbi with
  | none => .next s
  | some w =>
    if 192 ≤ vf ∨ !s.quietVf vf then .next s
    else .next ({ s with tlb := s.tlb.filter fun t => !(t.vf == vf && t.uses w), walks := s.walks.filter fun x => !(!x.stage2 && x.owner == vf && x.uses w) }.setVf
      { v with tlbi := none })

end Sys2Proof.Machine
end

