-- ==== Sys2Proof/Machine/Links.lean ====
section
/-! DEFINITION. Events of the memory hierarchy that no word causes (R200, R210, R214), the turns of the die links (R360 to
R366), and the Wiuno link with the companion processor's accesses (R370 to R372). -/
namespace Sys2Proof.Machine

-- ## stash, slices, HBM

/-- The VF and class of a pending access to a stash row. -/
def State.toucher (s : State) (key : Nat) : Option (Nat × Nat) :=
  (s.groups.find? fun g => g.ops.any fun o => o.space == .stash && o.parts.any fun p => p.addr / lineBytes == key).map fun g => (g.id.vf, g.id.cls)

/-- STASH_FILL (R199, R200): a mapped row that a pending access touches obtains its line with ownership. -/
def execStashFill (core row : Nat) (s : State) : Host.Outcome State Fault Refusal :=
  let key := core * 4096 + row
  if 256 ≤ core ∨ 4096 ≤ row then .next s
  else match s.toucher key with
    | some (vf, cls) => .next (s.fillRow key vf cls)
    | none => .next s

/-- RECALL (R200, R212): the stash row or the slices that hold a line write it back and give it up. -/
def execRecall (line : Nat) (s : State) : Host.Outcome State Fault Refusal := .next ((s.recallLine line).claimLine none line true)

/-- SLICE_SWEEP (R210): lines of a partition in ways its mask no longer holds are written back and leave the slice, pinned
lines included. -/
def execSliceSweep (leaf slice : Nat) (s : State) : Host.Outcome State Fault Refusal :=
  let gone (x : SliceLine) : Bool := x.leaf == leaf && x.slice == slice && !(s.part x.part).force.pway.getLsbD x.way
  .next ((s.slices.filter gone).foldl (fun s x => s.evictLine x x.vf 0) s)

/-- PATROL_SCRUB (R214, R426): corrected errors of a line are counted for the partition that maps it. -/
def execPatrolScrub (line : Nat) (errors : Nat) (s : State) : Host.Outcome State Fault Refusal :=
  match s.partMapping (line * lineBytes) with
  | some p => .next (s.setPart { p with cecnt := p.cecnt + BitVec.ofNat 64 errors })
  | none => .next s

-- ## bundles (R360 to R365)

/-- RD(n, r) (R362). -/
def readBundles (n r : Nat) : Nat := min (max ((n * r + 4) / 8) ((n + 7) / 8)) (n - (n + 7) / 8)

/-- Partitions that hold a core of a leaf, with their weights. -/
def State.holders (s : State) (leaf : Nat) : List (Nat × Nat) :=
  (s.parts.filter fun p => nth (0 : Word) p.force.pcore leaf != 0).map fun p => (p.num, p.force.pwt.toNat % 256)

/-- Bundles of each holder (R361): four, the floor of its part of the rest, and one more for the largest fractions. -/
def bundleCounts (l : List (Nat × Nat)) : List (Nat × Nat) :=
  let rest := 64 - 4 * l.length
  let sum := (l.map (·.2)).sum
  let spare := rest - (l.map fun x => rest * x.2 / sum).sum
  l.map fun (p, w) =>
    let f := rest * w % sum
    let ahead := (l.filter fun (q, v) => f < rest * v % sum || (f == rest * v % sum && q < p)).length
    (p, 4 + rest * w / sum + if ahead < spare then 1 else 0)

/-- The shares of a link, in consecutive bundles from 0, at ratio 4. -/
def shareOut : List (Nat × Nat) → Nat → List LinkShare
  | [], _ => []
  | (p, n) :: r, base => { part := p, base, n, turns := 0, target := readBundles n 4 } :: shareOut r (base + n)

/-- The AUTO ratio (R365); the mean queues of the last window are free. -/
def State.autoTarget (s : State) (x : LinkShare) : LinkShare × State :=
  let (qr, s1) := s.free
  let (qw, s2) := s1.free
  (if qr + qw = 0 then x else { x with target := readBundles x.n (min (max ((16 * qr + (qr + qw)) / (2 * (qr + qw))) 1) 7) }, s2)

/-- The target of a share at a window (R363); a request queued on the link is honoured and cleared. -/
def DieLink.shareTarget (l : DieLink) (s : State) (x : LinkShare) : LinkShare × DieLink × State :=
  if !(s.part x.part).mode.getLsbD 4 then let (y, s1) := s.autoTarget x; (y, l, s1)
  else
    let r := Sparse.get 0 l.queued x.part
    if r = 0 then (x, l, s) else ({ x with target := readBundles x.n r }, { l with queued := Sparse.set 0 l.queued x.part 0 }, s)

/-- The shares of a link at a window that computes none anew. -/
def DieLink.shareTargets (l : DieLink) (s : State) : List LinkShare → List LinkShare × DieLink × State
  | [] => ([], l, s)
  | x :: r =>
    let (y, l1, s1) := l.shareTarget s x
    let (ys, l2, s2) := l1.shareTargets s1 r
    (y :: ys, l2, s2)

/-- Bundles whose direction is not that of their share's target. -/
def DieLink.toTurn (l : DieLink) : List Nat :=
  l.shares.flatMap fun x => (List.range x.n).filterMap fun i => if nth false l.dirs (x.base + i) != decide (i < x.target) then some (x.base + i) else none

/-- The dark bundle takes its new direction, and its share counts the turn. -/
def DieLink.turned (l : DieLink) : DieLink :=
  match l.turning with
  | [] => l
  | b :: r => { l with turning := r, darkEnd := l.darkEnd + 12, dirs := putNth l.dirs b (!nth false l.dirs b)
                       shares := l.shares.map fun (x : LinkShare) => if x.base ≤ b ∧ b < x.base + x.n then { x with turns := x.turns + 1 } else x }

/-- A window of one link, after every turn of the window before has ended. -/
def State.windowOf (s : State) (leaf : Nat) : State :=
  let l := nth DieLink.reset s.links leaf
  let l0 := (List.range 64).foldl (fun (l : DieLink) _ => l.turned) l
  let (shares, l2, s1) := if l0.due then (shareOut (bundleCounts (s.holders leaf)) 0, l0, s) else l0.shareTargets s l0.shares
  let l1 := { l2 with shares, due := false }
  { s1 with links := putNth s1.links leaf { l1 with turning := l1.toTurn, darkEnd := s.ns + 12 } }

/-- TURN_WINDOW (R363): every 2 µs from power-up, on each link. -/
def execTurnWindow (s : State) : Host.Outcome State Fault Refusal :=
  if s.ns / 2000 ≤ s.window then .next s
  else .next { [0, 1, 2, 3].foldl (fun s leaf => s.windowOf leaf) s with window := s.ns / 2000 }

/-- BUNDLE_TURN_END (R363): 12 ns after it stopped, the dark bundle of a link takes flits in its new direction. -/
def execBundleTurnEnd (leaf : Nat) (s : State) : Host.Outcome State Fault Refusal :=
  let l := nth DieLink.reset s.links leaf
  if 4 ≤ leaf ∨ l.turning.isEmpty ∨ s.ns < l.darkEnd then .next s else .next { s with links := putNth s.links leaf l.turned }

-- ## the Wiuno link (R370 to R372)

/-- LINK_RETRY: a flit whose CRC failed is sent again; the sixteenth failure in a row starts a retraining. -/
def execLinkRetry (failures : Nat) (s : State) : Host.Outcome State Fault Refusal :=
  if !s.wiuno.up ∨ s.wiuno.training then .next s
  else .next { s with wiuno := { s.wiuno with retries := min failures 16, training := decide (16 ≤ failures) } }

/-- Every partition takes a containment event. -/
def State.containAll (s : State) (pa path : Nat) : State := (List.range 12).foldl (fun s n => s.contain n pa 0 path) s

/-- LINK_RETRAIN: the link is in service again, or it is down and every partition is contained. -/
def execLinkRetrain (ok : Bool) (s : State) : Host.Outcome State Fault Refusal :=
  if !s.wiuno.training then .next s
  else
    let s1 := { s with wiuno := { s.wiuno with training := false, retries := 0, up := ok } }
    if ok then .next s1 else .next (s1.containAll 0x8000000000000 4)

/-- The companion processor takes a line of HBM, whole, at its L3 bank, after recalls; the directory keeps its HOST state (R370). -/
def State.hostTake (s : State) (vf line : Nat) (write : Bool) : State :=
  let s0 := (s.stamp (wiunoIn 0)).2
  ((s0.recallLine line).claimLine none line write).l3Enter vf line

/-- The state of the companion processor in the directory entries of lines it took (R212, R370). -/
def State.hostHas (s : State) (lines : List Nat) (write : Bool) : State :=
  lines.foldl (fun s l => s.setHostState l (if write then .modified else .shared)) s

/-- A read of an outside agent, in the order of its line (R393). A replay logs none and meets none: the read changes nothing that it
reproduces. -/
def State.outsideRead (s : State) (vf : Nat) (a : Agent) (line : Nat) : State :=
  if s.log vf = 2 then s
  else match s.order vf (.spine vf) { key := line, agent := a, write := false } with
    | .go s1 => s1
    | .hold | .diverge => s

/-- The home of a companion-processor line takes it back: copies of the device are written back, and for an exclusive request they go
(R370). -/
def State.homeTake (s : State) (line : Nat) (exclusive : Bool) : State :=
  let s1 := (s.recallLine line).claimLine none line exclusive
  let keep (e : L3Line) : Bool := !(exclusive && e.line == line)
  { s1 with l3 := (s1.l3.filter keep).map fun (e : L3Line) => if e.line = line then { e with dirty := false, back := [] } else e }

/-- The device holds a copy of a line. -/
def State.holdsCopy (s : State) (line : Nat) : Bool :=
  (s.l3.any fun e => e.line == line) || (s.slices.any fun x => x.line == line) || !(s.owners line).isEmpty

/-- COMPANION_ACCESS (R370): the companion processor reads or writes bytes of memory. A line of HBM is performed at its L3 bank, over
the Wiuno link, recalled first and held in its HOST state; a line of its own memory is performed at its home, which asks the
device for its copies. Its accesses to device registers are REGISTER_WRITE. -/
def execCompanionAccess (pa bytes : Nat) (data : Option Nat) (s : State) : Host.Outcome State Fault Refusal :=
  let lines := (List.range ((pa % lineBytes + bytes + lineBytes - 1) / lineBytes)).map fun i => pa / lineBytes + i
  if bytes = 0 then .next s
  else if rangeOf pa = some 0 ∧ rangeOf (pa + bytes - 1) = some 0 then
    if !s.linkUp then .next s
    else
      let vf := ((s.partMapping pa).map Partition.spineVf).getD 192
      let s1 := lines.foldl (fun s l => s.hostTake vf l data.isSome) s
      match data with
      | some d => .next (((s1.outsideWrite vf companion 0x22 pa (leBytes bytes d) 0).map fun t => t.hostHas lines true).getD s)
      | none => .next ((lines.foldl (fun s l => s.outsideRead vf companion l) s1).hostHas lines false)
  else if rangeOf pa = some 1 ∧ rangeOf (pa + bytes - 1) = some 1 then
    if !s.linkUp ∧ lines.any s.holdsCopy then .next s
    else
      let s1 := lines.foldl (fun s l => if s.holdsCopy l then s.homeTake l data.isSome else s) s
      match data with
      | some d => .next { s1 with mem := Memory.writeN s1.mem pa (leBytes bytes d) }
      | none => .next s1
  else .next s

/-- WIUNO_SNOOP (R370): the home of a companion-processor line asks for it; copies of the device are recalled, and for an
exclusive request they go. -/
def execWiunoSnoop (line : Nat) (exclusive : Bool) (s : State) : Host.Outcome State Fault Refusal :=
  if !s.linkUp ∨ rangeOf (line * lineBytes) ≠ some 1 then .next s
  else .next ((s.stamp (wiunoOut 0)).2.homeTake line exclusive)

end Sys2Proof.Machine
end

