-- ==== Sys2Proof/Machine/Copies.lean ====
section
/-! DEFINITION. The pieces of core engine commands as they perform (R269), the fold of a `comb` (R276), completion and source
errors (R265, R270), and cancelled commands (R273). -/
namespace Sys2Proof.Machine

-- ## the bytes of an endpoint

/-- A part of an endpoint within one line: its space, its address there, and the address as the command names it (log entry 24). -/
structure EndPart where
  stash : Bool
  addr : Nat
  named : Nat
  len : Nat
  uncached : Bool

/-- The parts of an endpoint from `off` past its base, by line: stash bytes of its core, or physical bytes by the translations
found at issue. -/
def CopyCmd.endParts (c : CopyCmd) (e : CopyEnd) (off : Int) (n : Nat) : List EndPart :=
  if e.isStash then
    let first := e.core * Config.stashBytes + ((e.base + e.addr.toNat % 524288 : Nat) + off).toNat
    let called := e.addr.toNat / 524288 * 524288 + ((e.addr.toNat % 524288 : Nat) + off : Int).toNat
    (lineParts first n).map fun (a, k) => { stash := true, addr := a, named := called + (a - first), len := k, uncached := false }
  else (lineParts (shiftAddr e.addr off) n).map fun (a, k) =>
    match c.pages.find? fun p => p.1 == a / 65536 % 2 ^ 48 with
    | some (_, base, u) => { stash := false, addr := base + a % 65536, named := a, len := k, uncached := u }
    | none => { stash := false, addr := a, named := a, len := k, uncached := true }

/-- The class of a command's group (R332). -/
def State.cmdClass (s : State) (c : CopyCmd) : Nat := ((s.group? c.group).map (·.id.cls)).getD 0

/-- The request of a command for the line of a part. -/
def EndPart.req (x : EndPart) (s : State) (c : CopyCmd) (write : Bool) : SliceReq :=
  { leaf := leafOf c.core, vf := c.vf, line := x.addr / lineBytes, read := !write
    wmask := if write then BitVec.ofNat 128 ((2 ^ x.len - 1) * 2 ^ (x.addr % lineBytes)) else 0
    uc := 0, dz := false, uncached := x.uncached, cls := s.cmdClass c, bytes := x.len }

/-- The budgets cover the requests for a part: for its line, or for the fill of its row (R332). -/
def State.partAffords (s : State) (c : CopyCmd) (x : EndPart) : Bool :=
  if x.stash then
    let k := x.addr / lineBytes
    (s.row k).st != .i || s.lineAffords c.vf (s.cmdClass c) (leafOf (k / 4096)) (s.row k).line lineBytes
  else s.lineAffords c.vf (s.cmdClass c) (leafOf c.core) (x.addr / lineBytes) x.len

/-- The location of a byte of a part. -/
def State.partLoc (s : State) (x : EndPart) (i : Nat) : Nat := s.locOf (if x.stash then .stash else .mem) (x.addr + i)

/-- Where the events of a command go, and the words that name its piece (R396). -/
def CopyCmd.order (c : CopyCmd) (s : State) (x : EndPart) (write : Bool) : Access1 :=
  { key := locLine (s.partLoc x 0), agent := c.agent, write, time := c.ltime, src := 1, piece := [BitVec.ofNat 64 (c.tag * 2 ^ 58 + c.pieces)] }
def CopyCmd.collator (c : CopyCmd) (s : State) : LogTo :=
  match s.group? c.group with
  | some g => g.collator
  | none => .spine c.vf

/-- The access of a command for the conflict checker: it takes the counts of its group now (R237). -/
def State.cmdConf (s : State) (c : CopyCmd) (write : Bool) : ConfAccess :=
  { agent := c.agent, counts := ((s.group? c.group).map (·.counts)).getD { tb := 0, cb := 0, gb := 0, rf := 0 }
    isWrite := write, isRed := false, isAtom := false, inst := c.ltime.toNat, cmd := c.serial * 64 + c.tag }

/-- The conflict of a command's access to a location, if DET = 1 (R239). -/
def State.cmdClash (s : State) (c : CopyCmd) (write : Bool) (loc named : Nat) : Option TrapReq :=
  if s.det c.vf then (s.conflictAt loc (s.cmdConf c write) 0).map fun a => conflictTrap named 0 a true none else none

/-- The access is kept for the conflict checker. -/
def State.cmdPut (s : State) (c : CopyCmd) (write : Bool) (loc : Nat) : State := if s.det c.vf then s.conflictPut loc (s.cmdConf c write) else s

/-- How an access of a command ends. -/
inductive Step1 (α : Type) where
  | ok (a : α) (s : State)
  | hold
  | clash (t : TrapReq)
  | diverge

/-- Reads one part. -/
def State.readPart (s0 : State) (c : CopyCmd) (x : EndPart) : Step1 (List Byte) :=
  let s := if x.stash then s0.fillRow (x.addr / lineBytes) c.vf (s0.cmdClass c) else s0
  match (List.range x.len).findSome? fun i => s.cmdClash c false (s.partLoc x i) (x.named + i) with
  | some t => .clash t
  | none => match s.orderIn c.vf (c.collator s) (c.order s x false) with
    | .hold => .hold
    | .diverge => .diverge
    | .go s1 =>
      let s2 := (List.range x.len).foldl (fun s i => s.cmdPut c false (s.partLoc x i)) s1
      if x.stash then .ok (Memory.readN s2.stash x.addr x.len) s2
      else
        let s3 := s2.sliceAccess (x.req s2 c false)
        .ok (Memory.readN s3.mem x.addr x.len) (s3.reapDead (x.addr / lineBytes))

/-- Writes one part. -/
def State.writePart (s0 : State) (c : CopyCmd) (x : EndPart) (bs : List Byte) : Step1 Unit :=
  let s := if x.stash then s0.fillRow (x.addr / lineBytes) c.vf (s0.cmdClass c) else s0
  match (List.range x.len).findSome? fun i => s.cmdClash c true (s.partLoc x i) (x.named + i) with
  | some t => .clash t
  | none => match s.orderIn c.vf (c.collator s) (c.order s x true) with
    | .hold => .hold
    | .diverge => .diverge
    | .go s1 =>
      let s2 := (List.range x.len).foldl (fun s i => s.cmdPut c true (s.partLoc x i)) s1
      if x.stash then .ok () ({ s2 with stash := Memory.writeN s2.stash x.addr bs }.dirtyRow x.addr x.len)
      else
        let s3 := s2.sliceAccess (x.req s2 c true)
        .ok () { s3 with mem := Memory.writeN s3.mem x.addr bs }

/-- Reads, and writes, parts in order. -/
def State.readEnd (s : State) (c : CopyCmd) : List EndPart → Step1 (List Byte)
  | [] => .ok [] s
  | x :: r => match s.readPart c x with
    | .ok bs s => match s.readEnd c r with
      | .ok l s => .ok (bs ++ l) s
      | e => e
    | e => e

def State.writeEnd (s : State) (c : CopyCmd) : List EndPart → List Byte → Step1 Unit
  | [], _ => .ok () s
  | x :: r, bs => match s.writePart c x (bs.take x.len) with
    | .ok _ s => s.writeEnd c r (bs.drop x.len)
    | e => e

-- ## pieces

/-- Bytes of seq. -/
def CopyCmd.total (c : CopyCmd) : Nat := c.xlen * c.ycnt * c.zcnt

/-- The next piece of a copy: up to a 16-byte boundary of the destination or the end of its row. -/
def CopyCmd.next (c : CopyCmd) : Option Piece :=
  (piecesIn (if c.dst.isStash then c.dst.base + c.dst.addr.toNat % 524288 else c.dst.addr.toNat) c.xlen c.ycnt c.dst.ystr c.dst.zstr c.src.ystr c.src.zstr
    c.done (min c.total (min (c.done + 16) ((c.done / c.xlen + 1) * c.xlen)))).head?

/-- The command in its new state. -/
def State.setCmd (s : State) (c : CopyCmd) : State := { s with copies := s.copies.map fun (x : CopyCmd) => if x.serial = c.serial then c else x }

/-- The command may act: every access before it in its group's order has performed (R230). -/
def State.mayMove (s : State) (c : CopyCmd) : Bool :=
  ((s.group? c.group).map fun g => g.ops.all fun o => c.after ≤ o.id || (match o.kind with | .fsend _ => true | _ => false)).getD true

/-- A fault of a command is raised in its issuing group, at its next issue (R239, R271). -/
def State.blame (s : State) (c : CopyCmd) (t : TrapReq) : State :=
  match s.group? c.group with
  | none => s
  | some g => if g.trap.async.contains t then s else s.setGroup { g with trap := { g.trap with async := g.trap.async ++ [t] } }

/-- One piece performs; none when it must wait, for its order or for a budget (R332), or fails. -/
def State.movePiece (s : State) (c : CopyCmd) : State × Bool :=
  match (if s.mayMove c then c.next else none) with
  | none => (s, false)
  | some p =>
    let fail (e : Step1 Unit) : State := match e with
      | .clash t => s.blame c t
      | .diverge => s.blame c (divergence 5 4 c.ltime)
      | .hold | .ok _ _ => s
    let parts := c.endParts c.src p.src p.len ++ c.endParts c.dst p.dst p.len
    if !parts.all (s.partAffords c) then (s, false) else
    match s.readEnd c (c.endParts c.src p.src p.len) with
    | .ok bs s1 => match s1.writeEnd c (c.endParts c.dst p.dst p.len) bs with
      | .ok _ s2 => (s2.setCmd { c with done := c.done + p.len, pieces := c.pieces + 1 }, true)
      | e => (fail e, false)
    | .clash t => (fail (.clash t), false)
    | .diverge => (fail .diverge, false)
    | .hold => (fail .hold, false)

/-- Up to `n` pieces perform, as far as they can. -/
def State.movePieces (s : State) (serial : Nat) : Nat → State
  | 0 => s
  | n + 1 => match s.copies.find? fun c => c.serial == serial with
    | none => s
    | some c => if c.total ≤ c.done then s else
      let (s1, ok) := s.movePiece c
      if ok then s1.movePieces serial n else s1

-- ## completion

/-- The tag is DONE, with its CTFLT bit for a source error; the command is gone (R265, R270). -/
def State.finishCopy (s : State) (c : CopyCmd) (fault : Bool) : State :=
  let lock := s.locks.find? fun e => e.core == c.core && e.idx == c.lockIdx && !e.kind
  let s1 := { s with copies := s.copies.filter fun x => x.serial != c.serial }.tracePacket c.vf 2
    (c.traceWord :: match lock with | some e => [e.dlo, e.dhi, e.slo, e.shi] | none => [])
  match s1.group? c.group with
  | none => s1
  | some g => s1.setGroup { g with tagBusy := g.tagBusy &&& ~~~(bit64 c.tag), tagDone := g.tagDone ||| bit64 c.tag
                                   tagFlt := if fault then g.tagFlt ||| bit64 c.tag else g.tagFlt }

/-- The physical ranges of a `comb`. -/
def CopyCmd.combRanges (c : CopyCmd) : List (Nat × Nat) := (c.endParts c.dst 0 c.xlen).map fun x => (x.addr, x.addr + x.len)

/-- A slot that a `comb` folds: of the issuing kernel, holding a byte of the range. -/
def CopyCmd.folds (c : CopyCmd) (x : Slot) : Bool :=
  x.vf == c.vf && x.gslot == c.agent.gslot && x.launch == c.agent.launch && x.node == c.agent.node
    && c.combRanges.any fun (a, b) => overlap x.addr (x.addr + x.bytes) a b

/-- What a `comb` writes, each once: every word that holds a byte of its range, and the whole of a doubleword for which a `.d` slot
is staged (R276). -/
def State.combUnits (s : State) (c : CopyCmd) : List EndPart :=
  let v := c.dst.addr.toNat
  let words := (List.range ((v % 4 + c.xlen + 3) / 4)).map fun i => v / 4 * 4 + 4 * i
  let part (va n : Nat) : List EndPart := (c.endParts { c.dst with addr := BitVec.ofNat 64 va } 0 n)
  let wide (va : Nat) : Bool := (part (va / 8 * 8) 8).any fun x => s.slots.any fun y => c.folds y && y.wide && y.addr == x.addr
  (words.map fun va => if wide va then (va / 8 * 8, 8) else (va, 4)).eraseDups.flatMap fun (va, n) => part va n

/-- The fold of a `comb` at one word or doubleword, as a checked write of its agent; with no slot it writes the bytes unchanged. -/
def State.combAt (s : State) (c : CopyCmd) (x : EndPart) : Step1 Unit :=
  match (List.range x.len).findSome? fun i => s.cmdClash c true (x.addr + i) (x.named + i) with
  | some t => .clash t
  | none => match s.orderIn c.vf (c.collator s) (c.order s x true) with
    | .hold => .hold
    | .diverge => .diverge
    | .go s1 =>
      let s2 := if s1.slots.any fun y => c.folds y && y.addr == x.addr then s1.foldOne c.folds x.addr
        else
          let (old, s) := s1.readMem x.addr x.len
          s.writeMem x.addr old
      .ok () ((List.range x.len).foldl (fun s i => s.cmdPut c true (x.addr + i)) s2)

/-- A `comb` performs, word by word: with DET = 0 it writes nothing. -/
def State.runComb (s : State) (c : CopyCmd) : List EndPart → Step1 Unit
  | [] => .ok () s
  | x :: r => match s.combAt c x with
    | .ok _ s1 => (s1.setCmd { c with pieces := c.pieces + 1 }).runComb { c with pieces := c.pieces + 1 } r
    | e => e

/-- The command of a group's tag. -/
def State.cmdOf (s : State) (g tag : Nat) : Option CopyCmd := s.copies.find? fun c => c.group == g && c.tag == tag

/-- COPY_COMPLETE (R265, R269, R270): the next `pieces` pieces perform; with all of them the command completes, and with fewer
the piece after them met an uncorrectable source error. -/
def execCopyComplete (g tag pieces : Nat) (s : State) : Host.Outcome State Fault Refusal :=
  match s.cmdOf g tag with
  | none => .next s
  | some c =>
    if !s.mayMove c then .next s
    else if c.isComb then
      match s.runComb c (if s.det c.vf then s.combUnits c else []) with
      | .ok _ s1 => .next (s1.finishCopy c false)
      | .clash t => .next (s.blame c t)
      | .diverge => .next (s.blame c (divergence 5 4 c.ltime))
      | .hold => .next s
    else
      let s1 := s.movePieces c.serial pieces
      match s1.cmdOf g tag with
      | none => .next s1
      | some c1 =>
        if c1.total ≤ c1.done then .next (s1.finishCopy c1 false)
        else if c1.pieces = c.pieces + pieces then .next (s1.finishCopy c1 true) else .next s1

/-- A cancelled command's VAL event (R388): its source, and the pieces written. -/
def State.noteCancel (s : State) (c : CopyCmd) : State :=
  match s.group? c.group with
  | some g => if s.log c.vf = 1 then
      s.logEvent g.collator { code := 4, grp := g.id.tidx, time := c.cancelAt, a := BitVec.ofNat 32 (0x3000 + c.tag), more := [BitVec.ofNat 64 c.pieces] }
    else s
  | none => s

/-- The logged prefix of a cancelled command, with its event. -/
def State.loggedCancel (s : State) (c : CopyCmd) : Option LogEvent :=
  match s.group? c.group with
  | some g => if s.log c.vf = 2 then (s.eventsAt g.collator).find? fun e => e.code == 4 && e.a.toNat == 0x3000 + c.tag && sameTime e.time c.cancelAt else none
  | none => none

/-- COPY_CANCEL_STOP (R273): a cancelled command stops after `pieces` more pieces; in REPLAY after the logged prefix. -/
def execCopyCancelStop (g tag pieces : Nat) (s : State) : Host.Outcome State Fault Refusal :=
  match s.cmdOf g tag with
  | none => .next s
  | some c =>
    if !c.cancelled ∨ s.det c.vf ∨ !s.mayMove c then .next s
    else
      let e := s.loggedCancel c
      let n := match e with | some e => (nth (0 : Word) e.more 0).toNat - c.pieces | none => pieces
      let s1 := if c.isComb then s else s.movePieces c.serial n
      match s1.cmdOf g tag with
      | none => .next s1
      | some c1 =>
        if !c1.isComb ∧ c1.done < c1.total ∧ c1.pieces ≠ c.pieces + n then .next s1
        else
          let s2 := s1.noteCancel c1
          let s3 := match e, s2.group? c1.group with
            | some e, some g => s2.meetEvent g.collator e
            | _, _ => s2
          .next (s3.finishCopy c1 false)

end Sys2Proof.Machine
end

