-- ==== Sys2Proof/Machine/Memory.lean ====
section
/-! DEFINITION. The memory words: flat and stash loads and stores (R133 to R137, R246), gather and scatter (R248 to
R250), stash mapping (R251 to R253), mailboxes (R254), fences (R255), atomics and reducing writes (R256 to R258). -/
namespace Sys2Proof.Machine

/-- Step 1 of R243 on a data register of some span and an index register. -/
def Group.dataTrap (g : Group) (act : Lane) (o : OpM) (span : Nat) (aSpan : Nat := 1) : Option TrapReq :=
  firstTrap [g.checkV 0 o.d span (selfLanes act), if o.scl = 7 then none else g.checkV 1 o.a aSpan (selfLanes act)]

/-- Registers a lane's datum of `n` bytes spans (R135). -/
def regSpan (n : Nat) : Nat := (n + 3) / 4

/-- The low `n` bytes of consecutive registers of a lane. -/
def Group.laneBytes (g : Group) (row l n : Nat) : List Byte :=
  ((List.range (regSpan n)).flatMap fun j => leBytes 4 (g.getV (row + j) l).toNat).take n

/-- The address of a lane of layout M. -/
def Group.laneAddr (g : Group) (o : OpM) (l : Nat) : Word := g.addrOf o (fun l => g.getV (g.rowOf o.a l) l) l

/-- What a layout M word of one element asks for. -/
def memReq (o : OpM) (kind : OpKind) (stash sync : Bool) : MemReq :=
  { kind, stash, ord := o.ord, sco := o.sco, uc := o.uc, dz := o.dz == 1, sync }

/-- Loads and stores with per-lane addresses (R133 to R137, R244, R246). -/
def loadWord (s : State) (g : Group) (o : OpM) (stash : Bool) : WordRes :=
  let n := widBytes o.wid
  let act := g.active o.pred
  match g.dataTrap act o (regSpan n) with
  | some t => .trap t
  | none => memWord s g (memReq o .load stash false)
      ((lanesOf act).map fun l => { lane := l, va := g.laneAddr o l, size := n, reg := g.rowOf o.d l }) [] true

def storeWord (s : State) (g : Group) (o : OpM) (stash : Bool) : WordRes :=
  let n := widBytes o.wid
  let act := g.active o.pred
  let reqs : List LaneReq := (lanesOf act).map fun l =>
    { lane := l, va := g.laneAddr o l, size := n, data := g.laneBytes (g.rowOf o.d l) l n }
  match g.dataTrap act o (regSpan n) with
  | some t => .trap t
  | none => memWord s g (memReq o .store stash false) reqs (reqs.flatMap fun r => runWords r.va.toNat r.data) false

def execVldG (o : OpM) (s : State) : Host.Outcome State Fault Refusal := runWord s (.vldG o) fun s g => loadWord s g o false
def execVstG (o : OpM) (s : State) : Host.Outcome State Fault Refusal := runWord s (.vstG o) fun s g => storeWord s g o false
def execVldS (o : OpM) (s : State) : Host.Outcome State Fault Refusal := runWord s (.vldS o) fun s g => loadWord s g o true
def execVstS (o : OpM) (s : State) : Host.Outcome State Fault Refusal := runWord s (.vstS o) fun s g => storeWord s g o true

-- ## gather and scatter (R248 to R250)

/-- The lane accesses of element `j`. -/
def Group.elemReqs (g : Group) (o : OpM) (store : Bool) (j : Nat) : List LaneReq :=
  (lanesOf (g.active o.pred)).map fun l =>
    { lane := l, va := g.addrOf o (fun l => g.getV (o.a.toNat + j) l) l, size := widBytes o.wid, reg := o.d.toNat + j
      data := if store then g.laneBytes (o.d.toNat + j) l (widBytes o.wid) else [] }

/-- The elements of R248 from PIDX on: each passes steps 2 to 4 in every active lane before the next; a failure leaves
PIDX at its element, and so does a wait for a counter. `w` is what the word has written so far, `seen` the lines it has requested
(R219). -/
def gatherFrom (o : OpM) (store : Bool) (inst : Nat) : List Nat → State → Group → List Nat → Writes → WordRes
  | [], s, g, _, w => .next s { g with pidx := 0, nextInst := max g.nextInst (inst + 1) }
      { w with pend := if store ∨ (g.active o.pred) = 0 then none else some inst }
  | j :: r, s, g, seen, w =>
    let q : MemReq := { kind := if store then .store else .load, uc := o.uc, dz := o.dz == 1, elem := j, seen }
    let reqs := g.elemReqs o store j
    let at' : Group := { g with pidx := BitVec.ofNat 4 j, pidxPc := g.pc }
    match s.issueMem at' at' q inst reqs with
    | (.error t, s1) => .trapS s1 at' t
    | (.ok (s1, g1), _) => gatherFrom o store inst r s1 g1 (seen ++ (g1.ops.filter fun x => g.nextInst ≤ x.id).flatMap MemOp.newLines) { w with runs := w.runs ++ if store then reqs.flatMap fun x => runWords x.va.toNat x.data else [] }

/-- What the elements before PIDX wrote, whose words are mixed when the word retires (R396). -/
def Group.elemsDone (g : Group) (o : OpM) (store : Bool) (n : Nat) : Writes :=
  if store then { runs := (List.range n).flatMap fun j => (g.elemReqs o true j).flatMap fun x => runWords x.va.toNat x.data }
  else { regs := (List.range n).map fun j => { kind := 0, num := o.d.toNat + j, lanes := g.active o.pred } }

/-- The word of a gather or scatter. Its instruction number stays that of its first element. -/
def gatherWord (s : State) (g : Group) (o : OpM) (store : Bool) : WordRes :=
  let act := g.active o.pred
  let lap := overlap o.d.toNat (o.d.toNat + 8) o.a.toNat (o.a.toNat + 8)
  match firstTrap [g.checkV 0 o.d 8 (selfLanes act), g.checkV 1 o.a 8 (selfLanes act),
      if !store && lap then some (mkTrap 3 6 o.d.toNat) else none] with
  | some t => .trap t
  | none =>
    if g.memStall { kind := if store then .store else .load } then .stall
    else
      let start := if g.pidxPc = g.pc then g.pidx.toNat else 0
      gatherFrom o store g.nextInst ((List.range 8).drop start) s g [] (g.elemsDone o store start)

def execVgath (o : OpM) (s : State) : Host.Outcome State Fault Refusal := runWord s (.vgath o) fun s g => gatherWord s g o false
def execVscat (o : OpM) (s : State) : Host.Outcome State Fault Refusal := runWord s (.vscat o) fun s g => gatherWord s g o true

-- ## stash mapping (R199, R251 to R253)

/-- The rows named by a stash address and a count, checked as R251 gives: keys of the rows of the accessing team. -/
def stashRows (s : State) (g : Group) (va : Word) (c : Nat) : Except TrapReq (List Nat) :=
  match s.team? g.id.team with
  | none => .error (mkTrap 3 4 va.toNat)
  | some t =>
    let a := va.toNat
    let off := a % 524288
    let n := field a 20 4
    if a / 2 ^ 24 ≠ 0 ∨ a.testBit 19 then .error (mkTrap 3 4 a)
    else if n ≠ 15 ∧ n ≠ t.num then .error (mkTrap 3 5 a)
    else if t.stashRows * lineBytes < off + c * lineBytes then .error (mkTrap 3 4 a)
    else if off % 128 ≠ 0 then .error (mkTrap 8 3 (a + 2 ^ 64 * 7))
    else .ok ((List.range c).map fun i => t.core * 4096 + t.stashBase + off / 128 + i)

/-- A pending stash access of the group touches one of the rows (R253). -/
def Group.touches (g : Group) (keys : List Nat) : Bool :=
  g.ops.any fun o => o.space == .stash && o.parts.any fun p => keys.contains (p.addr / lineBytes)

/-- A row inside a locked range (R252). -/
def State.rowLocked (s : State) (g : Group) (named : Nat) (keys : List Nat) : Option TrapReq :=
  keys.findSome? fun k =>
    let o := k % 4096 * lineBytes
    (s.locksOf g.id.core).findSome? fun e =>
      if e.hits true true (k / 4096) o (o + lineBytes) || e.hits false true (k / 4096) o (o + lineBytes)
      then some (mkTrap 10 1 (named + 2 ^ 64 * e.idx)) else none

/-- The words of a stash-mapping instruction but `stmap`: checks, then each row changes state (R199). -/
def rowsWord (s : State) (g : Group) (o : OpM) (f : State → Nat → State) : WordRes :=
  let va := g.getS o.d.toNat
  let c := (g.getS o.a.toNat).toNat
  if c = 0 then .next s g
  else match stashRows s g va c with
    | .error t => .trap t
    | .ok keys => match s.rowLocked g va.toNat keys with
      | some t => .trap t
      | none => if g.touches keys then .stall else settled g (.next (keys.foldl f s) g)

def execStunmap (o : OpM) (s : State) : Host.Outcome State Fault Refusal :=
  runWord s (.stunmap o) fun s g => rowsWord s g o State.releaseRow
def execStflush (o : OpM) (s : State) : Host.Outcome State Fault Refusal :=
  runWord s (.stflush o) fun s g => rowsWord s g o fun s k => (s.drainForward k).writeBackRow k

/-- `stinv` discards dirty bytes only with DET = 0 and LOG = OFF; otherwise it writes them back first (R201). -/
def execStinv (o : OpM) (s : State) : Host.Outcome State Fault Refusal :=
  runWord s (.stinv o) fun s g => rowsWord s g o fun s k =>
    let s1 := if s.det g.id.vf ∨ s.log g.id.vf ≠ 0 then (s.drainForward k).writeBackRow k else s.drainForward k
    let r := s1.row k
    if r.st = .v ∨ r.st = .d then (s1.setRow k { r with st := .i, dirty := 0 }).leaveLeaf (leafOf (k / 4096)) r.line else s1

/-- Translates the lines of a `stmap`: physical line and guest page of each (R252). -/
def State.mapLines (s : State) (g : Group) : List Nat → Except TrapReq (List (Nat × Nat)) × State
  | [] => (.ok [], s)
  | a :: r =>
    match s.translate { g.asker with normal := true } .write (BitVec.ofNat 64 a) with
    | (.error t, s) => (.error t, s)
    | (.ok (pa, _), s) =>
      let gpa := match (s.stage1 g.id.vf a 0 0).1 with | .ok (e, lv) => leafPa e lv a | .error _ => 0
      match s.mapLines g r with
      | (.error t, s) => (.error t, s)
      | (.ok l, s) => (.ok ((pa / lineBytes, gpa) :: l), s)

/-- `stmap` maps rows to consecutive lines after every line has translated (R251, R252). -/
def execStmap (o : OpM) (s : State) : Host.Outcome State Fault Refusal :=
  runWord s (.stmap o) fun s g =>
    let va := g.getS o.d.toNat
    let c := (g.getS o.a.toNat).toNat
    let base := (g.getS o.sb.toNat + BitVec.ofNat 64 (dispBytes o)).toNat
    if c = 0 then .next s g
    else match stashRows s g va c with
      | .error t => .trap t
      | .ok keys =>
        if base % 128 ≠ 0 then .trap (mkTrap 8 3 (base + 2 ^ 64 * 7))
        else match s.mapLines g ((List.range c).map fun i => (base + 128 * i) % 2 ^ 64) with
          | (.error t, s) => .trapS s g t
          | (.ok lines, s) =>
            let core := g.id.core
            let taken (i : Nat) (line : Nat) : Bool :=
              (s.rows.any fun (k, r) => k / 4096 == core && r.st != .p && r.line == line && !keys.contains k)
                || (lines.zipIdx.any fun ((l, _), j) => j != i && l == line)
            match s.rowLocked g va.toNat keys with
            | some t => .trapS s g t
            | none => match lines.zipIdx.find? fun ((l, _), i) => taken i l with
              | some (_, i) => .trapS s g (mkTrap 3 7 ((base + 128 * i) % 2 ^ 64))
              | none =>
                if g.touches keys then .stall
                else settled g (.next ((keys.zip lines).foldl (fun s (k, line, gpa) =>
                  (s.releaseRow k).setRow k { st := .i, line, gpa, dirty := 0, checked := false }) s) g)

-- ## mailboxes (R254) and fences (R255)

/-- The lanes of a mailbox entry. -/
def entryLanes : Lane := 0xF

/-- A mailbox operation on the line at the address, by lanes 0 to 3; the data of a put is the value delivered to each, 0 for a lane slot
with no thread (R27). -/
def mboxWord (s : State) (g : Group) (o : OpM) (put : Bool) : WordRes :=
  let va := g.getS o.sb.toNat + BitVec.ofNat 64 (dispBytes o)
  let kind : OpKind := if put then .mboxPut o.a.toNat else .mboxGet o.a.toNat
  let reqs : List LaneReq := (lanesOf entryLanes).map fun l =>
    { lane := l, va, size := lineBytes, reg := g.rowOf o.d l, data := if put then leBytes 4 (g.fetchV o.d 0 l).toNat else [] }
  match g.checkV 0 o.d 1 (selfLanes (if put then entryLanes &&& g.live else entryLanes)) with
  | some t => .trap t
  | none => memWord s g { memReq o kind false true with align := 4 } reqs [] true

def execMboxPut (o : OpM) (s : State) : Host.Outcome State Fault Refusal := runWord s (.mboxPut o) fun s g => mboxWord s g o true
def execMboxGet (o : OpM) (s : State) : Host.Outcome State Fault Refusal := runWord s (.mboxGet o) fun s g => mboxWord s g o false

/-- A fence waits until every older access has performed; with scope `.f` also until every older message is accepted
(R228). -/
def execFence (o : OpM) (s : State) : Host.Outcome State Fault Refusal :=
  runWord s (.fence o) fun s g =>
    let waits (x : MemOp) : Bool := match x.kind with | .fsend _ => 4 ≤ o.sco.toNat | _ => true
    if g.ops.any waits then .stall else consuming s g (.next s g)

-- ## atomics and reducing writes (R256 to R258)

/-- A value-returning atomic; `cas` takes its swap value from the registers after the compare value. -/
def atomWord (s : State) (g : Group) (o : OpM) (op : RmwOp) : WordRes :=
  let n := widBytes o.wid
  let act := g.active o.pred
  let span := regSpan n * (if op = .cas then 2 else 1)
  let reqs : List LaneReq := (lanesOf act).map fun l =>
    let row := g.rowOf o.d l
    { lane := l, va := g.laneAddr o l, size := n, reg := row, data := g.laneBytes row l n
      swap := if op = .cas then g.laneBytes (row + regSpan n) l n else [] }
  match g.dataTrap act o span with
  | some t => .trap t
  | none => memWord s g (memReq o (.rmw op) false true) reqs [] true

def execVatomAdd (o : OpM) (s : State) : Host.Outcome State Fault Refusal := runWord s (.vatomAdd o) fun s g => atomWord s g o .add
def execVatomMin (o : OpM) (s : State) : Host.Outcome State Fault Refusal := runWord s (.vatomMin o) fun s g => atomWord s g o .min
def execVatomMax (o : OpM) (s : State) : Host.Outcome State Fault Refusal := runWord s (.vatomMax o) fun s g => atomWord s g o .max
def execVatomAnd (o : OpM) (s : State) : Host.Outcome State Fault Refusal := runWord s (.vatomAnd o) fun s g => atomWord s g o .and
def execVatomOr (o : OpM) (s : State) : Host.Outcome State Fault Refusal := runWord s (.vatomOr o) fun s g => atomWord s g o .or
def execVatomXor (o : OpM) (s : State) : Host.Outcome State Fault Refusal := runWord s (.vatomXor o) fun s g => atomWord s g o .xor
def execVatomXchg (o : OpM) (s : State) : Host.Outcome State Fault Refusal := runWord s (.vatomXchg o) fun s g => atomWord s g o .xchg
def execVatomCas (o : OpM) (s : State) : Host.Outcome State Fault Refusal := runWord s (.vatomCas o) fun s g => atomWord s g o .cas

/-- A reducing write: performed or staged where it reaches its location (R258). -/
def redWord (s : State) (g : Group) (o : OpM) (op : RmwOp) : WordRes :=
  let n := widBytes o.wid
  let act := g.active o.pred
  match g.dataTrap act o (regSpan n) with
  | some t => .trap t
  | none => memWord s g (memReq o (.red op) false true)
      ((lanesOf act).map fun l => { lane := l, va := g.laneAddr o l, size := n, data := g.laneBytes (g.rowOf o.d l) l n }) [] true

def execVredAdd (o : OpM) (s : State) : Host.Outcome State Fault Refusal := runWord s (.vredAdd o) fun s g => redWord s g o .add
def execVredMin (o : OpM) (s : State) : Host.Outcome State Fault Refusal := runWord s (.vredMin o) fun s g => redWord s g o .min
def execVredMax (o : OpM) (s : State) : Host.Outcome State Fault Refusal := runWord s (.vredMax o) fun s g => redWord s g o .max
def execVredAnd (o : OpM) (s : State) : Host.Outcome State Fault Refusal := runWord s (.vredAnd o) fun s g => redWord s g o .and
def execVredOr (o : OpM) (s : State) : Host.Outcome State Fault Refusal := runWord s (.vredOr o) fun s g => redWord s g o .or
def execVredXor (o : OpM) (s : State) : Host.Outcome State Fault Refusal := runWord s (.vredXor o) fun s g => redWord s g o .xor

end Sys2Proof.Machine
end

