-- ==== Sys2Proof/Machine/Pair.lean ====
section
/-! DEFINITION. The P-form word (R66 to R69, R130): both halves read before either writes, and a trap of either is
the word's, naming the half. -/
namespace Sys2Proof.Machine
open Sys2Proof.Fmt

/-- The special function and form of a P-form code (R69). -/
def halfFn (op : Nat) : Option (Func × Bool) :=
  match op with
  | 0x0A => some (.exp2, true) | 0x0B => some (.exp2, false) | 0x0C => some (.log2, true) | 0x0D => some (.log2, false)
  | 0x0E => some (.tanh, true) | 0x0F => some (.tanh, false) | 0x10 => some (.rcp, true) | 0x11 => some (.rcp, false)
  | 0x12 => some (.rsqrt, true) | 0x13 => some (.rsqrt, false) | 0x14 => some (.sinpi, true)
  | 0x15 => some (.sinpi, false) | 0x16 => some (.cospi, true) | 0x17 => some (.cospi, false)
  | _ => none

/-- The plan of one half: binary halves compute D op A, unary halves op(A), in `.rne` without saturation (R130).
R303 does not say whether the A field of a binary half is operand position 1 (its field) or 2 (the second operand of D op A): it is
reported as 2 (DESIGN CHOICE, log entry 103). -/
def halfPlan (g : Group) (act : Lane) (h : Half) : Plan :=
  let n := h.fmt.toNat
  let a : Src := .reg h.a h.ap
  let d : Src := .reg h.d 0
  let two : List Opnd := [{ pos := 0, code := h.d, ent := some n }, { pos := 2, code := h.a, perm := h.ap, ent := some n }]
  let one : List Opnd := [{ pos := 0, code := h.d, ent := some n }, { pos := 1, code := h.a, perm := h.ap, ent := some n }]
  let fbin (op : Entry → Nat → Nat → Val → Val → Res) : Plan := planBin g act n h.d d a two {} anyEntry op
  let fun1 (ok : Entry → Bool) (op : Entry → Nat → Nat → Val → Res) : Plan := planUn g act n h.d a one {} ok op
  let ibin (op : Lane → Lane → Lane) : Plan := planInt2 g act h.d h.d 0 h.a h.ap op
  let iun (op : Lane → Lane) : Plan := planInt1 g act h.d h.a h.ap op
  match h.op.toNat with
  | 0x00 => fbin (opAdd 0) | 0x01 => fbin (opSub 0) | 0x02 => fbin opMul
  | 0x03 => fbin (opMinMax g false d a) | 0x04 => fbin (opMinMax g true d a)
  | 0x05 => fun1 anyEntry opAbs | 0x06 => fun1 anyEntry opNeg | 0x07 => fun1 anyEntry opSqrt
  | 0x08 => planCvt g act n 0 h.d h.a h.ap {}
  | 0x09 => fun1 anyEntry (opRnd g a {})
  | 0x20 => ibin (laneAdd false) | 0x21 => ibin (laneSub false) | 0x22 => ibin laneMul | 0x23 => ibin laneMulh
  | 0x24 => ibin (· &&& ·) | 0x25 => ibin (· ||| ·) | 0x26 => ibin (· ^^^ ·) | 0x27 => iun (~~~ ·)
  | 0x28 => ibin laneShl | 0x29 => ibin laneShr | 0x2A => ibin laneSra | 0x2B => ibin laneMin | 0x2C => ibin laneMax
  | 0x2D => ibin laneMinu | 0x2E => ibin laneMaxu | 0x2F => iun (laneAbs false) | 0x30 => iun (laneNeg false)
  | 0x31 => iun lanePopc | 0x32 => iun laneClz | 0x33 => iun laneBrev | 0x34 => iun id
  | op => match halfFn op with
    | some (fn, quick) => fun1 floatUnscaled (opSpecial g fn quick a)
    | none => {}

/-- Where a trap stands in the check order of R104. -/
def TrapReq.stage (t : TrapReq) : Nat := if t.grp = 3 then 0 else t.code

/-- The trap of a pair word: the earlier check of R104, and the low half where both fail one (R67, R303). -/
def pairTrap (hi lo : Option TrapReq) : Option TrapReq :=
  match hi, lo with
  | none, none => none
  | some t, none => some (t.ofHalf true)
  | none, some t => some (t.ofHalf false)
  | some t, some u => if t.stage < u.stage then some (t.ofHalf true) else some (u.ofHalf false)

def execPair (hi lo : Half) (s : State) : Host.Outcome State Fault Refusal :=
  runWord s (.pair hi lo) fun s g =>
    let act := g.active 7
    let p := halfPlan g act hi
    let q := halfPlan g act lo
    Plan.run { trap := pairTrap p.trap q.trap, write := fun h => q.write (p.write h), regs := p.regs ++ q.regs } s g

end Sys2Proof.Machine
end

