-- ==== Sys2Proof/Machine/Replay.lean ====
section
/-! DEFINITION. Signature boundaries (R394), records that wait for room (R401), anchors (R400), and the states of a replay with
its breakpoint, its end and what it puts back from outside (R403 to R407). -/
namespace Sys2Proof.Machine

-- ## boundaries (R394, R417)

/-- The signature breakpoint at groups of a team (R417): each stops at its start count. -/
def State.sigBreak (s : State) (key : Nat) : State :=
  match s.team? key with
  | none => s
  | some t =>
    let vf := ((s.cluster? t.cluster).map (·.vf)).getD 0
    let hit : Bool := s.log vf == 1 && s.attached vf && ((s.partOf vf).map fun p => p.dbg.ctl.getLsbD 15 && wfield p.dbg.ctl 16 32 == t.sig.sign).getD false
    if hit then (s.teamGroups key).foldl (fun s g =>
      match g.wait with
      | .run | .bar _ =>
        if g.trap.entry.isSome then s
        else
          let (s1, g1) := s.withdraw g
          (s1.setGroup g1).takeTrap g1 { mkTrap 18 4 t.sig.sign with pc := g1.pc }
      | .fault _ _ | .debug _ | .stopped | .ended => s) s
    else s

/-- SIGNATURE_BOUNDARY: the signature of a team closes once every digest of it is known. -/
def execSignatureBoundary (team : Nat) (s : State) : Host.Outcome State Fault Refusal :=
  match s.team? team with
  | none => .next s
  | some t => if s.boundaryDue t ∧ s.settledSig team then .next ((s.closeSig team).sigBreak team) else .next s

/-- The first of the records that wait that fits, with what stays: none passes an older one of its collator (R399). -/
def Partition.nextPost (p : Partition) : List LogPost → List Nat → Option (LogPost × List LogPost)
  | [], _ => none
  | x :: r, behind =>
    if !behind.contains x.core ∧ p.fits x.words.length (usesReserve x.words) then some (x, r)
    else (p.nextPost r (x.core :: behind)).map fun (y, l) => (y, x :: l)

/-- LOG_STALL (R401): a record that waits is written once the ring has room; anchor, gap and colophon records may use the reserve. -/
def execLogStall (part : Nat) (s : State) : Host.Outcome State Fault Refusal :=
  let p := s.part part
  match (if 12 ≤ part then none else p.nextPost p.log.pending []) with
  | none => .next s
  | some (x, l) =>
    let p1 := { p with log := { p.log with pending := l } }
    .next ((s.setPart p1).ringWrite p1 x.words)

-- ## anchors (R400)

/-- An ANCHOR whose record has been written is done, and STATE is 2 (R400). -/
def State.endAnchor (s : State) (part n : Nat) : State :=
  let q := s.part part
  if q.log.anchorAt.any fun x => x.1 == n then s.setPart ({ q with stateCode := 2, log := { q.log with anchorWait := none } }.setCmd 0) else s

/-- An ANCHOR under way goes on: nothing is resident, no core copy is BUSY, every spine command is parked, every message is
acknowledged; then boundaries, spills, a new epoch, and the record, which may wait for room. -/
def State.finishAnchor (s : State) (part : Nat) : State :=
  let p := s.part part
  match p.log.anchorWait with
  | none => s
  | some n =>
    if p.log.anchors.any fun a => a.num == n then s.endAnchor part n else
    let vs := p.vfsOf 65535
    let mine := s.clusters.filter fun c => vs.contains c.vf
    let quiet : Bool := (mine.all fun c => c.residence == .saved || s.spillable c) && (s.copies.all fun c => !vs.contains c.vf)
      && ((s.spineCmds p).all fun c => c.prog.running.isEmpty) && (s.fabric.sent.all fun m => !vs.contains m.vf)
    let teams := (s.teams.filter fun t => mine.any fun c => c.key == t.cluster).map (·.key)
    if !quiet ∨ teams.any (fun k => !s.settledSig k) then s
    else
      let s1 := teams.foldl (fun s k => s.closeSig k) s
      let s2 := vs.foldl (fun s v => if (s.eventsAt (.spine v)).isEmpty then s else s.closeSpine v (s.launchName v)) s1
      let s3 := (mine.filter fun c => c.residence != .saved).foldl (fun s c => s.spillCluster c) s2
      ((s3.newEpoch part).writeAnchor part n).endAnchor part n

/-- ANCHOR: refused unless the partition records and the number exceeds the newest; else every VF halts. -/
def execAnchor (part n : Nat) (s : State) : Host.Outcome State Fault Refusal :=
  s.command part fun p =>
    if (p.mode.extractLsb' 2 2).toNat ≠ 1 ∨ n ≤ wfield p.log.rrstat 32 32 ∨ 2 ^ 32 ≤ n then s.answer part 2
    else if p.evf ≠ 0 then s.answer part 4
    else (((s.setPart ({ p with log := { p.log with anchorWait := some n } }.setCmd 1)).holdAll part 4)).finishAnchor part

/-- ANCHDONE: the anchor is confirmed. -/
def execAnchdone (part n : Nat) (s : State) : Host.Outcome State Fault Refusal :=
  s.command part fun _ => (s.confirm part n).answer part 0

-- ## the log as it lies in the ring

/-- The records between two values of QRHEAD, each with where it begins; pads are passed over. -/
def State.ringRecords (s : State) (p : Partition) : Nat → Nat → List (Nat × List Word)
  | 0, _ => []
  | fuel + 1, pos =>
    if p.log.qrhead.toNat ≤ pos then []
    else
      let a := p.ringBase + pos % p.ringSize
      let w0 := Memory.read64 s.mem a
      let n := wfield w0 32 16
      if n = 0 then []
      else
        let rest := s.ringRecords p fuel (pos + 8 * n)
        if wfield w0 56 8 = 0 then rest else (pos, (List.range n).map fun i => Memory.read64 s.mem (a + 8 * i)) :: rest

/-- Records from the newest confirmed anchor on. -/
def State.logRecords (s : State) (p : Partition) : List (Nat × List Word) :=
  let from0 := p.log.qrold.toNat
  s.ringRecords p ((p.log.qrhead.toNat - from0) / 8) from0

/-- The MAC of a record holds. -/
def recordOk (part : Nat) (r : List Word) : Bool :=
  let body := r.take (r.length - 1)
  nth 0 r (r.length - 1) == Config.mac part body

def State.setReplay (s : State) (part : Nat) (w : Word) : State :=
  let p := s.part part
  s.setPart { p with log := { p.log with rpstat := w } }

-- ## starting a replay (R403, R404)

/-- The refusal of REPLAY n, if any. -/
def State.replayRefused (s : State) (p : Partition) (n : Nat) : Option Nat :=
  if (p.mode.extractLsb' 2 2).toNat ≠ 2 ∨ p.log.rpstat.toNat % 256 ≠ 1 ∨ s.anyResident p then some 6
  else match (s.logRecords p).find? fun r => wfield (nth 0 r.2 0) 56 8 == 2 && wfield (nth 0 r.2 0) 0 32 == n with
    | none => some 2
    | some (_, r) =>
      let w := nth (0 : Word) r 1
      if !recordOk p.num r then some 4
      else if w.extractLsb' 40 24 ≠ Config.partStepping then some 3
      else if (w.extractLsb' 0 32 ^^^ p.mode) &&& 0xFFFFFF33 ≠ 0 then some 1
      else if nth 0 r 3 ≠ Config.graphDigest (s.graphWords p) then some 5
      else none

/-- REPLAY: accepted, or refused with RCODE. -/
def execReplay (part n : Nat) (s : State) : Host.Outcome State Fault Refusal :=
  s.command part fun p =>
    match s.replayRefused p n with
    | some c => (s.setReplay part ((p.log.rpstat &&& ~~~0xFF00) ||| BitVec.ofNat 64 (c * 256))).answer part 0
    | none => (s.setPart { p with log := { p.log with rpstat := rpstatNow p.log.rpstat 0 2, loading := some n } }).answer part 0

/-- Records up to the first gap or the first whose MAC fails, and the code of what ends them. -/
def readLog (part : Nat) : List (Nat × List Word) → List (List Word) × Nat
  | [] => ([], 0)
  | (_, r) :: l =>
    if !recordOk part r then ([], 10)
    else if wfield (nth 0 r 0) 56 8 = 5 then ([], 9)
    else let (rs, c) := readLog part l; (r :: rs, c)

/-- The events of the spine signatures of a log, each under its VF. -/
def spineEvents (log : List (List Word)) : List LogEvent :=
  (log.filter fun r => wfield (nth 0 r 0) 56 8 == 4).flatMap fun r =>
    let body := (r.drop 3).take (r.length - 4)
    (parseEvents body.length body [] []).map fun (e : LogEvent) => { e with grp := wfield (nth 0 r 1) 56 8, time := 0 }

/-- REPLAY_LOADED: the contexts of the anchor are restored from the save areas, and the log after it is to be met. -/
def execReplayLoaded (part : Nat) (s : State) : Host.Outcome State Fault Refusal :=
  let p := s.part part
  match p.log.loading, p.log.loading.bind fun n => p.log.anchors.find? fun a => a.num == n with
  | some n, some a =>
    if 12 ≤ part ∨ p.log.rpstat.toNat % 256 ≠ 2 then .next s
    else
      let isAnchor (r : Nat × List Word) : Bool := wfield (nth 0 r.2 0) 56 8 == 2 && wfield (nth 0 r.2 0) 0 32 == n
      let after := ((s.logRecords p).dropWhile fun r => !isAnchor r).drop 1
      let (log, stop) := readLog part after
      let s1 := (s.clusters.filter fun c => (p.vfsOf 65535).contains c.vf).foldl (fun s c => s.dropCluster c) (s.newEpoch part)
      let q := s1.part part
      let s2 : State := { s1.setPart { q with held := 0, log := { q.log with
          rpstat := rpstatNow p.log.rpstat 0 3, loading := none, replayLog := log, replayStop := stop, spine := spineEvents log, brkTaken := false, breaking := false, progressAt := s.ns } } with
        clusters := s1.clusters ++ a.clusters.map fun (c : Cluster) => { c with resumable := true, cause := 0 }
        teams := s1.teams ++ a.teams, groups := s1.groups ++ a.groups, bins := s1.bins ++ a.bins }
      let s3 := a.vfs.foldl (fun (s : State) (v : Vf) => s.setVf { s.vf v.num with slots := v.slots, queues := v.queues }) s2
      .next (a.teams.foldl (fun s t => s.openSig t.key t.sig.sign) s3)
  | _, _ => .next s

/-- ABORT: every cluster of the partition is discarded, and the replay is ARMED again. -/
def execAbort (part : Nat) (s : State) : Host.Outcome State Fault Refusal :=
  s.command part fun p =>
    if (p.mode.extractLsb' 2 2).toNat ≠ 2 then s.answer part 0
    else
      let vs := p.vfsOf 65535
      let s1 := s.discardWhere (fun c => vs.contains c.vf) 34
      let q := s1.part part
      (s1.setPart { q with log := { q.log with rpstat := rpstatNow q.log.rpstat 0 1, loading := none, replayLog := [], replayStop := 0, spine := [] } }).answer part 0

-- ## the breakpoint, and the end (R404, R406)

/-- A team is at the signature that the breakpoint names. -/
def State.breakTeam (s : State) (p : Partition) (t : Team) : Bool :=
  let b0 := nth (0 : Word) p.log.rpbrk 0
  p.log.rpstat.toNat % 256 == 3 && !p.log.brkTaken && b0.getLsbD 63 && t.num == wfield b0 48 4
    && t.sig.sign == wfield (nth 0 p.log.rpbrk 2) 0 32
    && (match s.cluster? t.cluster with
        | some c => (p.slotOf c.vf).isSome && c.clustid == wfield b0 0 48 && BitVec.ofNat 64 c.gridid == nth 0 p.log.rpbrk 1
        | none => false)

/-- The group stands at its start count of its team's open signature. -/
def Group.atStart (g : Group) (t : Team) : Bool := (t.sig.starts.find? fun e => e.1 == g.id.tidx).any fun e => e.2 == g.ltime

/-- A team has come to the breakpoint: every group stands at its start count, and nothing that it issued is still to perform. -/
def State.atBreak (s : State) (p : Partition) (t : Team) : Bool :=
  s.breakTeam p t && (s.teamGroups t.key).all fun g => g.wait == .ended || g.drained && g.atStart t

/-- REPLAY_BREAKPOINT: the partition halts in place, and with its last cluster halted the replay is in BREAK. -/
def execReplayBreakpoint (part : Nat) (s : State) : Host.Outcome State Fault Refusal :=
  let p := s.part part
  let vs := p.vfsOf 65535
  if 12 ≤ part ∨ p.log.rpstat.toNat % 256 ≠ 3 then .next s
  else if p.log.brkTaken ∧ p.log.breaking then
    (if s.clusters.any fun c => vs.contains c.vf && c.residence == .resident then .next s
     else .next (s.setPart { p with log := { p.log with rpstat := rpstatNow p.log.rpstat 0 4, breaking := false } }))
  else match s.teams.find? fun t => s.atBreak p t with
    | none => .next s
    | some t =>
      .next ((s.setPart { p with log := { p.log with rpstat := rpstatSign p.log.rpstat t.sig.sign, brkTaken := true, breaking := true } }).haltWhere
        (fun c => vs.contains c.vf) 1 false)

/-- The group stands where the log of its team ends: it has no signature open in the log, or it is the last one and its pre-emption,
or the boundary at its end, has been reached. -/
def State.atLogEnd (s : State) (t : Team) (g : Group) : Bool :=
  s.log g.id.vf == 2 && (s.loggedSig t (t.sig.sign + 1)).isNone && ((s.loggedSig t t.sig.sign).isNone || t.sig.mark
    || t.sig.events.any fun e => e.code == 8 && e.grp == g.id.tidx && sameTime e.time g.ltime)

/-- A divergence of a group is fatal at once, whatever it waits for (R405). -/
def State.divergeGroup (s : State) (g : Group) (code kind : Nat) (ltime : Word) : State :=
  (s.diverged g code).fatal g.id.vf g.id.cluster (divergence code kind ltime)

/-- END_OF_LOG: the last record has been replayed; every cluster halts. A log that a gap or a failed MAC cuts short diverges there
instead, the latter with the tamper alarm (R405, R430). -/
def execEndOfLog (part : Nat) (s : State) : Host.Outcome State Fault Refusal :=
  let p := s.part part
  let vs := p.vfsOf 65535
  let above (g : Group) : Bool := !vs.contains g.id.vf || (match g.wait with
    | .ended | .bar _ | .stopped | .debug _ => true
    | .run | .fault _ _ => ((s.team? g.id.team).map fun t => s.atLogEnd t g).getD true)
  if 12 ≤ part ∨ p.log.rpstat.toNat % 256 ≠ 3 ∨ !s.groups.all above ∨ p.log.spine.any (fun e => e.code != 0x24) then .next s
  else if p.log.replayStop ≠ 0 then
    let s1 := s.divergePart part p.log.replayStop (if p.log.replayStop = 9 then 8 else 0) 0
    .next (if p.log.replayStop = 10 then s1.tamper 3 part else s1)
  else .next ((s.setReplay part (rpstatNow p.log.rpstat 0 6)).haltWhere (fun c => vs.contains c.vf) 1 false)

/-- 10 ms, in ns (R405). -/
def replayLimit : Nat := 10000000

/-- Some thread of a team has been filed for 10 ms. -/
def State.filedLong (s : State) (team : Nat) : Bool :=
  s.bins.any fun b => b.team == team && b.threads.any fun f => f.time + replayLimit / 1000 * s.device.mhz ≤ s.clock

/-- RFM_TIMEOUT (R405): the threads of a logged draw of a group's team are not all filed within 10 ms of the first, or the partition has
made no progress for as long. -/
def execRfmTimeout (key : Nat) (s : State) : Host.Outcome State Fault Refusal :=
  match s.group? key with
  | none => .next s
  | some g => match s.team? g.id.team, s.partOf g.id.vf with
    | some t, some p =>
      let stuck : Bool := t.sig.events.any fun e => e.code == 5 && !s.bins.any fun b => b.team == t.key && matchesRfm b e
      if s.log g.id.vf = 2 ∧ stuck ∧ (s.filedLong t.key ∨ p.log.progressAt + replayLimit ≤ s.ns) then .next (s.divergeGroup g 7 5 g.ltime) else .next s
    | _, _ => .next s

-- ## what a replay puts back from outside (R388, R404)

/-- The next write from outside of a VF's log performs when the line has reached its SEQ; a containment event takes place when
nothing logged before it is left. A write whose target is not writable diverges. -/
def State.putBack (s : State) (p : Partition) (vf : Nat) : Option State :=
  match s.eventsAt (.spine vf) with
  | [] => none
  | first :: _ =>
    if first.code = 0x24 then some ((s.meetEvent (.spine vf) first).contain p.num (nth (0 : Word) first.more 0).toNat 0 0)
    else match (s.eventsAt (.spine vf)).find? fun e => e.code == 0x22 || e.code == 0x23 with
      | none => none
      | some e =>
        let pa := (nth (0 : Word) e.more 0).toNat
        if rangeOf pa ≠ some 0 then some ((s.meetEvent (.spine vf) e).divergePart p.num 11 7 (s.spineSig vf))
        else s.putBackLine vf (pa / lineBytes)

/-- A group of the partition can still go on of itself: what an access waits for is put back at that access (R413). -/
def State.stillRuns (s : State) (p : Partition) : Bool :=
  s.groups.any fun g => (p.slotOf g.id.vf).isSome && ((g.wait == .run && g.ops.isEmpty) || g.trap.entry.isSome)

/-- What the log of a partition that replays puts back now, once none of its groups goes on of itself. -/
def State.putBackAny (s : State) : Option State :=
  s.parts.findSome? fun p => if p.log.rpstat.toNat % 256 = 3 ∧ !s.stillRuns p then (p.vfsOf 65535).findSome? fun v => s.putBack p v else none

end Sys2Proof.Machine
end

