-- ==== Sys2Proof/Machine/Security.lean ====
section
/-! DEFINITION. Sampling (R421 to R423), the sensors and requests of the security controller (R430, R431), bring-up (R433), power and
cooling (R434). -/
namespace Sys2Proof.Machine

-- ## sampling (R422, R423)

/-- What a running group waits for in a clock is timing: one of these reasons of R422, freely. -/
def openReasons : List Nat := [0, 1, 2, 3, 4, 5, 6, 8, 9, 10, 12, 13, 15]

/-- The reason code of a group (R422). -/
def State.reasonOf (s : State) (g : Group) : Nat × State :=
  let still : Bool := ((s.cluster? g.id.cluster).map fun c => c.halting || c.residence != .resident).getD false
  match g.wait with
  | .debug _ | .stopped => (14, s)
  | .fault _ _ => (11, s)
  | .bar _ => (7, s)
  | .run | .ended =>
    if still then (14, s)
    else if s.cur = .group g.id.key then (0, s)
    else
      let (k, s1) := s.free
      (nth 13 openReasons (k % 13), s1)

/-- Event 3 of the counters counts the samples of one reason (R426). -/
def State.countReason (s : State) (vf reason : Nat) : State :=
  let v := s.vf vf
  s.setVf { v with cnt := List.zipWith (fun c x => if c.toNat % 256 = 3 ∧ wfield c 8 4 = reason then x + 1 else x) v.csel v.cnt }

/-- A sampler that has taken nothing. -/
def Sampler.idle : Sampler := { slot := 15, time := 0 }

/-- The place of a group as word 0 of R423 gives it. -/
def samplePlace (g : Group) : Nat := g.id.core * 2 ^ 48 + g.id.quad * 2 ^ 46 + g.id.slot * 2 ^ 42

/-- PC_SAMPLE (R422): once in each period of 2^PK clk a quadrant samples its next resident group, round-robin by slot. -/
def execPcSample (core quad : Nat) (s : State) : Host.Outcome State Fault Refusal :=
  match s.parts.find? fun p => coreBit p.force.pcore core with
  | none => .next s
  | some p =>
    let k := wfield p.force.smpctl 0 5
    let key := core * 4 + quad
    let x := Sparse.get Sampler.idle s.samplers key
    if k = 0 ∨ 4 ≤ quad ∨ s.clock / 2 ^ k = x.time / 2 ^ k then .next s
    else
      let here := s.groups.filter fun g => g.id.core == core && g.id.quad == quad && (p.slotOf g.id.vf).isSome
        && !s.isOut g
      let pick := (List.range 16).findSome? fun i => here.find? fun g => g.id.slot == (x.slot + 1 + i) % 16
      match pick with
      | none => .next { s with samplers := Sparse.set Sampler.idle s.samplers key { x with time := s.clock } }
      | some g =>
        let (r, s1) := { s with samplers := Sparse.set Sampler.idle s.samplers key { slot := g.id.slot, time := s.clock } }.reasonOf g
        .next ((s1.countReason g.id.vf r).tracePacket g.id.vf 0x11
          [g.pc, BitVec.ofNat 64 (((s.cluster? g.id.cluster).map (·.clustid)).getD 0), BitVec.ofNat 64 r, BitVec.ofNat 64 (samplePlace g)])

/-- A time of a queue, of which nothing is known. -/
def State.freeTime (s : State) : Nat × State := let (k, s1) := s.free; (k % 65536, s1)

/-- The report of a sampled memory instruction (R423, R424). -/
def State.reportSample (s : State) (x : Sample) : State :=
  let (a, s1) := s.freeTime
  let (b, s2) := s1.freeTime
  let (c, s3) := s2.freeTime
  let (d, s4) := s3.freeTime
  let (e, s5) := s4.freeTime
  s5.tracePacket x.vf 0x12 [x.pc, BitVec.ofNat 64 (x.mask.toNat * 2 ^ 32 + x.sectors % 65536 * 2 ^ 16 + x.replays % 256 * 2 ^ 8 + x.lane),
    BitVec.ofNat 64 (a * 2 ^ 48 + b * 2 ^ 32 + c * 2 ^ 16 + d), BitVec.ofNat 64 (e * 2 ^ 48 + (s.clock - x.issued) % 2 ^ 48)]

/-- Sampled instructions with no access left pending report; those of groups that are gone never do. -/
def State.settleSamples (s : State) : State :=
  let busy (x : Sample) : Bool := ((s.group? x.key).map fun g => g.ops.any fun o => o.ltime == x.ltime).getD false
  let due := s.samples.filter fun x => !busy x && (s.group? x.key).isSome
  due.foldl State.reportSample { s with samples := s.samples.filter busy }

-- ## the security controller (R430, R431)

/-- The package has halted (R430), or power is off. -/
def State.halted (s : State) : Bool := decide (3 ≤ s.device.level)

/-- GLITCH_SENSOR: a level-3 alarm. -/
def execGlitchSensor (s : State) : Host.Outcome State Fault Refusal := .next (s.tamper 4 s.device.lastPart)

/-- FUSE_SENSE_CHECK: a fuse fails its sense check, a level-3 alarm. -/
def execFuseSenseCheck (s : State) : Host.Outcome State Fault Refusal := .next (s.tamper 6 s.device.lastPart)

/-- The responder answers over the Wiuno link with a response code and a payload. -/
def State.respond (s : State) (phase response : Nat) (payload : List Byte) : State :=
  { s with device := { s.device with spdm := { phase, response, payload } } }

/-- An ERROR response (PRESUMED codes of SPDM, log entry 7). -/
def State.spdmError (s : State) (code : Nat) : State := s.respond s.device.spdm.phase 0x7F (leBytes 1 code ++ leBytes 1 0)

/-- Payload bytes of a response, of which the spec gives none. -/
def attest (request arg n : Nat) : List Byte := (List.range n).map fun i => Config.attestByte request arg i

/-- A request: after level 3 every one receives ERROR with code Unspecified (R431); one that comes before the negotiation it
needs is unexpected. -/
def State.request (s : State) (need : Nat) (k : State) : Host.Outcome State Fault Refusal :=
  if !s.linkUp then .next s
  else if s.halted then .next (s.spdmError 5)
  else if s.device.spdm.phase < need then .next (s.spdmError 4)
  else .next k

def execGetVersion (s : State) : Host.Outcome State Fault Refusal := s.request 0 (s.respond 1 0x04 (attest 0x84 0 4))
def execGetCapabilities (s : State) : Host.Outcome State Fault Refusal := s.request 1 (s.respond (max 2 s.device.spdm.phase) 0x61 (attest 0xE1 0 16))

/-- NEGOTIATE_ALGORITHMS: ECDSA with P-384 and SHA-384 only (R431). -/
def execNegotiateAlgorithms (asym hash : Nat) (s : State) : Host.Outcome State Fault Refusal :=
  s.request 2 (if asym.testBit 7 ∧ hash.testBit 1 then s.respond 3 0x63 (attest 0xE3 0 32) else s.spdmError 1)

def execGetDigests (s : State) : Host.Outcome State Fault Refusal := s.request 3 (s.respond 3 0x01 (attest 0x81 0 48))

/-- GET_CERTIFICATE and CHALLENGE: there is one certificate slot, 0 (R431). -/
def execGetCertificate (certSlot : Nat) (s : State) : Host.Outcome State Fault Refusal :=
  s.request 3 (if certSlot = 0 then s.respond 3 0x02 (attest 0x82 0 1024) else s.spdmError 1)
def execChallenge (certSlot : Nat) (nonce : Nat) (s : State) : Host.Outcome State Fault Refusal :=
  s.request 3 (if certSlot = 0 then s.respond 3 0x03 (attest 0x83 nonce 192) else s.spdmError 1)

/-- GET_MEASUREMENTS: blocks 1 to 4, all of them, or their number; block 4 is the tamper-alarm state (R431). -/
def execGetMeasurements (index : Nat) (s : State) : Host.Outcome State Fault Refusal :=
  let alarms : List Byte := leBytes 4 s.device.alarms.toNat ++ leBytes 1 s.device.sources.toNat ++ leBytes 1 s.device.lastPart ++ leBytes 1 s.device.level
  s.request 3 (
    if index = 0 then s.respond 3 0x60 [4]
    else if index ≤ 3 then s.respond 3 0x60 (attest 0xE0 index 48)
    else if index = 4 then s.respond 3 0x60 alarms
    else if index = 255 then s.respond 3 0x60 (((List.range 3).flatMap fun i => attest 0xE0 (i + 1) 48) ++ alarms)
    else s.spdmError 1)

-- ## bring-up (R433)

/-- A new command ends the error 0x40 of a refused FABRST. -/
def State.newCommand (s : State) : State := { s with device := { s.device with err := if s.device.err = 0x40 then 0 else s.device.err } }

/-- POWER_GOOD: step 1 begins. -/
def execPowerGood (s : State) : Host.Outcome State Fault Refusal :=
  if s.device.step ≠ 0 then .next s else .next { s with device := { s.device with step := 1, off := false } }

/-- LOAD: the signature of the image is checked; the firmware starts, or bring-up stops at step 3. -/
def execLoad (value : BitVec 64) (s0 : State) : Host.Outcome State Fault Refusal :=
  let s := s0.newCommand
  let a := value &&& ~~~0xFFF
  if s.device.step ≠ 3 ∨ s.device.err ≠ 0 then .next s
  else if Config.imageAccepted a then .next { s with device := { s.device with step := 4, loadImg := some a } }
  else .next { s with device := { s.device with err := 1 + (Config.bringUpError 3).toNat % 255 } }

/-- What a step has done when it ends. -/
def State.stepEnds (s : State) : State :=
  let d := s.device
  match d.step with
  | 1 => { s with wiuno := { s.wiuno with up := true }, device := { d with step := 2 } }
  | 2 => { s with device := { d with step := 3, keys := true } }
  | 4 => { s with mem := s.mem.filter fun c => 0x8000000000 ≤ c.1, device := { d with step := 5 } }
  | 5 => { s with links := List.replicate 4 DieLink.reset, device := { d with step := 6 } }
  | 6 => { s with fabric := { s.fabric with portsUp := List.replicate 128 true }, device := { d with step := 7 } }
  | _ => s

/-- BRING_UP_STEP_DONE: a timed step ends, or stops with its error code; step 3 ends with LOAD. -/
def execBringUpStepDone (error : Nat) (s : State) : Host.Outcome State Fault Refusal :=
  let d := s.device
  if d.err ≠ 0 ∨ d.step = 0 ∨ d.step = 3 ∨ 7 ≤ d.step then .next s
  else if error % 256 ≠ 0 then .next { s with device := { d with err := error % 256 } }
  else .next s.stepEnds

/-- No message is in flight and no enabled mailbox holds an entry. -/
def State.fabricQuiet (s : State) : Bool :=
  s.fabric.sent.isEmpty && s.fabric.held.isEmpty && s.vfs.all fun v => v.mboxes.all fun (_, b) => !b.v || b.count == 0

/-- FABRST: every stream number becomes 0, or the command is refused with error 0x40. -/
def execFabrst (s0 : State) : Host.Outcome State Fault Refusal :=
  let s := s0.newCommand
  if s.fabricQuiet then .next { s with fabric := { s.fabric with seqOut := [], seqIn := [] } }
  else .next { s with device := { s.device with err := 0x40 } }

/-- DBGKEY: the device-debug unlock; its fourth failure within a second raises level 3. -/
def execDbgkey (value : BitVec 64) (s0 : State) : Host.Outcome State Fault Refusal :=
  let s := s0.newCommand
  if value.extractLsb' 8 56 = Config.fusedToken then .next { s with device := { s.device with dbgUnlocked := true } }
  else
    let l := lately s.device.dbgFails s.ns
    let s1 := { s with device := { s.device with dbgFails := l } }
    .next (if 4 ≤ l.length then s1.tamper 5 s.device.lastPart else s1)

/-- POWER_OFF: keys and state are lost. The running number of free values and what is still to happen are the model's own. -/
def State.powerOff (s : State) : State :=
  { State.reset with fresh := s.fresh, agenda := s.agenda, device := { State.reset.device with off := true } }
def execPowerOff (s : State) : Host.Outcome State Fault Refusal := .next s.powerOff

-- ## power and cooling (R434)

/-- The package power limit in mW: the highest PWR of the non-empty partitions, capped by PWRCAP. -/
def State.powerLimit (s : State) : Nat :=
  let modes := (s.parts.filter fun p => p.stateCode != 0).map fun p => wfield (p.mode.setWidth 64) 6 2
  let m := min (modes.foldl max 0) (wfield s.device.pwrcap 0 2)
  if m = 0 then 1800000 else if m = 1 then 2400000 else 2800000

/-- The clock is lowered by a step of 25 MHz. -/
def State.slower (s : State) : State := { s with device := { s.device with mhz := max 25 (s.device.mhz - 25) } }

/-- POWER_WINDOW: the mean power of a window above the limit lowers the clock; below it, whether the clock rises a step is free. -/
def execPowerWindow (milliwatts : Nat) (s : State) : Host.Outcome State Fault Refusal :=
  if s.powerLimit < milliwatts then .next s.slower
  else
    let (k, s1) := s.free
    .next (if k % 2 = 0 then s1 else { s1 with device := { s1.device with mhz := min 1500 (s1.device.mhz + 25) } })

/-- THERMAL_SENSOR: at 95 °C the clock is lowered; at 110 °C every partition takes the containment event and power goes off. -/
def execThermalSensor (celsius : Nat) (s : State) : Host.Outcome State Fault Refusal :=
  if 110 ≤ celsius then .next ((s.containAll 0 5).powerOff)
  else if 95 ≤ celsius then .next s.slower
  else .next s

end Sys2Proof.Machine
end

