-- ==== Sys2Proof/Machine/Windows.lean ====
section
/-! DEFINITION. The register windows: those of the VFs (R159, R312, R326, R375, R377, R385, R426, R428), of the partitions (R321 to
R325, R398, R403, R415, R421, R425) and the device block (R432): reads, writes, and the event of a register write. -/
namespace Sys2Proof.Machine

/-- The windows of the device-register range (R195). -/
inductive Window where
  | device
  | part (p : Nat)
  | vf (n : Nat)
  deriving DecidableEq, Repr

/-- The window and the offset of an address, if a register can lie there. -/
def windowAt (pa : Nat) : Option (Window × Nat) :=
  let o := pa % 0x10000
  let k := pa / 0x10000
  if 0x1000 ≤ o then none
  else if k = 0xF00000000 then some (.device, o)
  else if 0xF00010000 ≤ k ∧ k < 0xF00010000 + 12 then some (.part (k - 0xF00010000), o)
  else if 0xF00020000 ≤ k ∧ k < 0xF00020000 + 192 then some (.vf (k - 0xF00020000), o)
  else none

-- ## reads

/-- PSTAT (R323). -/
def Partition.pstat (p : Partition) : Word :=
  BitVec.ofNat 64 (p.hlt.toNat * 2 ^ 48 + p.evf.toNat * 2 ^ 32 + p.qfcnt % 256 * 2 ^ 24 + p.rbusy.toNat * 2 ^ 17 + p.ps2pend.isSome.toNat * 2 ^ 16
    + p.stateCode % 256 * 2 ^ 8 + p.cmdst % 256)

/-- PDIRTY (R321); a CAP whose KiB exceed the field reads as a free value. -/
def State.pdirty (s : State) (p : Partition) : Word × State :=
  let cap := capOf (s.notice p) / 1024
  let (k, s1) := if cap < 2 ^ 32 then (cap, s) else s.free
  (BitVec.ofNat 64 (k % 2 ^ 32 * 2 ^ 32 + s.partDirty p / 1024 % 2 ^ 32), s1)

/-- The debug registers while unlocked (R415). -/
def State.debugRead (s : State) (p : Partition) (off : Nat) : Word × State :=
  let d := p.dbg
  match off with
  | 0x410 => (d.ctl ||| 1, s)
  | 0x418 => (d.ring.base, s)
  | 0x420 => (d.ring.head, s)
  | 0x428 => (d.ring.tail, s)
  | 0x438 => (d.sel, s)
  | 0x440 => match s.stoppedGroup p (wfield d.sel 32 32) with
    | some g => s.debugItem g (wfield d.sel 0 24)
    | none => (0, s)
  | 0x448 => (nth 0 d.ibp 0, s)
  | 0x450 => (nth 0 d.ibp 1, s)
  | 0x458 => (nth 0 d.wplo 0, s)
  | 0x460 => (nth 0 d.wphi 0, s)
  | 0x468 => (nth 0 d.wplo 1, s)
  | 0x470 => (nth 0 d.wphi 1, s)
  | 0x478 => (d.flt, s)
  | _ => (0, s)

/-- A register of a VF block (R325). -/
def Staged.vfReg (r : Staged) (slot k : Nat) : Word :=
  nth 0 (match k with | 0 => r.vfid | 1 => r.vfrate | 2 => r.vfsave | _ => r.vfsoft) slot

/-- A read of a partition window; staged registers read as in force (R321, R322). -/
def State.partRead (s : State) (n off : Nat) : Word × State :=
  let p := s.part n
  let r := p.force
  match off with
  | 0x000 => (p.mode.setWidth 64, s)
  | 0x010 => (p.pstat, s)
  | 0x020 | 0x028 | 0x030 | 0x038 => (nth 0 r.pcore ((off - 0x020) / 8), s)
  | 0x040 | 0x048 | 0x050 | 0x058 => (nth 0 r.pres ((off - 0x040) / 8), s)
  | 0x060 => (r.pquota, s)
  | 0x068 => (r.pway, s)
  | 0x070 => (r.pwt, s)
  | 0x078 => (r.pnotice, s)
  | 0x080 => (p.ps2root, s)
  | 0x090 => (r.pstage, s)
  | 0x098 => s.pdirty p
  | 0x0A0 => (p.pdlrep, s)
  | 0x0B0 => (BitVec.ofNat 64 s.ns, s)
  | 0x0C0 => (p.host.base, s)
  | 0x0C8 => (p.host.head, s)
  | 0x0D0 => (p.host.tail, s)
  | 0x300 => (r.qrbase, s)
  | 0x308 => (r.qrcfg, s)
  | 0x310 => (p.log.qrhead, s)
  | 0x318 => (p.log.qrold, s)
  | 0x328 => (p.log.rpctl, s)
  | 0x330 | 0x338 | 0x340 => (nth 0 p.log.rpbrk ((off - 0x330) / 8), s)
  | 0x348 => (p.log.rpstat, s)
  | 0x350 => (p.log.rrstat, s)
  | 0x380 => (r.ewt0, s)
  | 0x388 => (r.ewt1, s)
  | 0x390 => (r.ewt2, s)
  | 0x500 => (r.smpctl, s)
  | 0x508 => (p.trbase, s)
  | 0x510 => (p.trhead, s)
  | 0x520 => (p.cecnt, s)
  | _ =>
    if 0x100 ≤ off ∧ off < 0x300 ∧ off % 8 = 0 then (r.vfReg ((off - 0x100) / 0x20) (off % 0x20 / 8), s)
    else if 0x410 ≤ off ∧ off ≤ 0x478 ∧ p.dbg.unl then s.debugRead p off
    else (0, s)

/-- GSTAT (R166). -/
def State.gstatOf (s : State) (n : Nat) : Word :=
  let w := (s.vf n).gstat
  let k := w.toNat % 64
  let x := s.slot? n k
  BitVec.ofNat 64 ((x.map (·.done)).getD 0 % 2 ^ 32 * 2 ^ 32 + wfield w 24 8 * 2 ^ 24 + ((x.map fun y => y.queue.length).getD 0) % 256 * 2 ^ 16 + k)

/-- FMBCFG and FMBSTAT (R375). -/
def FabMbox.cfg (b : FabMbox) : Word := b.base ||| BitVec.ofNat 64 (b.leaf % 4 * 2 ^ 13 + b.err.toNat * 2 + b.v.toNat)
def FabMbox.stat (b : FabMbox) : Word := BitVec.ofNat 64 (b.arr.toNat * 2 ^ 32 + b.head % 256 * 2 ^ 16 + b.count % 512)

/-- A read of a VF window (R159, R326). -/
def State.vfRead (s : State) (n off : Nat) : Word × State :=
  let v := s.vf n
  match off with
  | 0x010 => (s.gstatOf n, s)
  | 0x018 => (v.stvec, s)
  | 0x020 => (v.ring.base, s)
  | 0x028 => (v.ring.head, s)
  | 0x030 => (v.ring.tail, s)
  | 0x600 => (v.fnack, s)
  | 0x608 => (v.frcopy, s)
  | 0x610 => (v.ebase, s)
  | _ =>
    if off % 8 ≠ 0 then (0, s)
    else if 0x100 ≤ off ∧ off < 0x200 then
      match s.partOf n with
      | none => (0, s)
      | some p =>
        if off ≤ 0x1B0 then s.partRead p.num (off - 0x100)
        else if 0x1C0 ≤ off ∧ off < 0x1E0 then (p.force.vfReg ((p.slotOf n).getD 0) ((off - 0x1C0) / 8), s)
        else (0, s)
    else if 0x200 ≤ off ∧ off < 0x400 then ((s.mbox n ((off - 0x200) / 8)).cfg, s)
    else if 0x400 ≤ off ∧ off < 0x600 then ((s.mbox n ((off - 0x400) / 8)).stat, s)
    else if 0x700 ≤ off ∧ off < 0x740 then (nth 0 v.cnt ((off - 0x700) / 8), s)
    else if 0x740 ≤ off ∧ off < 0x780 then (nth 0 v.csel ((off - 0x740) / 8), s)
    else (0, s)

/-- A read of the device block (R432). -/
def State.deviceRead (s : State) (off : Nat) : Word :=
  let d := s.device
  match off with
  | 0x008 => BitVec.ofNat 64 (d.err % 256 * 2 ^ 8 + d.step % 256)
  | 0x010 => d.pwrcap
  | 0x018 => BitVec.ofNat 64 (d.alarms.toNat * 2 ^ 32 + d.sources.toNat * 2 ^ 24 + d.lastPart % 16 * 2 ^ 20 + d.level % 4)
  | 0x020 => d.trsel
  | 0x028 => d.devcfg
  | _ => if 0x400 ≤ off ∧ off % 8 = 0 then Sparse.get 0 s.fabric.routes ((off - 0x400) / 8) else 0

/-- A read by a group of a VF: its own window; every other address of the range reads 0 (R159, R195, R371). -/
def State.groupRead (s : State) (vf pa n : Nat) : Word × State :=
  if n ≠ 8 ∨ pa % 8 ≠ 0 then (0, s)
  else match windowAt pa with
    | some (.vf k, off) => if k = vf then s.vfRead k off else (0, s)
    | some (.part _, _) | some (.device, _) | none => (0, s)

/-- A read by the companion processor of any window. -/
def State.companionRead (s : State) (pa : Nat) : Word × State :=
  if pa % 8 ≠ 0 then (0, s)
  else match windowAt pa with
    | some (.vf k, off) => s.vfRead k off
    | some (.part p, off) => s.partRead p off
    | some (.device, off) => (s.deviceRead off, s)
    | none => (0, s)

-- ## writes

/-- Changes a partition's staged registers. -/
def State.setStaged (s : State) (n : Nat) (f : Staged → Staged) : State :=
  let p := s.part n
  s.setPart { p with stagedRegs := f p.stagedRegs }

/-- SMPCTL as stored (R421). -/
def smpctlStored (w : Word) : Word :=
  let pk := w.toNat % 32
  (w &&& 0xFFFF000000000000) ||| (if 8 ≤ pk ∧ pk ≤ 20 then BitVec.ofNat 64 pk else 0)

/-- A write of a staged register; none at an offset of no staged register. -/
def stagedWrite (off : Nat) (w : Word) : Option (Staged → Staged) :=
  match off with
  | 0x020 | 0x028 | 0x030 | 0x038 => some fun r => { r with pcore := putNth r.pcore ((off - 0x020) / 8) w }
  | 0x040 | 0x048 | 0x050 | 0x058 => some fun r => { r with pres := putNth r.pres ((off - 0x040) / 8) w }
  | 0x060 => some fun r => { r with pquota := w &&& ~~~0x3FFFFF }
  | 0x068 => some fun r => { r with pway := w &&& 0xFFFF }
  | 0x070 => some fun r => { r with pwt := w &&& 0xFF }
  | 0x078 => some fun r => { r with pnotice := w &&& 0xFFFFFFFF }
  | 0x090 => some fun r => { r with pstage := w }
  | 0x300 => some fun r => { r with qrbase := w &&& ~~~0x3FFFFF80 }
  | 0x308 => some fun r => { r with qrcfg := w &&& 0x1F03 }
  | 0x380 => some fun r => { r with ewt0 := w }
  | 0x388 => some fun r => { r with ewt1 := w }
  | 0x390 => some fun r => { r with ewt2 := w &&& 0xFFFFFFFFFFFF }
  | 0x500 => some fun r => { r with smpctl := smpctlStored w }
  | _ =>
    if 0x100 ≤ off ∧ off < 0x300 ∧ off % 8 = 0 then
      let i := (off - 0x100) / 0x20
      match off % 0x20 / 8 with
      | 0 => some fun r => { r with vfid := putNth r.vfid i (w &&& 0x80000000000000FF) }
      | 1 => some fun r => { r with vfrate := putNth r.vfrate i w }
      | 2 => some fun r => { r with vfsave := putNth r.vfsave i w }
      | _ => some fun r => { r with vfsoft := putNth r.vfsoft i (w &&& 0x007FFFFF00000FFF) }
    else none

/-- A ring's base register as stored, and whether what it names lies within HBM; records of `size` bytes (R312, R321). -/
def ringBaseStored (w : Word) : Word := w &&& 0xFFFFFFFFFFFFF01F
def ringInHbm (w : Word) (size : Nat) : Bool :=
  let n := wfield w 0 5
  inHbm (w.toNat / 4096 * 4096) (if 4 ≤ n ∧ n ≤ 20 then size * 2 ^ n else 4096)

/-- A write of a debug register while unlocked (R415, R416, R419). -/
def State.debugWrite (s : State) (n off : Nat) (w : Word) : Host.Outcome State Fault Refusal :=
  let p := s.part n
  let d := p.dbg
  let put (d : DebugRegs) : State := s.setPart { p with dbg := d }
  match off with
  | 0x410 =>
    let s1 := put { d with ctl := w &&& 0xFFFFFFFFFFFF8000 }
    .next (s1.detach (s1.part n) (wfield d.ctl 48 16 &&& (65535 - wfield w 48 16)))
  | 0x418 => .next (if ringInHbm w 32 then put { d with ring := { d.ring with base := ringBaseStored w } } else s)
  | 0x428 => .next (put { d with ring := { d.ring with tail := w } })
  | 0x430 => Sys2Proof.Machine.execDbgres n w s
  | 0x438 => .next (put { d with sel := w &&& 0xFFFFFFFF00FFFFFF })
  | 0x440 => Sys2Proof.Machine.execDbgdatWrite n w s
  | 0x448 => .next ((put { d with ibp := putNth d.ibp 0 (w &&& ~~~6) }).loadComparators n)
  | 0x450 => .next ((put { d with ibp := putNth d.ibp 1 (w &&& ~~~6) }).loadComparators n)
  | 0x458 => .next ((put { d with wplo := putNth d.wplo 0 w }).loadComparators n)
  | 0x460 => .next ((put { d with wphi := putNth d.wphi 0 (w &&& ~~~6) }).loadComparators n)
  | 0x468 => .next ((put { d with wplo := putNth d.wplo 1 w }).loadComparators n)
  | 0x470 => .next ((put { d with wphi := putNth d.wphi 1 (w &&& ~~~6) }).loadComparators n)
  | 0x478 => .next (put { d with flt := w &&& 0x80FFFFFFFFFFFFFF })
  | _ => .next s

/-- PCMD (R323). -/
def State.pcmd (s : State) (n : Nat) (w : Word) : Host.Outcome State Fault Refusal :=
  match wfield w 0 8 with
  | 1 => if wfield w 32 32 ≠ 0 ∨ wfield w 9 7 ≠ 0 then s.command n fun _ => s.answer n 2 else Sys2Proof.Machine.execApplyCmd n s
  | 2 => Sys2Proof.Machine.execPartitionHalt n w s
  | 3 => Sys2Proof.Machine.execResume n w s
  | 4 => Sys2Proof.Machine.execDiscard n w s
  | _ => s.command n fun _ => s.answer n 2

/-- QRCMD (R398). -/
def State.qrcmd (s : State) (n : Nat) (w : Word) : Host.Outcome State Fault Refusal :=
  match wfield w 0 8 with
  | 1 => Sys2Proof.Machine.execAnchor n (wfield w 32 32) s
  | 2 => Sys2Proof.Machine.execAnchdone n (wfield w 32 32) s
  | 3 => Sys2Proof.Machine.execReplay n (wfield w 32 32) s
  | 4 => Sys2Proof.Machine.execAbort n s
  | _ => s.command n fun _ => s.answer n 2

/-- A write to a partition window by the companion processor (R321, R322, R398, R415, R425). -/
def State.partWrite (s : State) (n off : Nat) (w : Word) : Host.Outcome State Fault Refusal :=
  let p := s.part n
  let log (l : LogState) : State := s.setPart { p with log := l }
  match off with
  | 0x000 => Sys2Proof.Machine.execPmodeWrite n w s
  | 0x008 => s.pcmd n w
  | 0x080 => .next (if inHbm ((w.extractLsb' 16 36).toNat * 65536) 8192 then s.setPart { p with ps2root := w &&& 0x000FFFFFFFFF0001 } else s)
  | 0x088 => Sys2Proof.Machine.execPs2inv n w s
  | 0x0A0 => .next (if inHbm (w.toNat / 4096 * 4096) 1040 then s.setPart { p with pdlrep := w &&& ~~~0xFFF } else s)
  | 0x0A8 => Sys2Proof.Machine.execDeadlinePost n w s
  | 0x0C0 => .next (if ringInHbm w 32 then s.setPart { p with host := { p.host with base := ringBaseStored w } } else s)
  | 0x0D0 => .next (s.setPart { p with host := { p.host with tail := w } })
  | 0x0D8 => Sys2Proof.Machine.execFreplay (.host n) w s
  | 0x320 => s.qrcmd n w
  | 0x328 => .next (log { p.log with rpctl := w &&& 1 })
  | 0x330 => .next (log { p.log with rpbrk := putNth p.log.rpbrk 0 (w &&& 0x800FFFFFFFFFFFFF), brkTaken := false })
  | 0x338 => .next (log { p.log with rpbrk := putNth p.log.rpbrk 1 w, brkTaken := false })
  | 0x340 => .next (log { p.log with rpbrk := putNth p.log.rpbrk 2 (w &&& 0xFFFFFFFF), brkTaken := false })
  | 0x400 => Sys2Proof.Machine.execDbgtok n w s
  | 0x408 => Sys2Proof.Machine.execDbgunlk n w s
  | 0x508 => .next (if ringInHbm w 48 then s.setPart { p with trbase := ringBaseStored w } else s)
  | _ =>
    if 0x410 ≤ off ∧ off ≤ 0x478 then (if p.dbg.unl then s.debugWrite n off w else .next s)
    else match stagedWrite off w with
      | some f => .next (s.setStaged n f)
      | none => .next s

/-- A write to a VF window that belongs to its VF, outside the quota image (R159, R312, R375, R385, R426, R428). -/
def State.vfWrite (s : State) (n off : Nat) (w : Word) : Host.Outcome State Fault Refusal :=
  let v := s.vf n
  match off with
  | 0x000 => Sys2Proof.Machine.execTrig n w s
  | 0x008 => Sys2Proof.Machine.execGload n w s
  | 0x018 => .next (s.setVf { v with stvec := w &&& ~~~6 })
  | 0x020 => .next (s.setVf { v with ring := { v.ring with base := ringBaseStored w } })
  | 0x030 => .next (s.setVf { v with ring := { v.ring with tail := w } })
  | 0x038 => Sys2Proof.Machine.execFreplay (.vf n) w s
  | 0x608 => .next (s.setVf { v with frcopy := w &&& 1 })
  | 0x610 => .next (s.setVf { v with ebase := ringBaseStored w })
  | _ =>
    if off % 8 ≠ 0 then .next s
    else if 0x200 ≤ off ∧ off < 0x400 then Sys2Proof.Machine.execMailboxEnable n ((off - 0x200) / 8) w s
    else if 0x740 ≤ off ∧ off < 0x780 then .next (s.setVf { v with csel := putNth v.csel ((off - 0x740) / 8) (w &&& 0xFFF) })
    else .next s

/-- A write to the device block (R432, R433). DEVCFG and ROUTE become read-only when step 6 has ended. -/
def State.deviceWrite (s : State) (off : Nat) (w : Word) : Host.Outcome State Fault Refusal :=
  let d := s.device
  match off with
  | 0x000 => match wfield w 0 8 with
    | 1 => Sys2Proof.Machine.execLoad w s
    | 2 => Sys2Proof.Machine.execFabrst s
    | 3 => Sys2Proof.Machine.execDbgkey w s
    | _ => .next s.newCommand
  | 0x010 => .next (if w.toNat % 4 = 3 then s else { s with device := { d with pwrcap := w &&& 3 } })
  | 0x020 => .next { s with device := { d with trsel := w &&& 0x1F } }
  | 0x028 => .next (if 7 ≤ d.step then s else { s with device := { d with devcfg := w &&& 0x1FFF1FFF } })
  | _ =>
    if 0x400 ≤ off ∧ off % 8 = 0 ∧ d.step < 7 then
      .next { s with fabric := { s.fabric with routes := Sparse.set 0 s.fabric.routes ((off - 0x400) / 8) (w &&& 0x7FFFFFFFF) } }
    else .next s

/-- A group's write reached a window that is not its own: discarded, and an alarm (R159, R430). -/
def State.trespass (s : State) (vf : Nat) : State := s.tamper 0 (((s.partOf vf).map (·.num)).getD s.device.lastPart)

/-- The offset lies in the quota image of a VF window (R326). -/
def quotaImage (off : Nat) : Bool := decide (0x100 ≤ off ∧ off < 0x200)

/-- An aligned 8-byte write to the device-register range (R159, R195, R326, R371). -/
def State.windowWrite (s : State) (sender : Sender) (pa : Nat) (w : Word) : Host.Outcome State Fault Refusal :=
  if pa % 8 ≠ 0 then .next s
  else match windowAt pa, sender with
    | none, _ => .next s
    | some (.vf n, off), .companion => if quotaImage off then .next (s.quotaAttempt n) else s.vfWrite n off w
    | some (.part p, off), .companion => s.partWrite p off w
    | some (.device, off), .companion => s.deviceWrite off w
    | some (.vf n, off), .group v =>
      if n ≠ v then .next (s.trespass v) else if quotaImage off then .next (s.quotaAttempt n) else s.vfWrite n off w
    | some (.part _, _), .group v | some (.device, _), .group v => .next (s.trespass v)

/-- REGISTER_WRITE (R159, R321, R322, R432): the companion processor's writes cross the Wiuno link. -/
def execRegisterWrite (sender : Sender) (pa : Nat) (value : BitVec 64) (s : State) : Host.Outcome State Fault Refusal :=
  match sender with
  | .companion => if s.linkUp then s.windowWrite .companion pa value else .next s
  | .group v => s.windowWrite (.group v) pa value

end Sys2Proof.Machine
end

