-- ==== Sys2Proof/Machine/Perform.lean ====
section
/-! DEFINITION. Operations as they perform (R150, R223 to R227): order (R393), the checks of step 5 of R243, values read and written,
read-modify-writes and staging (R234, R235, R256), mailboxes (R207, R254), fabric receives (R381, R410), device registers (R159),
values from outside in a log (R388), uncorrectable errors (R316, R317), held accesses (R405). -/
namespace Sys2Proof.Machine

-- ## registers and digests

/-- The lane of a part as a trap names it; scalar accesses name none. -/
def Part.named (p : Part) : Option Nat := if p.lane < 32 then some p.lane else none

/-- A returned value goes to a register of a lane, unless a younger word has written that (R23). -/
def Group.putV (g : Group) (o : MemOp) (n l : Nat) (x : Lane) : Group := if o.keeps n l then g.setV n l x else g
def Group.putS (g : Group) (o : MemOp) (n : Nat) (x : Word) : Group := if o.keeps (1000 + n) 0 then g.setS n x else g
def Group.putC (g : Group) (o : MemOp) (n : Nat) (b : Bool) : Group := if o.keeps (2000 + n) 0 then g.setC n b else g

/-- The bytes of a part go to its registers, zero-extended (R135). -/
def Group.putPart (g : Group) (o : MemOp) (p : Part) (bs : List Byte) : Group :=
  (List.range ((p.size + 3) / 4)).foldl (fun g j => g.putV o (p.reg + j) p.lane (BitVec.ofNat 32 (leNat ((bs.drop (4 * j)).take 4)))) g

/-- The registers of parts, one lane each. -/
def partRegs (l : List Part) : List WReg :=
  l.flatMap fun p => (List.range ((p.size + 3) / 4)).map fun j => { kind := 0, num := p.reg + j, lanes := 1 <<< p.lane }

/-- An operation is over: the registers it still keeps are written, and its word's digest receives every value it returned and the
memory it wrote. -/
def State.complete (s : State) (g : Group) (o : MemOp) (put : MemOp → Group → Group) (regs : List WReg) (runs : List Word) : State :=
  let s1 := s.finishOp g.id.key o.id fun o g =>
    (put o g).resolveDig o.inst (regs.flatMap fun r => r.words (put { o with lost := [] } g)) runs (!g.ops.any fun x => x.inst == o.inst)
  let lane := ((o.parts.getLast?).map (·.lane)).getD 0 % 32
  ({ s1 with samples := s1.samples.map fun (x : Sample) => if x.key = g.id.key ∧ x.ltime = o.ltime then { x with lane } else x }).progressed g.id.vf

-- ## locations

/-- Lines of an operation's locations, in lane order. -/
def State.linesOf (s : State) (o : MemOp) : List Nat := (o.parts.map fun p => locLine (s.locOf o.space p.addr)).eraseDups

/-- A staged contribution is no access until its fold (R235, R393). -/
def State.staged (s : State) (g : Group) (o : MemOp) : Bool := s.det g.id.vf && (match o.kind with | .red _ => true | _ => false)

/-- The places of an operation's lines in order (R393). -/
def State.orderAll (s : State) (g : Group) (o : MemOp) : Ordered :=
  if s.staged g o then .go s
  else (s.linesOf o).foldl (fun x k => match x with
    | .go s => s.orderIn g.id.vf g.collator (s.accessOf g o k)
    | .hold => .hold
    | .diverge => .diverge) (.go s)

-- ## step 5 of R243

def RmwOp.isAtom (k : OpKind) : Bool := match k with | .rmw op => op.commutes | _ => false

/-- The access as the conflict checker keeps it. -/
def State.opConf (s : State) (g : Group) (o : MemOp) : ConfAccess :=
  s.confOf g o.ltime (!o.reads) (match o.kind with | .red _ => true | _ => false) (RmwOp.isAtom o.kind)

/-- A synchronising access (R221). -/
def MemOp.sync (o : MemOp) : Bool := o.ord != 0 || !(o.reads || o.stores)

/-- The scope check of every line (R233). -/
def State.scopeFails (s : State) (g : Group) (o : MemOp) : Option TrapReq :=
  if o.sync then o.parts.findSome? fun p => s.scopeTrap (s.agentOf g) (locLine (s.locOf o.space p.addr)) o.sco o.ord p.named else none

/-- The conflict check of every byte (R239). -/
def State.conflictFails (s : State) (g : Group) (o : MemOp) : Option TrapReq :=
  if s.det g.id.vf then
    let c := s.opConf g o
    o.parts.findSome? fun p => (List.range p.size).findSome? fun i =>
      (s.conflictAt (s.locOf o.space p.addr + i) c g.mxSeen).map fun a => conflictTrap (p.va + i) 0 a false p.named
  else none

/-- A mailbox header that breaks R207, as it stands at the coherence point: a stash row that owns the line gives it up first. -/
def State.headerFails (s : State) (o : MemOp) : Option TrapReq :=
  match o.kind, o.parts with
  | .mboxPut _, p :: _ | .mboxGet _, p :: _ =>
    let h := Memory.readN (s.recallLine (p.addr / lineBytes)).mem p.addr 16
    if 6 < (nth 0 h 0).toNat ∨ 7 < (nth 0 h 1).toNat ∨ (h.drop 2).any (fun b => b != 0) then some (mkTrap 8 5 (p.va + 2 ^ 64 * 7)) else none
  | _, _ => none

/-- A contribution that differs from one staged (R235). -/
def State.redFails (s : State) (g : Group) (o : MemOp) : Option TrapReq :=
  match o.kind with
  | .red op => if s.det g.id.vf then o.parts.findSome? fun p => s.stageTrap p.addr p.va (p.size == 8) op p.named else none
  | _ => none

/-- The checks in their order; each over every lane. -/
def State.stepFive (s : State) (g : Group) (o : MemOp) : Option TrapReq :=
  if o.unchecked then firstTrap [s.scopeFails g o, s.conflictFails g o, s.redFails g o, s.headerFails o] else none

/-- What the checks record once all have passed. -/
def State.recordOp (s : State) (g : Group) (o : MemOp) : State :=
  let s1 := if o.sync then (s.linesOf o).foldl (fun s k => s.scopePut (s.agentOf g) k o.sco) s else s
  if s.det g.id.vf then
    let c := s1.opConf g o
    o.parts.foldl (fun s p => (List.range p.size).foldl (fun s i => s.conflictPut (s.locOf o.space p.addr + i) c) s) s1
  else s1

/-- A failing check is taken at the word: the group goes back to what it was, but for what came to it from outside since, and what
it did after the word is undone (R23, R243). -/
def State.rollback (s : State) (g : Group) (o : MemOp) (t : TrapReq) : State :=
  match s.shadows.find? fun h => h.key == g.id.key && h.inst == o.id with
  | none => s.takeTrap g { t with pc := o.pc }
  | some h =>
    let b := h.group
    let k := (g.ltime - b.ltime).toNat
    let g1 : Group := { b with tagBusy := g.tagBusy, tagDone := g.tagDone, tagFlt := g.tagFlt, cmp := g.cmp, trap := { b.trap with async := g.trap.async } }
    let s1 := { s with shadows := s.shadows.filter fun h => !(h.key == g.id.key && o.id ≤ h.inst)
                       samples := s.samples.filter fun x => !(x.key == g.id.key && b.ltime.toNat < x.ltime.toNat) }
    let s2 := match s1.team? g.id.team with
      | some u => (s1.setTeam { u with retired := u.retired - k }).count g.id.vf 1 (2 ^ 64 - k)
      | none => s1
    (s2.setGroup g1).takeTrap g1 { t with pc := b.pc }

-- ## reading and writing

/-- The bytes of the parts of an operation that lie on a line. -/
def MemOp.mask (o : MemOp) (line : Nat) : BitVec 128 :=
  (o.parts.filter fun p => p.addr / lineBytes == line).foldl (fun m p => m ||| BitVec.ofNat 128 ((2 ^ p.size - 1) * 2 ^ (p.addr % lineBytes))) 0

/-- The lines of an operation. -/
def MemOp.lines (o : MemOp) : List Nat := (o.parts.map fun p => p.addr / lineBytes).eraseDups

/-- The requests of an operation on memory: one per line to the slice of its leaf (R208, R219). A stash row is filled as each part
touches it (R199). -/
def State.requests (s : State) (g : Group) (o : MemOp) : State :=
  match o.space with
  | .stash | .device => s
  | .mem => o.lines.foldl (fun s k => s.sliceAccess
      { leaf := leafOf g.id.core, vf := g.id.vf, line := k, read := !o.stores, wmask := if o.reads then 0 else o.mask k, uc := o.uc, dz := o.dz
        uncached := o.parts.any fun p => p.addr / lineBytes == k && p.unc, cls := g.id.cls, bytes := o.bytesOn k, again := o.again.contains k }) s

/-- Bytes where an operation's space holds them, and writes there. A row in I is filled before it is read or written (R199, R246):
rows of several cores may map one line, and each touch moves it. -/
def State.bytesAt (s : State) (g : Group) (sp : Space) (a n : Nat) : List Byte × State :=
  match sp with
  | .stash => let s1 := s.fillRow (a / lineBytes) g.id.vf g.id.cls; (Memory.readN s1.stash a n, s1)
  | .mem | .device => (Memory.readN s.mem a n, s)
def State.putBytes (s : State) (g : Group) (sp : Space) (a : Nat) (bs : List Byte) : State :=
  match sp with
  | .stash => let s1 := s.fillRow (a / lineBytes) g.id.vf g.id.cls; { s1 with stash := Memory.writeN s1.stash a bs }.dirtyRow a bs.length
  | .mem | .device => { s with mem := Memory.writeN s.mem a bs }

/-- The bytes that each part of a load takes, from an older store that holds them or from memory. -/
def State.loadParts (s : State) (g : Group) (o : MemOp) (older : List MemOp) : List Part → List (Part × List Byte) × State
  | [] => ([], s)
  | p :: r =>
    let (bs, s1) := match s.forwarded o p older with
      | .bytes bs => (bs, s)
      | .none | .wait => s.bytesAt g o.space p.addr p.size
    let (l, s2) := s1.loadParts g o older r
    ((p, bs) :: l, s2)

/-- A load binds its value. -/
def State.doLoad (s0 : State) (g : Group) (o : MemOp) : State :=
  let (got, s) := s0.loadParts g o (g.olderThan o) o.parts
  match o.kind with
  | .sload d => s.complete g o (fun o g => g.putS o d (BitVec.ofNat 64 (leNat (got.flatMap (·.2))))) [{ kind := 5, num := d }] []
  | _ => s.complete g o (fun o g => got.foldl (fun g x => g.putPart o x.1 x.2) g) (partRegs o.parts) []

/-- A store, lanes ascending (R137). -/
def State.doStore (s : State) (g : Group) (o : MemOp) : State :=
  (o.parts.foldl (fun s p => s.putBytes g o.space p.addr p.data) s).complete g o (fun _ g => g) [] []

/-- Read-modify-writes, one per lane ascending (R256, R257): the state after them, and the old values. -/
def State.rmwAll (s : State) (g : Group) (op : RmwOp) : List Part → State × List (Part × List Byte × List Byte)
  | [] => (s, [])
  | p :: r =>
    let old := Memory.readN s.mem p.addr p.size
    let new := leBytes p.size (op.apply (p.size == 8) (leNat old) (leNat p.data) (leNat p.swap))
    let (s1, l) := (s.putBytes g .mem p.addr new).rmwAll g op r
    (s1, (p, old, new) :: l)

def State.doRmw (s : State) (g : Group) (o : MemOp) (op : RmwOp) (back : Bool) : State :=
  let (s1, l) := s.rmwAll g op o.parts
  let runs := l.flatMap fun (p, _, new) => runWords p.va new
  if back then s1.complete g o (fun o g => l.foldl (fun g x => g.putPart o x.1 x.2.1) g) (partRegs o.parts) runs
  else s1.complete g o (fun _ g => g) [] runs

/-- Stages the lanes of a reducing write in order; the first that finds no room fails (R235, R275). -/
def State.stageAll (s : State) (g : Group) (o : MemOp) (op : RmwOp) : List Part → Except TrapReq State
  | [] => .ok s
  | p :: r =>
    let empty := ((s.partOf g.id.vf).map fun q => q.force.pway.toNat % 65536 == 0).getD true
    let place := slotPlace (leafOf g.id.core) p.addr (p.unc || empty || rangeOf p.addr == some 1)
    let c := s.opConf g o
    let full : Bool := !(s.slots.any (isSlot c.agent p.addr)) && ((s.partOf g.id.vf).map fun q => s.stageFull q place).getD true
    if full then .error (mkTrap 22 3 p.va p.named)
    else (s.stage c place p.addr (p.size == 8) op (leNat p.data)).stageAll g o op r

/-- A mailbox operation on its line, the header being good (R254). -/
def State.doMbox (s : State) (g : Group) (o : MemOp) (c : Nat) (put : Bool) : State :=
  match o.parts with
  | [] => s
  | p :: _ =>
    let a := p.addr
    let h := (nth 0 (Memory.readN s.mem a 2) 0).toNat
    let n := (nth 0 (Memory.readN s.mem a 2) 1).toNat
    let ok : Bool := if put then n != 7 else n != 0
    let flag (o : MemOp) (g : Group) : Group := g.putC o c ok
    let cReg : WReg := { kind := 6, num := c }
    if !ok then s.complete g o flag [cReg] []
    else if put then
      let at' := 16 + 16 * ((h + n) % 7)
      let bs := o.parts.flatMap (·.data)
      let s1 := (s.putBytes g .mem (a + 1) (leBytes 1 (n + 1))).putBytes g .mem (a + at') bs
      s1.complete g o flag [cReg] (runWords (p.va + 1) (leBytes 1 (n + 1)) ++ runWords (p.va + at') bs)
    else
      let bs := Memory.readN s.mem (a + 16 + 16 * h) 16
      let hd := leBytes 1 ((h + 1) % 7) ++ leBytes 1 (n - 1)
      (s.putBytes g .mem a hd).complete g o
        (fun o g => flag o (o.parts.zipIdx.foldl (fun g x => g.putV o x.1.reg x.1.lane (BitVec.ofNat 32 (leNat ((bs.drop (4 * x.2)).take 4)))) g))
        ((o.parts.map fun q => { kind := 0, num := q.reg, lanes := 1 <<< q.lane }) ++ [cReg]) (runWords p.va hd)

/-- The operation performs: its value is bound, its bytes are written, or it is staged. -/
def State.doOp (s : State) (g : Group) (o : MemOp) : Except TrapReq State :=
  match o.kind with
  | .load | .sload _ => .ok (s.doLoad g o)
  | .store => .ok (s.doStore g o)
  | .rmw op => .ok (s.doRmw g o op true)
  | .red op => if s.det g.id.vf then (s.stageAll g o op o.parts).map fun s => s.complete g o (fun _ g => g) [] [] else .ok (s.doRmw g o op false)
  | .mboxPut c => .ok (s.doMbox g o c true)
  | .mboxGet c => .ok (s.doMbox g o c false)
  | .frecv _ _ | .fsend _ => .ok s

-- ## values from outside the device in a log (R388, R390, R396, R406)

/-- The sectors of a line that an operation's parts touch. -/
def MemOp.sectors (o : MemOp) (line : Nat) : Nat :=
  (o.parts.filter fun p => p.addr / lineBytes == line).foldl (fun m p =>
    (List.range 4).foldl (fun m i => if overlap (p.addr % lineBytes) (p.addr % lineBytes + p.size) (32 * i) (32 * i + 32) then m ||| 2 ^ i else m) m) 0

/-- The address words of sectors of a line. -/
def sectorWords (line mask : Nat) (rd : Nat → Word) : List Word :=
  BitVec.ofNat 64 (line * lineBytes) :: (bitsOf mask 4).flatMap fun i => (List.range 4).map fun j => rd (line * lineBytes + 32 * i + 8 * j)

/-- The logged HIN event of an operation on a line. -/
def State.loggedHin (s : State) (g : Group) (o : MemOp) (line : Nat) : Option LogEvent :=
  (s.eventsAt g.collator).find? fun e => e.code == 9 && sameTime e.time o.ltime && (e.more.head?) == some (BitVec.ofNat 64 (line * lineBytes))

/-- Bytes of a line that a HIN event gives: address and bytes of each sector. -/
def LogEvent.sectorBytes (e : LogEvent) (line : Nat) : List (Nat × List Byte) :=
  (bitsOf e.a.toNat 4).zipIdx.map fun (i, k) => (line * lineBytes + 32 * i, ((e.more.drop (1 + 4 * k)).take 4).flatMap fun w => leBytes 8 w.toNat)

/-- In RECORD the sectors read from companion memory are logged; in REPLAY they come from the log, nothing leaves the device, and
an access that the log does not have diverges. -/
def State.withHin (s : State) (g : Group) (o : MemOp) (k : State → Except TrapReq State) : Except TrapReq State :=
  let lines := o.lines
  let gAt : Group := { g with ltime := o.ltime }
  if o.space != .mem || o.stores || !(o.parts.any fun p => rangeOf p.addr == some 1) || s.log g.id.vf = 0 then k s
  else if s.log g.id.vf = 1 then
    k (lines.foldl (fun s l => s.note gAt 9 (BitVec.ofNat 32 (o.sectors l)) (sectorWords l (o.sectors l) (Memory.read64 s.mem))) s)
  else
    let evs := lines.map fun l => (l, s.loggedHin g o l)
    if evs.any fun e => e.2.isNone then .error (divergence 5 4 o.ltime)
    else
      let above := evs.flatMap fun (l, e) => (e.map fun e => e.sectorBytes l).getD []
      let was := above.map fun (a, bs) => (a, Memory.readN s.mem a bs.length)
      let put (s : State) (l : List (Nat × List Byte)) : State := { s with mem := l.foldl (fun m x => Memory.writeN m x.1 x.2) s.mem }
      let met := evs.foldl (fun s (_, e) => match e with | some e => s.meetEvent g.collator e | none => s) s
      (k (put met above)).map fun s => put s was

-- ## an operation on memory or a stash

/-- The sector of a part as a trap names it (R303): its physical address, and for a row that maps no line the stash address as the
access named it (log entry 83). -/
def State.sectorOf (s : State) (o : MemOp) (p : Part) : Nat :=
  let loc := s.locOf o.space p.addr
  (if loc < 2 ^ 60 then loc else p.va) / 32 * 32

/-- An uncorrectable error of the data that a part of an operation reads: the access does not perform, and its consumer will trap
(R316, R317); `level` is that of R303, `k` the failing part. -/
def State.failOp (s : State) (g : Group) (o : MemOp) (level k : Nat) : State :=
  let a := ((o.parts[k % max 1 o.parts.length]?).map fun p => s.sectorOf o p).getD 0
  let t := mkTrap 20 1 (a + 2 ^ 64 * (level % 4) + 2 ^ 66 * (!o.reads).toNat)
  s.complete g o (fun o g => { g with failed := g.failed ++ [{ regs := o.kept, isStore := !o.kind.isLoad, trap := t }] }) [] []

/-- The operation reads data that an error can spoil: every one but a store to memory or to a row that holds its bytes. -/
def State.readsData (s : State) (o : MemOp) : Bool :=
  !o.stores || (o.space == .stash && o.parts.any fun p => (s.row (p.addr / lineBytes)).st == .i)

/-- Corrected errors are counted for the partition of a VF, and change nothing else (R214, R316, R426). -/
def State.corrected (s : State) (vf n : Nat) : State :=
  match s.partOf vf with
  | some p => s.setPart { p with cecnt := p.cecnt + BitVec.ofNat 64 n }
  | none => s

/-- An operation on memory or a stash tries to perform, once its requests may be injected and nothing on their paths is before them.
`outcome` is 0; or 8 × the failing part + 1 + the level of an uncorrectable error; or 5 + 8 × the number of errors corrected on the
way. The checks of step 5 are made on what stands at the coherence point, with bytes of a log put in. -/
def State.performMem (s0 : State) (g : Group) (o : MemOp) (outcome : Nat) : State :=
  if s0.overtakes g o || !s0.injectable g o then s0
  else
    let s := if outcome % 8 = 5 then s0.corrected g.id.vf (outcome / 8) else s0
    if 1 ≤ outcome % 8 ∧ outcome % 8 ≤ 4 ∧ s.readsData o then s.failOp g o (outcome % 8 - 1) (outcome / 8)
    else match s.orderAll g o with
      | .hold => s0
      | .diverge => s.divergeGroup g 5 4 o.ltime
      | .go s1 =>
        let act (s : State) : Except TrapReq State := match s.stepFive g o with
          | some t => .error t
          | none => (((s.recordOp g o).requests g o).doOp g o).map fun s => if o.space = .mem then o.lines.foldl State.reapDead s else s
        match s1.withHin g o act with
        | .ok s2 => s2
        | .error t => if t.grp = 17 then s.divergeGroup g t.code 4 o.ltime else s.rollback g o t

-- ## device registers

/-- A read or write of a device register (R159, R195, R371): only aligned 8-byte accesses reach one. -/
def State.performDevice (s : State) (g : Group) (o : MemOp) : State :=
  match o.parts with
  | [] => s.complete g o (fun _ g => g) [] []
  | p :: _ =>
    let gAt : Group := { g with ltime := o.ltime }
    let line := p.addr / lineBytes
    let mask := 2 ^ (p.addr % lineBytes / 32)
    match o.kind with
    | .sload d =>
      let put (s : State) (w : Word) : State := s.complete g o (fun o g => g.putS o d w) [{ kind := 5, num := d }] []
      if s.log g.id.vf = 2 then
        match s.loggedHin g o line with
        | none => s.divergeGroup g 5 4 o.ltime
        | some e =>
          let bs := ((e.sectorBytes line).head?.map (·.2)).getD []
          put (s.meetEvent g.collator e) (BitVec.ofNat 64 (leNat ((bs.drop (p.addr % 32)).take p.size)))
      else
        let (w, s1) := s.groupRead g.id.vf p.addr p.size
        put (s1.note gAt 9 (BitVec.ofNat 32 mask) (sectorWords line mask fun a => if a = p.addr / 8 * 8 then w <<< (8 * (p.addr % 8)) else 0)) w
    | _ =>
      let s1 := if p.size ≠ 8 then s else match s.windowWrite (.group g.id.vf) p.addr (BitVec.ofNat 64 (leNat p.data)) with
        | .next s1 => s1
        | .fault _ | .refused _ => s
      match s1.group? g.id.key with
      | some g1 => s1.complete g1 o (fun _ g => g) [] []
      | none => s1

-- ## fabric receives (R381 to R383, R409, R410)

/-- The location of a mailbox's HEAD and COUNT (R383). -/
def mboxLoc (part mb : Nat) : Nat := 2 ^ 61 + part * 64 + mb

/-- Fields of a mailbox entry (R376) as an ARR event holds them: A, and its first further word. -/
def arrWords (bs : List Byte) (mb : Nat) (p : Bool) : BitVec 32 × Word :=
  let w := leNat ((bs.drop 64).take 4)
  (BitVec.ofNat 32 (field w 0 13 + field w 16 2 * 2 ^ 16 + field w 20 4 * 2 ^ 20 + field w 18 2 * 2 ^ 24 + p.toNat * 2 ^ 31),
   BitVec.ofNat 64 (leNat ((bs.drop 80).take 4) + mb * 2 ^ 32))

/-- An entry as the receiver sees it when the log injects it: its payload and the fields of the event; the rest is free. -/
def State.injected (s : State) (e : LogEvent) : List Byte × State :=
  let (a, s1) := s.free
  let (b, s2) := s1.free
  let (c, s3) := s2.free
  let w := wfield (e.a.setWidth 64) 0 13 + wfield (e.a.setWidth 64) 16 2 * 2 ^ 16 + wfield (e.a.setWidth 64) 24 2 * 2 ^ 18 + wfield (e.a.setWidth 64) 20 4 * 2 ^ 20
  (((e.more.drop 1).take 8).flatMap (fun w => leBytes 8 w.toNat) ++ leBytes 4 w ++ leBytes 4 a ++ leBytes 4 b ++ leBytes 4 c
    ++ leBytes 4 (wfield (nth 0 e.more 0) 0 32) ++ leBytes 44 0, s3)

/-- `frecv` ends: with an entry, or with ok = 0. -/
def State.received (s : State) (g : Group) (o : MemOp) (c : Nat) (entry : Option (List Byte)) : State :=
  let flag (o : MemOp) (g : Group) : Group := g.putC o c entry.isSome
  let cReg : WReg := { kind := 6, num := c }
  match entry with
  | none => s.complete g o flag [cReg] []
  | some bs => s.complete g o
      (fun o g => flag o (o.parts.foldl (fun g p => g.putV o p.reg p.lane (BitVec.ofNat 32 (leNat ((bs.drop (4 * p.lane)).take 4)))) g))
      ((o.parts.map fun p => { kind := 0, num := p.reg, lanes := 1 <<< p.lane }) ++ [cReg]) []

/-- The oldest entry of a mailbox is taken. -/
def State.popMbox (s : State) (vf mb : Nat) (x : FabMbox) : List Byte × State :=
  let (bs, s1) := s.readMem (x.pa + 128 * (x.head % 256)) 128
  (bs, s1.setMbox vf mb { x with head := (x.head + 1) % 256, count := x.count - 1 })

/-- `frecv` tries to perform. -/
def State.performRecv (s : State) (g : Group) (o : MemOp) (c mb : Nat) : State :=
  let vf := g.id.vf
  let x := s.mbox vf mb
  let gAt : Group := { g with ltime := o.ltime }
  let loc := mboxLoc (((s.partOf vf).map (·.num)).getD 0) mb
  let ca := s.confOf g o.ltime true false false
  match (if s.det vf then s.conflictAt loc ca g.mxSeen else none) with
  | some a => s.rollback g o (conflictTrap mb 3 a false none)
  | none =>
    let s1 := if s.det vf then s.conflictPut loc ca else s
    if s.log vf = 2 then
      match s.logged gAt 7 with
      | none => s1.received g o c none
      | some e =>
        let (bs, s2) := s1.popMbox vf mb x
        let payload := ((e.more.drop 1).take 8).flatMap fun w => leBytes 8 w.toNat
        if x.v ∧ x.count ≠ 0 ∧ arrWords bs mb (e.a.getLsbD 31) = (e.a, nth 0 e.more 0) then
          if e.a.getLsbD 31 ∧ bs.take 64 ≠ payload then s.divergeGroup g 8 6 o.ltime
          else (s2.note gAt 7 e.a e.more).received g o c (some bs)
        else if e.a.getLsbD 31 then
          -- whether the arrival still comes from a device that replays too is not known to the device
          let (k, s3) := s1.free
          if k % 2 = 0 then { s with fresh := s3.fresh }
          else
            let (bs, s4) := s3.injected e
            (s4.note gAt 7 e.a e.more).received g o c (some bs)
        else s
    else if !x.v ∨ x.count = 0 then s1.received g o c none
    else
      let (bs, s2) := s1.popMbox vf mb x
      let cap := ((s.partOf vf).map fun p => p.force.qrcfg.getLsbD 1).getD false
      let (a, w) := arrWords bs mb cap
      (s2.note gAt 7 a (w :: if cap then wordsFill (bs.take 64) else [])).received g o c (some bs)

-- ## the events

/-- The operation of a group tries to perform. -/
def State.perform (s : State) (key id outcome : Nat) : State :=
  match s.group? key with
  | none => s
  | some g => match g.ops.find? fun o => o.id == id with
    | none => s
    | some o =>
      if !s.eligible g o then s
      else match o.kind with
        | .fsend _ => s
        | .frecv c mb => s.performRecv g o c mb
        | .load | .store | .rmw _ | .red _ | .mboxPut _ | .mboxGet _ | .sload _ =>
          if o.space = .device then s.performDevice g o else s.performMem g o outcome

/-- An operation of a group by its number. -/
def State.opOf (s : State) (key id : Nat) : Option MemOp := (s.group? key).bind fun g => g.ops.find? fun o => o.id == id

/-- LOAD_DATA_RETURN (R150): an operation that returns a value performs. -/
def execLoadDataReturn (g op outcome : Nat) (s : State) : Host.Outcome State Fault Refusal :=
  if ((s.opOf g op).map fun o => o.kind.isLoad).getD false then .next (s.perform g op outcome) else .next s

/-- STORE_PERFORMED (R223): an operation that returns no value performs. -/
def execStorePerformed (g op outcome : Nat) (s : State) : Host.Outcome State Fault Refusal :=
  if ((s.opOf g op).map fun o => !o.kind.isLoad).getD false then .next (s.perform g op outcome) else .next s

/-- REPLAY_HOLD_RELEASE (R393, R404): a held access whose token is next performs; under group 0, a write from outside that the log
puts back. -/
def execReplayHoldRelease (g op : Nat) (s : State) : Host.Outcome State Fault Refusal :=
  if g = 0 then .next (s.putBackAny.getD s)
  else if ((s.group? g).map fun x => s.log x.id.vf == 2).getD false then .next (s.perform g op 0) else .next s

/-- The partition of a group has replayed nothing for 10 ms (R405). -/
def State.noProgress (s : State) (g : Group) : Bool :=
  s.log g.id.vf == 2 && ((s.partOf g.id.vf).map fun p => decide (p.log.progressAt + replayLimit ≤ s.ns)).getD false

/-- An access of the group, or a piece of one of its copies, is held for its token. -/
def State.holds (s : State) (g : Group) : Bool :=
  (g.ops.any fun o => o.space != .device && s.eligible g o && (match s.orderAll g o with | .hold => true | .go _ | .diverge => false))
    || (s.copies.any fun c => c.group == g.id.key && s.mayMove c && c.next.isSome && !(s.movePiece c).2)

/-- HELD_ACCESS_TIMEOUT (R405). -/
def execHeldAccessTimeout (key : Nat) (s : State) : Host.Outcome State Fault Refusal :=
  match s.group? key with
  | some g => if s.noProgress g ∧ s.holds g then .next (s.divergeGroup g 6 4 g.ltime) else .next s
  | none => .next s

/-- ARR_TIMEOUT (R410): a logged pop has waited for 10 ms. -/
def execArrTimeout (key : Nat) (s : State) : Host.Outcome State Fault Refusal :=
  match s.group? key with
  | some g =>
    let waits (o : MemOp) : Bool := (match o.kind with | .frecv _ _ => true | _ => false) && (s.logged { g with ltime := o.ltime } 7).isSome
      && decide (o.since + replayLimit ≤ s.ns)
    if g.ops.any waits then .next (s.divergeGroup g 8 6 g.ltime) else .next s
  | none => .next s

end Sys2Proof.Machine
end

