-- ==== Sys2Proof/Machine/ScalarMem.lean ====
section
/-! DEFINITION. Scalar loads and stores (R29, R93, R94), which alone reach device registers (R159, R218, R326). -/
namespace Sys2Proof.Machine

/-- A memory-class word still waits in the forward queue (R29). -/
def Group.memHeld (g : Group) : Bool := g.fqHeld.any fun (_, m) => m != 0

/-- A store has resolved to the quota image of the group's own window (R326): its offset. -/
def quotaStore (g : Group) (vf : Nat) : Option Nat :=
  match g.ops.getLast? with
  | some o => match o.space, o.parts with
    | .device, p :: _ => match windowAt p.addr with
      | some (.vf n, off) => if n = vf ∧ quotaImage off then some off else none
      | some (.part _, _) | some (.device, _) | none => none
    | _, _ => none
  | none => none

/-- The access of a scalar load or store: SD or SB is its register, s[SA] + s64(IMM) its address. It names no lane. A store to the
quota image traps and counts (R326). -/
def scalarMem (s : State) (i : Instr) (o : OpS) (n : Nat) (store : Bool) : Host.Outcome State Fault Refusal :=
  runScalar s i o fun s g =>
    let va := g.getS o.sa.toNat + o.imm.signExtend 64
    let data := if store then leBytes n (g.getS o.sb.toNat).toNat else []
    let kind : OpKind := if store then .store else .sload o.sd.toNat
    if g.memHeld then .stall
    else match memWord s g { kind, align := 1, dev := true } [{ lane := 32, va, size := n, data }]
        (if store then runWords va.toNat data else []) (!store) with
      | .trapS s g t => .trapS s g { t with lane := none }
      | .done s1 g1 pc w => match (if store then quotaStore g1 g.id.vf else none) with
        | some off =>
          let s2 := s.quotaAttempt g.id.vf
          match s2.group? g.id.key with
          | some g2 => if g2.wait = .ended then .hold s2 g2 else .trapS s2 g2 (mkTrap 22 1 off)
          | none => .stall
        | none => .done s1 g1 pc w
      | .stall => .stall
      | .hold s g => .hold s g
      | .trap t => .trap t
      | .trapG g t => .trapG g t

def execSldB (o : OpS) (s : State) : Host.Outcome State Fault Refusal := scalarMem s (.sldB o) o 1 false
def execSldH (o : OpS) (s : State) : Host.Outcome State Fault Refusal := scalarMem s (.sldH o) o 2 false
def execSldW (o : OpS) (s : State) : Host.Outcome State Fault Refusal := scalarMem s (.sldW o) o 4 false
def execSldD (o : OpS) (s : State) : Host.Outcome State Fault Refusal := scalarMem s (.sldD o) o 8 false
def execSstB (o : OpS) (s : State) : Host.Outcome State Fault Refusal := scalarMem s (.sstB o) o 1 true
def execSstH (o : OpS) (s : State) : Host.Outcome State Fault Refusal := scalarMem s (.sstH o) o 2 true
def execSstW (o : OpS) (s : State) : Host.Outcome State Fault Refusal := scalarMem s (.sstW o) o 4 true
def execSstD (o : OpS) (s : State) : Host.Outcome State Fault Refusal := scalarMem s (.sstD o) o 8 true


end Sys2Proof.Machine
end

