-- ==== Sys2Proof/Machine/Dispatch.lean ====
section
/-! DEFINITION. The dispatcher: one arm per step of the part, each one call of its meaning. -/
namespace Sys2Proof.Machine

def exec (i : Instr) (s : State) : Host.Outcome State Fault Refusal :=
  match i with
  | .fadd o => Sys2Proof.Machine.execFadd o s
  | .fsub o => Sys2Proof.Machine.execFsub o s
  | .fmul o => Sys2Proof.Machine.execFmul o s
  | .faddImm o => Sys2Proof.Machine.execFaddImm o s
  | .fsubImm o => Sys2Proof.Machine.execFsubImm o s
  | .fmulImm o => Sys2Proof.Machine.execFmulImm o s
  | .fma o => Sys2Proof.Machine.execFma o s
  | .fms o => Sys2Proof.Machine.execFms o s
  | .fnma o => Sys2Proof.Machine.execFnma o s
  | .fmin o => Sys2Proof.Machine.execFmin o s
  | .fmax o => Sys2Proof.Machine.execFmax o s
  | .fminImm o => Sys2Proof.Machine.execFminImm o s
  | .fmaxImm o => Sys2Proof.Machine.execFmaxImm o s
  | .fabs o => Sys2Proof.Machine.execFabs o s
  | .fneg o => Sys2Proof.Machine.execFneg o s
  | .fcmpEq o => Sys2Proof.Machine.execFcmpEq o s
  | .fcmpLt o => Sys2Proof.Machine.execFcmpLt o s
  | .fcmpLe o => Sys2Proof.Machine.execFcmpLe o s
  | .fcmpUn o => Sys2Proof.Machine.execFcmpUn o s
  | .fsel o => Sys2Proof.Machine.execFsel o s
  | .fcvt o => Sys2Proof.Machine.execFcvt o s
  | .frnd o => Sys2Proof.Machine.execFrnd o s
  | .fsqrt o => Sys2Proof.Machine.execFsqrt o s
  | .fdiv o => Sys2Proof.Machine.execFdiv o s
  | .fexp2q o => Sys2Proof.Machine.execFexp2q o s
  | .fexp2r o => Sys2Proof.Machine.execFexp2r o s
  | .flog2q o => Sys2Proof.Machine.execFlog2q o s
  | .flog2r o => Sys2Proof.Machine.execFlog2r o s
  | .fsinpq o => Sys2Proof.Machine.execFsinpq o s
  | .fsinpr o => Sys2Proof.Machine.execFsinpr o s
  | .fcospq o => Sys2Proof.Machine.execFcospq o s
  | .fcospr o => Sys2Proof.Machine.execFcospr o s
  | .ftanhq o => Sys2Proof.Machine.execFtanhq o s
  | .ftanhr o => Sys2Proof.Machine.execFtanhr o s
  | .frcpq o => Sys2Proof.Machine.execFrcpq o s
  | .frcpr o => Sys2Proof.Machine.execFrcpr o s
  | .frsqq o => Sys2Proof.Machine.execFrsqq o s
  | .frsqr o => Sys2Proof.Machine.execFrsqr o s
  | .fpack o => Sys2Proof.Machine.execFpack o s
  | .funpack o => Sys2Proof.Machine.execFunpack o s
  | .iadd o => Sys2Proof.Machine.execIadd o s
  | .isub o => Sys2Proof.Machine.execIsub o s
  | .imul o => Sys2Proof.Machine.execImul o s
  | .imulh o => Sys2Proof.Machine.execImulh o s
  | .imad o => Sys2Proof.Machine.execImad o s
  | .iand o => Sys2Proof.Machine.execIand o s
  | .ior o => Sys2Proof.Machine.execIor o s
  | .ixor o => Sys2Proof.Machine.execIxor o s
  | .inot o => Sys2Proof.Machine.execInot o s
  | .ishl o => Sys2Proof.Machine.execIshl o s
  | .ishr o => Sys2Proof.Machine.execIshr o s
  | .isra o => Sys2Proof.Machine.execIsra o s
  | .imin o => Sys2Proof.Machine.execImin o s
  | .imax o => Sys2Proof.Machine.execImax o s
  | .iminu o => Sys2Proof.Machine.execIminu o s
  | .imaxu o => Sys2Proof.Machine.execImaxu o s
  | .iabs o => Sys2Proof.Machine.execIabs o s
  | .ineg o => Sys2Proof.Machine.execIneg o s
  | .ipopc o => Sys2Proof.Machine.execIpopc o s
  | .iclz o => Sys2Proof.Machine.execIclz o s
  | .ibrev o => Sys2Proof.Machine.execIbrev o s
  | .isel o => Sys2Proof.Machine.execIsel o s
  | .icmpEq o => Sys2Proof.Machine.execIcmpEq o s
  | .icmpNe o => Sys2Proof.Machine.execIcmpNe o s
  | .icmpLt o => Sys2Proof.Machine.execIcmpLt o s
  | .icmpLe o => Sys2Proof.Machine.execIcmpLe o s
  | .icmpLtu o => Sys2Proof.Machine.execIcmpLtu o s
  | .icmpLeu o => Sys2Proof.Machine.execIcmpLeu o s
  | .iaddImm o => Sys2Proof.Machine.execIaddImm o s
  | .isubImm o => Sys2Proof.Machine.execIsubImm o s
  | .imulImm o => Sys2Proof.Machine.execImulImm o s
  | .iandImm o => Sys2Proof.Machine.execIandImm o s
  | .iorImm o => Sys2Proof.Machine.execIorImm o s
  | .ixorImm o => Sys2Proof.Machine.execIxorImm o s
  | .ishlImm o => Sys2Proof.Machine.execIshlImm o s
  | .ishrImm o => Sys2Proof.Machine.execIshrImm o s
  | .israImm o => Sys2Proof.Machine.execIsraImm o s
  | .iminImm o => Sys2Proof.Machine.execIminImm o s
  | .imaxImm o => Sys2Proof.Machine.execImaxImm o s
  | .iminuImm o => Sys2Proof.Machine.execIminuImm o s
  | .imaxuImm o => Sys2Proof.Machine.execImaxuImm o s
  | .vli o => Sys2Proof.Machine.execVli o s
  | .pair hi lo => Sys2Proof.Machine.execPair hi lo s
  | .vmov o => Sys2Proof.Machine.execVmov o s
  | .vperm o => Sys2Proof.Machine.execVperm o s
  | .vredx o => Sys2Proof.Machine.execVredx o s
  | .vscan o => Sys2Proof.Machine.execVscan o s
  | .vlane o => Sys2Proof.Machine.execVlane o s
  | .vput o => Sys2Proof.Machine.execVput o s
  | .pand o => Sys2Proof.Machine.execPand o s
  | .por o => Sys2Proof.Machine.execPor o s
  | .pxor o => Sys2Proof.Machine.execPxor o s
  | .pnot o => Sys2Proof.Machine.execPnot o s
  | .pmov o => Sys2Proof.Machine.execPmov o s
  | .pany o => Sys2Proof.Machine.execPany o s
  | .pall o => Sys2Proof.Machine.execPall o s
  | .ppopc o => Sys2Proof.Machine.execPpopc o s
  | .pfirst o => Sys2Proof.Machine.execPfirst o s
  | .zset o => Sys2Proof.Machine.execZset o s
  | .zget o => Sys2Proof.Machine.execZget o s
  | .zmov o => Sys2Proof.Machine.execZmov o s
  | .xset o => Sys2Proof.Machine.execXset o s
  | .xsetImm o => Sys2Proof.Machine.execXsetImm o s
  | .xidx o => Sys2Proof.Machine.execXidx o s
  | .xinc o => Sys2Proof.Machine.execXinc o s
  | .xget o => Sys2Proof.Machine.execXget o s
  | .kset o => Sys2Proof.Machine.execKset o s
  | .fmtset o => Sys2Proof.Machine.execFmtset o s
  | .fmtget o => Sys2Proof.Machine.execFmtget o s
  | .vldG o => Sys2Proof.Machine.execVldG o s
  | .vstG o => Sys2Proof.Machine.execVstG o s
  | .vldS o => Sys2Proof.Machine.execVldS o s
  | .vstS o => Sys2Proof.Machine.execVstS o s
  | .vgath o => Sys2Proof.Machine.execVgath o s
  | .vscat o => Sys2Proof.Machine.execVscat o s
  | .stmap o => Sys2Proof.Machine.execStmap o s
  | .stunmap o => Sys2Proof.Machine.execStunmap o s
  | .stflush o => Sys2Proof.Machine.execStflush o s
  | .stinv o => Sys2Proof.Machine.execStinv o s
  | .mboxPut o => Sys2Proof.Machine.execMboxPut o s
  | .mboxGet o => Sys2Proof.Machine.execMboxGet o s
  | .fence o => Sys2Proof.Machine.execFence o s
  | .vatomAdd o => Sys2Proof.Machine.execVatomAdd o s
  | .vatomMin o => Sys2Proof.Machine.execVatomMin o s
  | .vatomMax o => Sys2Proof.Machine.execVatomMax o s
  | .vatomAnd o => Sys2Proof.Machine.execVatomAnd o s
  | .vatomOr o => Sys2Proof.Machine.execVatomOr o s
  | .vatomXor o => Sys2Proof.Machine.execVatomXor o s
  | .vatomXchg o => Sys2Proof.Machine.execVatomXchg o s
  | .vatomCas o => Sys2Proof.Machine.execVatomCas o s
  | .vredAdd o => Sys2Proof.Machine.execVredAdd o s
  | .vredMin o => Sys2Proof.Machine.execVredMin o s
  | .vredMax o => Sys2Proof.Machine.execVredMax o s
  | .vredAnd o => Sys2Proof.Machine.execVredAnd o s
  | .vredOr o => Sys2Proof.Machine.execVredOr o s
  | .vredXor o => Sys2Proof.Machine.execVredXor o s
  | .barT o => Sys2Proof.Machine.execBarT o s
  | .barC o => Sys2Proof.Machine.execBarC o s
  | .barG o => Sys2Proof.Machine.execBarG o s
  | .cpy o => Sys2Proof.Machine.execCpy o s
  | .cpyWany o => Sys2Proof.Machine.execCpyWany o s
  | .cpyWall o => Sys2Proof.Machine.execCpyWall o s
  | .cpyFfr o => Sys2Proof.Machine.execCpyFfr o s
  | .cpyCancel o => Sys2Proof.Machine.execCpyCancel o s
  | .comb o => Sys2Proof.Machine.execComb o s
  | .mxgo o => Sys2Proof.Machine.execMxgo o s
  | .accRd o => Sys2Proof.Machine.execAccRd o s
  | .accWr o => Sys2Proof.Machine.execAccWr o s
  | .accZero o => Sys2Proof.Machine.execAccZero o s
  | .fsend o => Sys2Proof.Machine.execFsend o s
  | .fsendS o => Sys2Proof.Machine.execFsendS o s
  | .frecv o => Sys2Proof.Machine.execFrecv o s
  | .dlinkStat o => Sys2Proof.Machine.execDlinkStat o s
  | .dlinkTurn o => Sys2Proof.Machine.execDlinkTurn o s
  | .mxMma o => Sys2Proof.Machine.execMxMma o s
  | .mxZero o => Sys2Proof.Machine.execMxZero o s
  | .mxBar o => Sys2Proof.Machine.execMxBar o s
  | .mxFmt o => Sys2Proof.Machine.execMxFmt o s
  | .mxEnd o => Sys2Proof.Machine.execMxEnd o s
  | .vbr o => Sys2Proof.Machine.execVbr o s
  | .vjoin o => Sys2Proof.Machine.execVjoin o s
  | .vexit o => Sys2Proof.Machine.execVexit o s
  | .yield o => Sys2Proof.Machine.execYield o s
  | .exit o => Sys2Proof.Machine.execExit o s
  | .rtt o => Sys2Proof.Machine.execRtt o s
  | .ckpt o => Sys2Proof.Machine.execCkpt o s
  | .sigMark o => Sys2Proof.Machine.execSigMark o s
  | .halt o => Sys2Proof.Machine.execHalt o s
  | .wait o => Sys2Proof.Machine.execWait o s
  | .reform o => Sys2Proof.Machine.execReform o s
  | .trap o => Sys2Proof.Machine.execTrap o s
  | .brk o => Sys2Proof.Machine.execBrk o s
  | .sadd o => Sys2Proof.Machine.execSadd o s
  | .ssub o => Sys2Proof.Machine.execSsub o s
  | .smul o => Sys2Proof.Machine.execSmul o s
  | .smulh o => Sys2Proof.Machine.execSmulh o s
  | .sdiv o => Sys2Proof.Machine.execSdiv o s
  | .srem o => Sys2Proof.Machine.execSrem o s
  | .sand o => Sys2Proof.Machine.execSand o s
  | .sor o => Sys2Proof.Machine.execSor o s
  | .sxor o => Sys2Proof.Machine.execSxor o s
  | .sshl o => Sys2Proof.Machine.execSshl o s
  | .sshr o => Sys2Proof.Machine.execSshr o s
  | .ssra o => Sys2Proof.Machine.execSsra o s
  | .smin o => Sys2Proof.Machine.execSmin o s
  | .smax o => Sys2Proof.Machine.execSmax o s
  | .sminu o => Sys2Proof.Machine.execSminu o s
  | .smaxu o => Sys2Proof.Machine.execSmaxu o s
  | .sclz o => Sys2Proof.Machine.execSclz o s
  | .spopc o => Sys2Proof.Machine.execSpopc o s
  | .sext o => Sys2Proof.Machine.execSext o s
  | .sins o => Sys2Proof.Machine.execSins o s
  | .ssel o => Sys2Proof.Machine.execSsel o s
  | .smov o => Sys2Proof.Machine.execSmov o s
  | .sli o => Sys2Proof.Machine.execSli o s
  | .slih o => Sys2Proof.Machine.execSlih o s
  | .scmpEq o => Sys2Proof.Machine.execScmpEq o s
  | .scmpNe o => Sys2Proof.Machine.execScmpNe o s
  | .scmpLt o => Sys2Proof.Machine.execScmpLt o s
  | .scmpLe o => Sys2Proof.Machine.execScmpLe o s
  | .scmpLtu o => Sys2Proof.Machine.execScmpLtu o s
  | .scmpLeu o => Sys2Proof.Machine.execScmpLeu o s
  | .cand o => Sys2Proof.Machine.execCand o s
  | .cor o => Sys2Proof.Machine.execCor o s
  | .cnot o => Sys2Proof.Machine.execCnot o s
  | .bra o => Sys2Proof.Machine.execBra o s
  | .bcc o => Sys2Proof.Machine.execBcc o s
  | .call o => Sys2Proof.Machine.execCall o s
  | .ret o => Sys2Proof.Machine.execRet o s
  | .jr o => Sys2Proof.Machine.execJr o s
  | .loop o => Sys2Proof.Machine.execLoop o s
  | .sldB o => Sys2Proof.Machine.execSldB o s
  | .sldH o => Sys2Proof.Machine.execSldH o s
  | .sldW o => Sys2Proof.Machine.execSldW o s
  | .sldD o => Sys2Proof.Machine.execSldD o s
  | .sstB o => Sys2Proof.Machine.execSstB o s
  | .sstH o => Sys2Proof.Machine.execSstH o s
  | .sstW o => Sys2Proof.Machine.execSstW o s
  | .sstD o => Sys2Proof.Machine.execSstD o s
  | .spop o => Sys2Proof.Machine.execSpop o s
  | .srd o => Sys2Proof.Machine.execSrd o s
  | .swr o => Sys2Proof.Machine.execSwr o s
  | .tlbiComplete vf => Sys2Proof.Machine.execTlbiComplete vf s
  | .loadDataReturn g op outcome => Sys2Proof.Machine.execLoadDataReturn g op outcome s
  | .storePerformed g op outcome => Sys2Proof.Machine.execStorePerformed g op outcome s
  | .stashFill core row => Sys2Proof.Machine.execStashFill core row s
  | .rowRecall line => Sys2Proof.Machine.execRecall line s
  | .sliceSweep leaf slice => Sys2Proof.Machine.execSliceSweep leaf slice s
  | .patrolScrub line errors => Sys2Proof.Machine.execPatrolScrub line errors s
  | .containmentEvent part pa level path => Sys2Proof.Machine.execContainmentEvent part pa level path s
  | .handlerEntry g => Sys2Proof.Machine.execHandlerEntry g s
  | .fatalTrap g => Sys2Proof.Machine.execFatalTrap g s
  | .replayableFault g => Sys2Proof.Machine.execReplayableFault g s
  | .faultRecordPost ring => Sys2Proof.Machine.execFaultRecordPost ring s
  | .faultReplay g => Sys2Proof.Machine.execFaultReplay g s
  | .freplay ring value => Sys2Proof.Machine.execFreplay ring value s
  | .debugEvent g => Sys2Proof.Machine.execDebugEvent g s
  | .dbgres part value => Sys2Proof.Machine.execDbgres part value s
  | .dbgdatWrite part value => Sys2Proof.Machine.execDbgdatWrite part value s
  | .dbgunlk part value => Sys2Proof.Machine.execDbgunlk part value s
  | .dbgtok part value => Sys2Proof.Machine.execDbgtok part value s
  | .trig vf value => Sys2Proof.Machine.execTrig vf value s
  | .gload vf value => Sys2Proof.Machine.execGload vf value s
  | .launchStart vf slot => Sys2Proof.Machine.execLaunchStart vf slot s
  | .dispatchStep => Sys2Proof.Machine.execDispatchStep s
  | .eventWaitPoll vf slot node => Sys2Proof.Machine.execEventWaitPoll vf slot node s
  | .kernelComplete vf slot node => Sys2Proof.Machine.execKernelComplete vf slot node s
  | .launchComplete vf slot => Sys2Proof.Machine.execLaunchComplete vf slot s
  | .clusterRetire cluster => Sys2Proof.Machine.execClusterRetire cluster s
  | .barrierComplete b => Sys2Proof.Machine.execBarrierComplete b s
  | .binDraw bin => Sys2Proof.Machine.execBinDraw bin s
  | .reformDraw team quad => Sys2Proof.Machine.execReformDraw team quad s
  | .copyComplete g tag pieces => Sys2Proof.Machine.execCopyComplete g tag pieces s
  | .copyCancelStop g tag pieces => Sys2Proof.Machine.execCopyCancelStop g tag pieces s
  | .spineChunkSelect engine => Sys2Proof.Machine.execSpineChunkSelect engine s
  | .spineChunkComplete engine error => Sys2Proof.Machine.execSpineChunkComplete engine error s
  | .budgetRefill vf cls bytes => Sys2Proof.Machine.execBudgetRefill vf cls bytes s
  | .remoteCopyAck vf slot node chunk ok => Sys2Proof.Machine.execRemoteCopyAck vf slot node chunk ok s
  | .streamFetch team error => Sys2Proof.Machine.execStreamFetch team error s
  | .mxStepComplete team source => Sys2Proof.Machine.execMxStepComplete team source s
  | .streamFault team => Sys2Proof.Machine.execStreamFault team s
  | .preemption cluster => Sys2Proof.Machine.execPreemption cluster s
  | .atckTimeout g => Sys2Proof.Machine.execAtckTimeout g s
  | .spill cluster => Sys2Proof.Machine.execSpill cluster s
  | .clusterRestore cluster => Sys2Proof.Machine.execClusterRestore cluster s
  | .pmodeWrite part value => Sys2Proof.Machine.execPmodeWrite part value s
  | .applyCmd part => Sys2Proof.Machine.execApplyCmd part s
  | .partitionHalt part value => Sys2Proof.Machine.execPartitionHalt part value s
  | .resume part value => Sys2Proof.Machine.execResume part value s
  | .discard part value => Sys2Proof.Machine.execDiscard part value s
  | .deadlinePost part value => Sys2Proof.Machine.execDeadlinePost part value s
  | .deadlineSwitch part => Sys2Proof.Machine.execDeadlineSwitch part s
  | .evictionReport part => Sys2Proof.Machine.execEvictionReport part s
  | .ps2inv part value => Sys2Proof.Machine.execPs2inv part value s
  | .stage2InvalComplete part => Sys2Proof.Machine.execStage2InvalComplete part s
  | .turnWindow => Sys2Proof.Machine.execTurnWindow s
  | .bundleTurnEnd leaf => Sys2Proof.Machine.execBundleTurnEnd leaf s
  | .fabricArrival m => Sys2Proof.Machine.execFabricArrival m s
  | .nackReceive vf dev part mbx reason => Sys2Proof.Machine.execNackReceive vf dev part mbx reason s
  | .fabricAccept g op => Sys2Proof.Machine.execFabricAccept g op s
  | .portDown port => Sys2Proof.Machine.execPortDown port s
  | .mailboxEnable vf mbx value => Sys2Proof.Machine.execMailboxEnable vf mbx value s
  | .linkRetry failures => Sys2Proof.Machine.execLinkRetry failures s
  | .linkRetrain ok => Sys2Proof.Machine.execLinkRetrain ok s
  | .companionAccess pa bytes data => Sys2Proof.Machine.execCompanionAccess pa bytes data s
  | .wiunoSnoop line exclusive => Sys2Proof.Machine.execWiunoSnoop line exclusive s
  | .signatureBoundary team => Sys2Proof.Machine.execSignatureBoundary team s
  | .logStall part => Sys2Proof.Machine.execLogStall part s
  | .anchor part n => Sys2Proof.Machine.execAnchor part n s
  | .anchdone part n => Sys2Proof.Machine.execAnchdone part n s
  | .replay part n => Sys2Proof.Machine.execReplay part n s
  | .abort part => Sys2Proof.Machine.execAbort part s
  | .replayLoaded part => Sys2Proof.Machine.execReplayLoaded part s
  | .replayHoldRelease g op => Sys2Proof.Machine.execReplayHoldRelease g op s
  | .heldAccessTimeout g => Sys2Proof.Machine.execHeldAccessTimeout g s
  | .rfmTimeout g => Sys2Proof.Machine.execRfmTimeout g s
  | .arrTimeout g => Sys2Proof.Machine.execArrTimeout g s
  | .replayBreakpoint part => Sys2Proof.Machine.execReplayBreakpoint part s
  | .endOfLog part => Sys2Proof.Machine.execEndOfLog part s
  | .pcSample core quad => Sys2Proof.Machine.execPcSample core quad s
  | .glitchSensor => Sys2Proof.Machine.execGlitchSensor s
  | .getVersion => Sys2Proof.Machine.execGetVersion s
  | .getCapabilities => Sys2Proof.Machine.execGetCapabilities s
  | .negotiateAlgorithms asym hash => Sys2Proof.Machine.execNegotiateAlgorithms asym hash s
  | .getDigests => Sys2Proof.Machine.execGetDigests s
  | .getCertificate certSlot => Sys2Proof.Machine.execGetCertificate certSlot s
  | .challenge certSlot nonce => Sys2Proof.Machine.execChallenge certSlot nonce s
  | .getMeasurements index => Sys2Proof.Machine.execGetMeasurements index s
  | .load value => Sys2Proof.Machine.execLoad value s
  | .fabrst => Sys2Proof.Machine.execFabrst s
  | .dbgkey value => Sys2Proof.Machine.execDbgkey value s
  | .powerGood => Sys2Proof.Machine.execPowerGood s
  | .powerWindow milliwatts => Sys2Proof.Machine.execPowerWindow milliwatts s
  | .thermalSensor celsius => Sys2Proof.Machine.execThermalSensor celsius s
  | .registerWrite sender pa value => Sys2Proof.Machine.execRegisterWrite sender pa value s
  | .remoteCopyWrite srcDev vf addr data => Sys2Proof.Machine.execRemoteCopyWrite srcDev vf addr data s
  | .transitForward dev cls => Sys2Proof.Machine.execTransitForward dev cls s
  | .fuseSenseCheck => Sys2Proof.Machine.execFuseSenseCheck s
  | .powerOff => Sys2Proof.Machine.execPowerOff s
  | .bringUpStepDone error => Sys2Proof.Machine.execBringUpStepDone error s

end Sys2Proof.Machine
end

