-- ==== Sys2Proof/Machine/Run.lean ====
section
/-! DEFINITION. What a step does: whose turn it is (the agenda, or a free choice among what the part does by itself), the issue
of a group's next word with the order of R307 and the decoded registers of R310, and what is due after every step. -/
namespace Sys2Proof.Machine

-- ## refused words (R76, R303, R310)

/-- Bits of a word as the bits of a decoded register. -/
def moved (w : Word) (lo n dst : Nat) : Word := (w >>> lo &&& (BitVec.ofNat 64 (2 ^ n - 1))) <<< dst

/-- The scalar register a word names: SB of layout M, SB1 of layout E, SA of the S-form, s(IMM 5:0) of the I-form with SR = 1. -/
def namedScalar (w : Word) : Option Nat :=
  let op := wfield w 54 8
  match wfield w 62 2 with
  | 0 => if 0x80 ≤ op ∧ op < 0xD8 ∧ !(0xAF ≤ op ∧ op ≤ 0xB1) then some (wfield w 19 6) else none
  | 1 => none
  | 2 => if w.getLsbD 37 then some (wfield w 0 6) else none
  | _ => some (wfield w 39 6)

/-- TDEC1 of a word: kind, OP, PRED, FMT, D, A and B; of the failing half for a P-form word. -/
def tdec1 (w : Word) (half : Nat) : Word :=
  let b := Enc.halfBase half
  match wfield w 62 2 with
  | 0 => moved w 48 16 48 ||| moved w 38 10 38 ||| moved w 28 10 28 ||| moved w 15 10 18
  | 1 => moved w 62 2 62 ||| moved w (b + 25) 6 54 ||| moved w b 2 48 ||| moved w (b + 15) 10 38 ||| moved w (b + 5) 10 28
  | 2 => moved w 48 16 48 ||| moved w 38 10 38
  | _ => moved w 51 13 51 ||| moved w 45 6 38 ||| moved w 39 6 28 ||| moved w 33 6 18

/-- TDEC2 of a word: IMM, EXT, the permutes, and ISEL or SR. -/
def tdec2 (w : Word) (half : Nat) : Word :=
  match wfield w 62 2 with
  | 0 => moved w 0 12 20 ||| moved w 25 3 17 ||| moved w 12 3 14
  | 1 => moved w (Enc.halfBase half + 2) 3 17
  | 2 => moved w 0 32 32 ||| moved w 37 1 13
  | _ => moved w 0 32 32 ||| moved w 32 1 13

/-- The trap of a refused word, with its decoded registers (R303, R310). -/
def refusedTrap (g : Group) (w : Word) (b : Enc.Bad) : TrapReq :=
  let half := b.half.getD 0
  let pf := match b.half with | some h => 2 ^ 94 + h * 2 ^ 95 | none => 0
  { mkTrap b.group b.code (w.toNat + b.bit * 2 ^ 64 + pf) with
    pc := g.pc, dec := [w, tdec1 w half, tdec2 w half, ((namedScalar w).map g.getS).getD 0] }

-- ## the next word of a group

/-- A cluster's groups issue: it is resident, and not stopping but at checkpoints (R327, R330). -/
def State.issues (s : State) (cl : Nat) : Bool :=
  match s.cluster? cl with
  | some c => c.residence == .resident && (!c.halting || c.atck)
  | none => false

/-- The logs and the replay of a group's partition let it issue: no record of its core waits for room (R401), no boundary of its
team is due (R394), and in REPLAY it stands before the next boundary, the breakpoint and the end of the log (R406). -/
def State.logLets (s : State) (g : Group) : Bool :=
  match s.partOf g.id.vf, s.team? g.id.team with
  | some p, some t =>
    s.log g.id.vf == 0 ||
      (!(p.log.pending.any fun x => x.core == g.id.core) && !s.boundaryDue t && !(s.log g.id.vf == 2 && (s.atBoundary t g || s.atLogEnd t g || s.breakTeam p t && g.atStart t)))
  | _, _ => false

/-- The group may issue its next word. -/
def State.mayIssue (s : State) (g : Group) : Bool :=
  g.wait == .run && g.trap.entry.isNone && g.live != 0 && s.issues g.id.cluster && s.logLets g

/-- The word at the group's PC: fetched through both translation stages as an instruction fetch (R218). -/
def State.fetchWord (s : State) (g : Group) : Except TrapReq Word × State :=
  match s.translate g.asker .fetch g.pc with
  | (.error t, s1) => (.error t, s1)
  | (.ok (pa, _), s1) =>
    let (bs, s2) := s1.readMem pa 8
    (.ok (BitVec.ofNat 64 (leNat bs)), s2)

/-- What comes before the next word of a group (R307): a replay that has passed a logged event diverges, then a breakpoint,
then an asynchronous trap. -/
def State.beforeWord (s : State) (g : Group) : Option State :=
  match s.lateEvent g with
  | some (code, kind) => some (s.divergeGroup g code kind g.ltime)
  | none => match s.breakpoint g with
    | some t => some (s.takeTrap g t)
    | none => if g.takesAsync then some (s.takeAsync g) else none

/-- A refused word traps, once the scalar register it names has its value. -/
def State.refuse (s : State) (g : Group) (w : Word) (b : Enc.Bad) : State :=
  if (namedScalar w).any fun n => g.ops.any fun o => o.dests.contains (1000 + n) then s else s.takeTrap g (refusedTrap g w b)

/-- A word is of the kind of an event that the log has at its count (R396, R405). A walk can give any word a read token. -/
def fitsWord (i : Instr) (e : LogEvent) : Bool :=
  let a := e.a.toNat % 65536
  let memory : Bool := match Enc.shape i with
    | .m _ _ _ => true
    | .a _ _ _ | .c _ _ _ | .i _ _ _ | .e _ _ _ | .q _ _ _ | .s _ _ _ | .p _ _ | .event => false
  match e.code, i with
  | 2, .sstB _ | 2, .sstH _ | 2, .sstW _ | 2, .sstD _ | 3, .sstB _ | 3, .sstH _ | 3, .sstW _ | 3, .sstD _ => true
  | 2, .cpy _ | 3, .cpy _ | 2, .comb _ | 3, .comb _ | 2, .fsend _ | 2, .fsendS _ => true
  | 2, _ | 3, _ => memory || wfield (nth 0 e.more 0) 16 3 != 0
  | 4, .srd _ => decide (a < 0x1000)
  | 4, .accRd _ => decide (0x1000 ≤ a ∧ a < 0x2000)
  | 4, .dlinkStat _ => a == 0x2000
  | 4, .cpyCancel _ => decide (0x3000 ≤ a ∧ a < 0x3040)
  | 4, .cpyWany _ => a == 0x3040
  | 4, .cpyFfr _ => a == 0x3041
  | 4, _ => false
  | 7, .frecv _ => true
  | 7, _ => false
  | 9, .sldB _ | 9, .sldH _ | 9, .sldW _ | 9, .sldD _ => true
  | 9, _ => memory
  | _, _ => true

/-- In REPLAY, the log has an event at a group's count that its next word is not of the kind of. -/
def State.unfit (s : State) (g : Group) (i : Instr) : Bool :=
  s.log g.id.vf == 2 && (s.eventsAt g.collator).any fun e => sameTime e.time g.ltime && !fitsWord i e

/-- A group issues its next word; in REPLAY one that does not fit the log at its count diverges (R405). -/
def State.issueWord (s : State) (key : Nat) : Host.Outcome State Fault Refusal :=
  match s.group? key with
  | none => .next s
  | some g =>
    if !s.mayIssue g then .next s
    else match s.beforeWord g with
      | some s1 => .next s1
      | none => match s.fetchWord g with
        | (.error t, s1) => .next (if t.grp = 31 then s else s1.takeTrap (s1.current g g) { t with pc := g.pc })
        | (.ok w, s1) => match Dec.group w with
          | .ok i => if s.unfit g i then .next (s.divergeGroup g 4 3 g.ltime) else exec i { s1 with cur := .group key }
          | .bad b => .next (s1.refuse (s1.current g g) w b)

/-- An uncorrectable error of cause group 20 can strike a word: code 6 any, code 5 one that reads the row, code 4 an `acc.rd` of
the tile row (R295, R316). -/
def strikes (g : Group) (i : Instr) (code detail : Nat) : Bool :=
  match code with
  | 6 => true
  | 5 => decide (detail < 768) && (wordUses g i).reads.contains detail
  | 4 => match i with
    | .accRd o => detail == 32 * o.sco.toNat + g.tileRow o
    | _ => false
  | _ => false

/-- The next word of a group meets an uncorrectable error: it traps before any state changes. -/
def State.errorAt (s : State) (key code detail : Nat) : State :=
  match s.group? key with
  | none => s
  | some g =>
    if !s.mayIssue g then s
    else match s.beforeWord g with
      | some s1 => s1
      | none => match s.fetchWord g with
        | (.error _, _) => s
        | (.ok w, s1) => match Dec.group w with
          | .ok i => if strikes g i code detail && !g.interlocked (wordUses g i) then
              let t := mkTrap 20 code (if code = 6 then g.pc.toNat else detail)
              s1.takeTrap (s1.current g g) { (if code = 5 then t.atWord i fun h => (g.halfReads h).contains detail else t) with pc := g.pc } else s
          | .bad _ => if code = 6 then s1.takeTrap (s1.current g g) { mkTrap 20 6 g.pc.toNat with pc := g.pc } else s

/-- The fetched word of a team's sequencer issues (R286, R288). -/
def State.streamWord (s : State) (team : Nat) : Host.Outcome State Fault Refusal :=
  match (s.team? team).bind fun t => t.seqr.word with
  | none => .next s
  | some w => match Dec.stream w with
    | .ok i => exec i { s with cur := .seqr team }
    | .bad _ => .next s

/-- The next piece of a core copy moves (R269). -/
def State.movePieceOf (s : State) (g tag : Nat) : State :=
  match s.cmdOf g tag with
  | some c => (s.movePiece c).1
  | none => s

-- ## events

/-- What still happens to a part without power, or halted by an alarm: power, and requests of the attestation link (R429 to R431). -/
def asleep (i : Instr) : Bool :=
  match i with
  | .powerGood | .powerOff | .getVersion | .getCapabilities | .negotiateAlgorithms _ _ | .getDigests | .getCertificate _
  | .challenge _ _ | .getMeasurements _ => true
  | _ => false

/-- The part has power and has not been halted. -/
def State.awake (s : State) : Bool := s.device.step != 0 && !s.halted

/-- An event happens. -/
def State.event (s : State) (i : Instr) : Host.Outcome State Fault Refusal :=
  match Enc.shape i with
  | .event => if s.awake || asleep i then exec i s else .next s
  | _ => .next s

-- ## what is due after every step

/-- Graph loads whose walk a replay held are tried again (R393). -/
def State.retryLoads (s : State) : State :=
  s.vfs.foldl (fun s v =>
    let (now, rest) := v.gloadWait.partition fun e => e.2 == 2 ^ 33
    if now.isEmpty then s else now.foldl (fun s e => s.gload v.num e.1) (s.setVf { s.vf v.num with gloadWait := rest })) s

/-- What follows of itself: slots of groups that are done become vacant (R149), commands under way complete (R322, R323, R400),
vacant queues of an eviction are noted (R341), sampled instructions report (R423), spine signatures that are full close (R397), and
operations that may perform enter their streams (R205). -/
def State.settle (s : State) : State :=
  let s1 := (List.range 12).foldl (fun s n => ((((s.finishApply n).finishWeights n).finishHalt n |>.finishAnchor n).noteVacant n).noteCap n) s.reap
  s1.settleSamples.retryLoads.closeSpines.inject

-- ## what the part does by itself

/-- The word a group would issue does something now: it neither waits nor stalls. -/
def State.ready (s : State) (g : Group) : Bool :=
  s.mayIssue g && (match s.issueWord g.id.key with
    | .next s1 => s1.group? g.id.key != some g
    | .fault _ | .refused _ => false)

/-- The group that a quadrant issues from (R174): one passed over 1,024 times, or the lowest class, and of those the oldest. -/
def pickGroup (l : List Group) : Option Group :=
  match l.find? fun g => 1024 ≤ g.id.passed with
  | some g => some g
  | none => l.foldl (fun (b : Option Group) g => match b with
      | none => some g
      | some h => if g.id.cls < h.id.cls ∨ (g.id.cls = h.id.cls ∧ g.id.age < h.id.age) then some g else b) none

/-- The ready groups of a quadrant. -/
def State.readyOn (s : State) (core quad : Nat) : List Group := s.groups.filter fun g => g.id.core == core && g.id.quad == quad && s.ready g

/-- A group of the quadrant issues: every other ready one has been passed over once more. -/
def State.passOver (s : State) (key : Nat) : State :=
  match s.group? key with
  | none => s
  | some g =>
    let others := (s.readyOn g.id.core g.id.quad).map (·.id.key)
    let count (h : Group) : Group :=
      if h.id.core = g.id.core ∧ h.id.quad = g.id.quad then
        { h with id := { h.id with passed := if h.id.key != key && others.contains h.id.key then h.id.passed + 1 else 0 } }
      else h
    { s with groups := s.groups.map count }

/-- Something that may happen of itself. -/
abbrev Turn := State → Host.Outcome State Fault Refusal

/-- What a group and its accesses may do next, beside issuing. -/
def State.groupTurns (s : State) (g : Group) : List Turn :=
  let k := g.id.key
  let op (o : MemOp) : Turn := match o.kind with
    | .fsend _ => execFabricAccept k o.id
    | .load | .rmw _ | .mboxGet _ | .sload _ | .frecv _ _ => execLoadDataReturn k o.id 0
    | .store | .red _ | .mboxPut _ => execStorePerformed k o.id 0
  let traps : List Turn := if g.trap.entry.isSome || !g.trap.async.isEmpty then [execHandlerEntry k, execFatalTrap k, execReplayableFault k, execDebugEvent k] else []
  let waits : List Turn := match g.wait with | .fault _ _ => [execFaultReplay k] | .run | .bar _ | .debug _ | .stopped | .ended => []
  let times : List Turn := if s.log g.id.vf = 2 then [execHeldAccessTimeout k, execRfmTimeout k, execArrTimeout k] else []
  let fills : List Turn := (g.ops.filter fun o => o.space == .stash).flatMap fun o => o.parts.map fun p =>
    execStashFill (p.addr / Config.stashBytes) (p.addr / lineBytes % 4096)
  g.ops.map op ++ traps ++ waits ++ times ++ fills ++ [execAtckTimeout k]

/-- What a core copy may do next: its next piece, its completion, its stop. -/
def copyTurns (c : CopyCmd) : List Turn :=
  [fun s => .next (s.movePieceOf c.group c.tag), execCopyComplete c.group c.tag c.total] ++ (if c.cancelled then [execCopyCancelStop c.group c.tag 0] else [])

/-- What a team and its sequencer may do next. -/
def teamTurns (t : Team) : List Turn :=
  [fun s => s.streamWord t.key, execStreamFetch t.key false, execMxStepComplete t.key 0, execStreamFault t.key, execSignatureBoundary t.key] ++
    ((List.range 4).map fun q => execReformDraw t.key q) ++ ((List.range 16).map fun n => execBarrierComplete (.team t.key n))

/-- What a cluster may do next. -/
def clusterTurns (c : Cluster) : List Turn :=
  [execClusterRetire c.key, execPreemption c.key, execSpill c.key, execClusterRestore c.key, execBarrierComplete (.cluster c.key),
    execBarrierComplete (.grid c.vf c.gslot c.node)]

/-- A virtual function has a spine command under way. -/
def Vf.copying (v : Vf) : Bool := v.slots.any fun (_, sl) => sl.running.any fun l => l.nodes.any fun n => n.copy.isSome

/-- What a virtual function and its launches may do next. -/
def vfTurns (v : Vf) : List Turn :=
  let slots : List Turn := v.slots.flatMap fun (k, sl) => match sl.running with
    | some l => [execLaunchStart v.num k, execLaunchComplete v.num k] ++ l.nodes.flatMap fun n => [execKernelComplete v.num k n.idx, execEventWaitPoll v.num k n.idx]
    | none => [execLaunchStart v.num k]
  let refills : List Turn := if v.copying then (List.range 4).map fun c => execBudgetRefill v.num c 4096 else []
  slots ++ refills ++ (if v.tlbi.isSome then [execTlbiComplete v.num] else []) ++ (if v.ring.queue.isEmpty then [] else [execFaultRecordPost (.vf v.num)])

/-- What a partition may do next. -/
def partTurns (p : Partition) : List Turn :=
  let n := p.num
  (if p.evict.isSome then [execDeadlineSwitch n, execEvictionReport n] else []) ++ (if p.ps2pend.isSome then [execStage2InvalComplete n] else [])
    ++ (if p.log.pending.isEmpty then [] else [execLogStall n])
    ++ (if p.log.rpstat.toNat % 256 = 2 then [execReplayLoaded n] else [])
    ++ (if p.log.rpstat.toNat % 256 = 3 then [execReplayBreakpoint n, execEndOfLog n, execReplayHoldRelease 0 0] else [])
    ++ (if p.host.queue.isEmpty then [] else [execFaultRecordPost (.host n)])
    ++ (if p.dbg.ring.queue.isEmpty then [] else [execFaultRecordPost (.debug n)])

/-- What the rest of the part may do next. -/
def State.deviceTurns (s : State) : List Turn :=
  (((s.slices.filter fun x => !(s.part x.part).force.pway.getLsbD x.way).map fun x => (x.leaf, x.slice)).eraseDups.map fun x => execSliceSweep x.1 x.2)
    ++ (((s.groups.map fun g => (g.id.core, g.id.quad)).eraseDups).map fun x => execPcSample x.1 x.2)
    ++ (if s.vfs.any Vf.copying then (List.range 8).flatMap fun e => [execSpineChunkSelect e, execSpineChunkComplete e 0] else [])
    ++ ((s.fabric.sent.filter fun m => dstDev m.msg.dst == s.deviceNum).map fun m => execFabricArrival m.msg)
    ++ (s.fabric.held.map fun m => execFabricArrival m.msg)
    ++ (if 1 ≤ s.device.step ∧ s.device.step < 7 then [execBringUpStepDone 0] else [])
    ++ (if s.window < s.ns / 2000 then [execTurnWindow] else [])
    ++ (((List.range 4).filter fun n => !(nth DieLink.reset s.links n).turning.isEmpty).map fun n => execBundleTurnEnd n)
    ++ (if (s.vfs.any fun v => v.queues.any fun q => !q.isEmpty) || (s.parts.any fun p => p.log.rpstat.toNat % 256 == 3 && p.log.spine.any fun e => e.code == 0x20)
        then [execDispatchStep] else [])
    ++ s.bins.map fun b => execBinDraw b.id

/-- Everything that may happen next of itself. -/
def State.turns (s : State) : List Turn :=
  let places := (s.groups.map fun g => (g.id.core, g.id.quad)).eraseDups
  (places.filterMap fun x => (pickGroup (s.readyOn x.1 x.2)).map fun g => fun (s : State) => (s.passOver g.id.key).issueWord g.id.key)
    ++ s.groups.flatMap s.groupTurns ++ s.copies.flatMap copyTurns ++ s.teams.flatMap teamTurns ++ s.clusters.flatMap clusterTurns
    ++ s.vfs.flatMap vfTurns ++ s.parts.flatMap partTurns ++ s.deviceTurns

/-- One entry of the agenda happens. -/
def State.act (s : State) (a : Agenda) : Host.Outcome State Fault Refusal :=
  match a with
  | .event i => s.event i
  | .issue key => if s.awake then s.issueWord key else .next s
  | .error key code detail => .next (if s.awake then s.errorAt key code detail else s)
  | .stream team => if s.awake then s.streamWord team else .next s
  | .piece g tag => .next (if s.awake then s.movePieceOf g tag else s)
  | .tick n => .next ((List.range n).foldl (fun s _ => s.tick) s)

/-- With nothing on the agenda, one of the things that may happen, chosen freely. -/
def State.ownTurn (s : State) : Host.Outcome State Fault Refusal :=
  if !s.awake then .next s
  else
    let l := s.turns
    let (n, s1) := s.free
    match l[n % max 1 l.length]? with
    | some f => f s1
    | none => .next s

/-- An outcome, with what follows of itself. -/
def settled1 (o : Host.Outcome State Fault Refusal) : Host.Outcome State Fault Refusal :=
  match o with
  | .next s => .next (if s.awake then s.settle else s)
  | .fault r => .fault r
  | .refused r => .refused r

/-- One step: a clock passes, the head of the agenda happens (or one of the things that happen of themselves), and what is due
follows. -/
def State.run (s : State) : Host.Outcome State Fault Refusal :=
  let s0 := { s.tick with cur := .none }
  settled1 (match s.agenda with
    | a :: r => { s0 with agenda := r }.act a
    | [] => s0.ownTurn)

-- ## a word where the next step fetches

/-- Page tables at 0x10000 that map every address below 512 MiB to itself, readable, writable and executable (R215), as
bytes by address. -/
def flatTables : List (Nat × Nat) := [(0x10000, 0x20001), (0x20000, 0x30001), (0x30000, 0x1B)]

/-- The node record of a kernel whose entry is 0x40000 (R161). -/
def placedNode : List Word := List.replicate 6 0 ++ [0x40000] ++ List.replicate 25 0

/-- A part in service whose partition 0 holds core 0 and virtual function 0, with the flat page tables for both stages. -/
def State.inService (s : State) : State :=
  let p := s.part 0
  let force : Staged := { p.force with pcore := putNth p.force.pcore 0 1, vfid := putNth p.force.vfid 0 0x8000000000000000 }
  let s1 := { s with device := { s.device with step := 7, keys := true, off := false }
                     mem := flatTables.foldl (fun m (e : Nat × Nat) => Memory.write64 m e.1 (BitVec.ofNat 64 e.2)) s.mem }
  (s1.setPart { p with force, stagedRegs := force, ps2root := 0x10001, stateCode := 1, keyed := true }).setVf { s1.vf 0 with s1root := 0x10001 }

/-- One cluster of one team of one group, launched on core 0 and ready at 0x40000 (R170, R31). -/
def State.oneGroup (s : State) : State :=
  s.launchCluster 0 0 0 0 0 0 0 placedNode { w := 1, h := 1, n := 1, regs := 768, tiles := 0, stash := 64, deal := [0], mx := [] }
    { leaf := 0, x := 0, y := 0, takes := [{ core := 0, slots := [(0, 0, 0)], stashBase := 0, tiles := [[], [], [], []] }] }

/-- The physical address that the group at the head of the agenda fetches its next word from, if it is about to issue. -/
def State.fetchPlace (s : State) : Option Nat :=
  match s.agenda with
  | .issue key :: _ => match s.group? key with
    | some g => if s.awake && s.mayIssue g then match (s.translate g.asker .fetch g.pc).1 with | .ok (pa, _) => some pa | .error _ => none else none
    | none => none
  | _ => none

/-- The state whose next step fetches and runs a word: the word is stored where the group at the head of the agenda fetches next;
where no group is about to issue, a part in service with one group at 0x40000 is set up, and for a word of a matrix stream a
sequencer that has fetched it (log entry 8). -/
def State.placeWord (s : State) (w : Word) : State :=
  match s.fetchPlace with
  | some pa => { s with mem := Memory.write64 s.mem pa w }
  | none =>
    let k := s.nextKey
    let s1 := s.inService.oneGroup
    let s2 := { s1 with mem := Memory.write64 s1.mem 0x40000 w, agenda := [.issue (k + 2)] }
    match Dec.group w, Dec.stream w with
    | .bad _, .ok _ => match s2.team? (k + 1) with
      | some t => { s2.setTeam { t with seqr := { t.seqr with run := true, mxpc := 0x40000, owner := k + 2, word := some w } } with agenda := [.stream (k + 1)] }
      | none => s2
    | _, _ => s2

end Sys2Proof.Machine
end

