-- ==== Sys2Proof/Machine/Step.lean ====
section
/-! DEFINITION. One step of the part, and the placing of a word where the next step fetches it. -/
namespace Sys2Proof.Machine

/-- One step: a clock passes and one thing happens (log entry 9). -/
def step (s : State) : Host.Outcome State Fault Refusal := s.run

/-- `s` with the instruction whose bits are `w` stored where `step` fetches its next instruction; every instruction is one
64-bit word (R56). -/
def State.withFetchWord (s : State) (_nbits w : Nat) : State := s.placeWord (BitVec.ofNat 64 w)

end Sys2Proof.Machine
end

