-- ==== Sys2Proof/Safety.lean ====
section
/-! DEFINITION. The vocabulary of claims: when a word issues with nothing in its way, what it means that a word retired, and the
invariants of a state. -/
namespace Sys2Proof.Machine

-- ## a word that issues

/-- The current group `g` issues `i` with nothing in its way (R23, R28, R317): it waits for no register that a load will write and
for no slot of the forward queue, reads no register of a failed access, a log waits for no check of it and holds no trap for it. -/
structure Issues (s : State) (g : Group) (i : Instr) : Prop where
  cur : s.curGroup = some g
  free : g.interlocked (wordUses g i) = false
  room : isVector i = true → g.fqUsed < 32
  whole : ∀ x ∈ g.failed, ∀ k ∈ x.regs, k.1 ∉ (wordUses g i).reads
  checked : g.speculative = true → s.log g.id.vf = 0
  unlogged : s.logged g 6 = none
  rows : s.det g.id.vf = true → ∀ t, s.team? g.id.team = some t → g.id.grpid ∉ t.mx

-- ## what a word leaves alone

/-- Everything but the groups, their teams and the registers of virtual functions and partitions is as before: memory, stash and its
rows, tiles, locks, copies, clusters, links, fabric and the device block. -/
structure SameMachine (s t : State) : Prop where
  mem : t.mem = s.mem
  stash : t.stash = s.stash
  rows : t.rows = s.rows
  tiles : t.tileVals = s.tileVals ∧ t.tileSteps = s.tileSteps
  locks : t.locks = s.locks
  copies : t.copies = s.copies
  clusters : t.clusters = s.clusters
  links : t.links = s.links
  fabric : t.fabric = s.fabric
  device : t.device = s.device

/-- Every group but one is as before. -/
def SameOthers (s t : State) (key : Nat) : Prop := ∀ k, k ≠ key → t.group? k = s.group? k

/-- What a word may write of its own group: registers by kind and number, and lanes of vector and index registers. -/
structure Touched where
  v : Nat → Nat → Prop := fun _ _ => False
  x : Nat → Nat → Prop := fun _ _ => False
  p : Nat → Prop := fun _ => False
  z : Nat → Prop := fun _ => False
  s : Nat → Prop := fun _ => False
  c : Nat → Prop := fun _ => False
  k : Prop := False
  flags : Prop := False
  /-- the group's view of the format table -/
  view : Prop := False
  /-- the return queue -/
  queue : Prop := False
  /-- live lanes, mask and divergence stack -/
  threads : Prop := False
  /-- SEED, AGELIM, PIDX, trap registers, selectors of the context registers -/
  specials : Prop := False
  /-- pending operations -/
  ops : Prop := False
  /-- copy tags -/
  tags : Prop := False

/-- The registers of a virtual function but its event counters, which every retired word may advance (R426). -/
def Vf.uncounted (v : Vf) : Vf := { v with cnt := [] }

/-- A partition but its sampling count (R421) and the time of its replay's last progress (R405), which every retired word may advance. -/
def Partition.uncounted (p : Partition) : Partition := { p with sampled := [], log := { p.log with progressAt := 0 } }

/-- A team but its count of retired words and the boundary mark that the count sets (R394). -/
def Team.uncounted (t : Team) : Team := { t with retired := 0, sig := { t.sig with mark := false } }

/-- The registers of virtual functions, partitions and teams are as before, but for what every retired word counts. -/
structure SameRegisters (s t : State) : Prop where
  vfs : ∀ n, (t.vf n).uncounted = (s.vf n).uncounted
  parts : ∀ n, (t.part n).uncounted = (s.part n).uncounted
  teams : ∀ k, (t.team? k).map Team.uncounted = (s.team? k).map Team.uncounted

/-- A pending operation but for the registers that a younger word has written in its place (R23), its place behind waiting `vput` words
(R28), and the `wait` that it must come before (R226), which younger words set. -/
def MemOp.bare (o : MemOp) : MemOp := { o with lost := [], behind := 0, waited := 0 }

/-- The registers of a group that a word does not write are as before: general registers, flags, permute registers, mask and live
lanes, divergence stack, SEED, AGELIM, views, tags, trap registers, identity, what it waits for, and pending operations. -/
structure SameGroup (g h : Group) (w : Touched) : Prop where
  v : ∀ n l, l < 32 → ¬ w.v n l → h.getV n l = g.getV n l
  x : ∀ n l, l < 32 → ¬ w.x n l → h.getX n l = g.getX n l
  p : ∀ n, ¬ w.p n → h.getP n = g.getP n
  z : ∀ n, ¬ w.z n → h.getZ n = g.getZ n
  s : ∀ n, ¬ w.s n → h.getS n = g.getS n
  c : ∀ n, ¬ w.c n → h.getC n = g.getC n
  k : ¬ w.k → h.regs.k0 = g.regs.k0 ∧ h.regs.k1 = g.regs.k1
  flags : ¬ w.flags → h.fflags = g.fflags
  ident : h.id = g.id ∧ h.wait = g.wait ∧ h.cmp = g.cmp
  view : ¬ w.view → h.view = g.view ∧ h.fmtPend = g.fmtPend
  queue : ¬ w.queue → h.rq = g.rq
  threads : ¬ w.threads → h.live = g.live ∧ h.mask = g.mask ∧ h.origin = g.origin ∧ h.dv = g.dv ∧ h.dvDepth = g.dvDepth
  specials : ¬ w.specials → h.seed = g.seed ∧ h.agelim = g.agelim ∧ h.pidx = g.pidx ∧ h.trap = g.trap ∧ h.sel = g.sel
  ops : ¬ w.ops → h.ops.map MemOp.bare = g.ops.map MemOp.bare
  tags : ¬ w.tags → h.tagBusy = g.tagBusy ∧ h.tagDone = g.tagDone ∧ h.tagFlt = g.tagFlt

/-- The word at a group's PC has retired: `h` is the group after it, with LTIME one more (R100) and the next address `pc`. -/
structure Retired (s t : State) (g h : Group) (pc : Word) : Prop where
  group : t.group? g.id.key = some h
  next : h.pc = pc
  time : h.ltime = g.ltime + 1
  same : SameMachine s t
  regs : SameRegisters s t
  others : SameOthers s t g.id.key

-- ## operands and results as the rules give them

/-- Operand B of an S-form word: the sign-extended immediate with ISEL = 1, else s[SB] (R81, R83). -/
def Group.opB (g : Group) (o : OpS) : Word := if o.isel = 1 then BitVec.ofInt 64 o.imm.toInt else g.getS o.sb.toNat

/-- Position and length of `sext` and `sins` (R85). -/
def bitPos (o : OpS) : Nat := (o.imm.extractLsb' 0 6).toNat
def bitLen (o : OpS) : Nat := (o.imm.extractLsb' 8 6).toNat + 1

/-- The value that a scalar word writes to s[SD] when its COND bit is 1 (R83 to R86), with the word's operands. -/
def scalarResult (g : Group) (i : Instr) : Option (OpS × Word) :=
  let a (o : OpS) : Word := g.getS o.sa.toNat
  let b (o : OpS) : Word := g.opB o
  let d (o : OpS) : Word := g.getS o.sd.toNat
  let sh (o : OpS) : Nat := (b o).toNat % 64
  match i with
  | .sadd o => some (o, BitVec.ofNat 64 ((a o).toNat + (b o).toNat))
  | .ssub o => some (o, BitVec.ofInt 64 (((a o).toNat : Int) - ((b o).toNat : Int)))
  | .smul o => some (o, BitVec.ofInt 64 ((a o).toInt * (b o).toInt))
  | .smulh o => some (o, BitVec.ofInt 64 (Int.fdiv ((a o).toInt * (b o).toInt) (2 ^ 64)))
  | .sand o => some (o, a o &&& b o)
  | .sor o => some (o, a o ||| b o)
  | .sxor o => some (o, a o ^^^ b o)
  | .sshl o => some (o, BitVec.ofNat 64 ((a o).toNat * 2 ^ sh o))
  | .sshr o => some (o, BitVec.ofNat 64 ((a o).toNat / 2 ^ sh o))
  | .ssra o => some (o, BitVec.ofInt 64 (Int.fdiv (a o).toInt (2 ^ sh o)))
  | .smin o => some (o, if (a o).toInt ≤ (b o).toInt then a o else b o)
  | .smax o => some (o, if (a o).toInt ≥ (b o).toInt then a o else b o)
  | .sminu o => some (o, if (a o).toNat ≤ (b o).toNat then a o else b o)
  | .smaxu o => some (o, if (a o).toNat ≥ (b o).toNat then a o else b o)
  | .sclz o => some (o, BitVec.ofNat 64 (if a o = 0 then 64 else 63 - Nat.log2 (a o).toNat))
  | .spopc o => some (o, BitVec.ofNat 64 ((List.range 64).countP fun j => (a o).getLsbD j))
  | .sext o =>
    let f : Nat := (a o).toNat / 2 ^ bitPos o % 2 ^ bitLen o
    some (o, BitVec.ofInt 64 ((f : Int) - 2 ^ bitLen o * ((f.testBit (bitLen o - 1)).toNat : Int)))
  | .sins o => some (o, BitVec.ofInt 64 (((d o).toNat : Int) - (((d o).toNat / 2 ^ bitPos o % 2 ^ bitLen o * 2 ^ bitPos o : Nat) : Int)
      + (((a o).toNat % 2 ^ bitLen o * 2 ^ bitPos o : Nat) : Int)))
  | .ssel o => some (o, if g.getC (o.imm.extractLsb' 0 3).toNat then a o else g.getS o.sb.toNat)
  | .smov o => some (o, b o)
  | .sli o => some (o, BitVec.ofNat 64 o.imm.toNat)
  | .slih o => some (o, BitVec.ofNat 64 (o.imm.toNat * 2 ^ 32 + (d o).toNat % 2 ^ 32))
  | _ => none

/-- The quotient, toward zero, and the remainder of the division words (R83), for a divisor that is not 0. -/
def divisionResult (g : Group) (i : Instr) : Option (OpS × Word) :=
  match i with
  | .sdiv o => some (o, BitVec.ofInt 64 (Int.tdiv (g.getS o.sa.toNat).toInt (g.opB o).toInt))
  | .srem o => some (o, BitVec.ofInt 64 (Int.tmod (g.getS o.sa.toNat).toInt (g.opB o).toInt))
  | _ => none

/-- The bit that a compare or a word of condition logic writes to cd (R87, R88). -/
def conditionResult (g : Group) (i : Instr) : Option (OpS × Bool) :=
  let a (o : OpS) : Word := g.getS o.sa.toNat
  let b (o : OpS) : Word := g.opB o
  match i with
  | .scmpEq o => some (o, decide (a o = b o))
  | .scmpNe o => some (o, decide (a o ≠ b o))
  | .scmpLt o => some (o, decide ((a o).toInt < (b o).toInt))
  | .scmpLe o => some (o, decide ((a o).toInt ≤ (b o).toInt))
  | .scmpLtu o => some (o, decide ((a o).toNat < (b o).toNat))
  | .scmpLeu o => some (o, decide ((a o).toNat ≤ (b o).toNat))
  | .cand o => some (o, g.getC o.sa.toNat && g.getC o.sb.toNat)
  | .cor o => some (o, g.getC o.sa.toNat || g.getC o.sb.toNat)
  | .cnot o => some (o, !g.getC o.sa.toNat)
  | _ => none

/-- The address a branch names: the following word's plus 8 × s64(IMM), modulo 2^64 (R89). -/
def targetOf (g : Group) (o : OpS) : Word := BitVec.ofInt 64 ((g.pc.toNat : Int) + 8 + 8 * o.imm.toInt)

/-- The trap that a word of the group takes instead of its effect: cause group, code and detail (R303), at the word's address. -/
def TakesTrap (s : State) (g : Group) (i : Instr) (grp code detail : Nat) : Prop :=
  exec i s = .next (s.takeTrap g { mkTrap grp code detail with pc := g.pc })

-- ## vector words

/-- A V-kind code names registers that the group may use: a direct register and the ones after it that the operand spans lie below
the claim (R19), an indirect one has IDX below LEN and BASE + IDX below the claim in every lane whose index register is used (R25). -/
def Group.Names (g : Group) (code : BitVec 10) (span : Nat) (lane : Nat → Prop) : Prop :=
  if code.toNat < 768 then code.toNat + span ≤ g.id.claim
  else ∀ m, lane m → xIdx (g.getX (code.toNat - 768) m) < xLen (g.getX (code.toNat - 768) m) ∧ g.rowOf code m < g.id.claim

/-- A destination is usable in the lanes of a mask. -/
def Group.DestOk (g : Group) (act : Lane) (code : BitVec 10) (span : Nat := 1) : Prop :=
  g.Names code span fun l => l < 32 ∧ act.getLsbD l = true

/-- A permuted source is usable: its index registers are those of the live lanes that are sources of a lane of the mask (R25). -/
def Group.SrcOk (g : Group) (act : Lane) (code : BitVec 10) (perm : BitVec 3) (span : Nat := 1) : Prop :=
  g.Names code span fun m => g.live.getLsbD m = true ∧ ∃ l, l < 32 ∧ act.getLsbD l = true ∧ m = srcLane perm g.regs.k0 g.regs.k1 l

/-- The lanes of a destination that a word writes. -/
def Group.WritesLanes (g : Group) (act : Lane) (code : BitVec 10) (n l : Nat) : Prop := act.getLsbD l = true ∧ n = g.rowOf code l

/-- A word that writes one value in each active lane of a register: its predicate, destination, permuted sources and values. -/
structure LaneWord where
  pred : BitVec 3
  d : BitVec 10
  srcs : List (BitVec 10 × BitVec 3) := []
  value : Nat → Lane

/-- An integer limited to −2^31 .. 2^31 − 1 (R127). -/
def limited (v : Int) : Lane := BitVec.ofInt 32 (max (-2 ^ 31) (min v (2 ^ 31 - 1)))

/-- The I-form operand: IMM, or bits 31:0 of s(IMM 5:0) with SR = 1 (R70). -/
def Group.immOf (g : Group) (o : OpI) : Lane :=
  if o.sr = 1 then BitVec.ofNat 32 (g.getS (o.imm.toNat % 64)).toNat else o.imm

/-- The integer operation of two operands that a word names (R127), with the word's SAT bit. -/
def integerOp (i : Instr) : Option (Lane → Lane → Lane) :=
  let sum (sat : BitVec 1) (a b : Lane) : Lane := if sat = 1 then limited (a.toInt + b.toInt) else BitVec.ofInt 32 (a.toInt + b.toInt)
  let dif (sat : BitVec 1) (a b : Lane) : Lane := if sat = 1 then limited (a.toInt - b.toInt) else BitVec.ofInt 32 (a.toInt - b.toInt)
  let mul (a b : Lane) : Lane := BitVec.ofInt 32 (a.toInt * b.toInt)
  let mulh (a b : Lane) : Lane := BitVec.ofInt 32 (Int.fdiv (a.toInt * b.toInt) (2 ^ 32))
  let shl (a b : Lane) : Lane := BitVec.ofNat 32 (a.toNat * 2 ^ (b.toNat % 32))
  let shr (a b : Lane) : Lane := BitVec.ofNat 32 (a.toNat / 2 ^ (b.toNat % 32))
  let sra (a b : Lane) : Lane := BitVec.ofInt 32 (Int.fdiv a.toInt (2 ^ (b.toNat % 32)))
  let mins (a b : Lane) : Lane := BitVec.ofInt 32 (min a.toInt b.toInt)
  let maxs (a b : Lane) : Lane := BitVec.ofInt 32 (max a.toInt b.toInt)
  let minu (a b : Lane) : Lane := BitVec.ofNat 32 (min a.toNat b.toNat)
  let maxu (a b : Lane) : Lane := BitVec.ofNat 32 (max a.toNat b.toNat)
  match i with
  | .iadd o => some (sum o.sat) | .iaddImm o => some (sum o.sat)
  | .isub o => some (dif o.sat) | .isubImm o => some (dif o.sat)
  | .imul _ | .imulImm _ => some mul | .imulh _ => some mulh
  | .iand _ | .iandImm _ => some (· &&& ·) | .ior _ | .iorImm _ => some (· ||| ·) | .ixor _ | .ixorImm _ => some (· ^^^ ·)
  | .ishl _ | .ishlImm _ => some shl | .ishr _ | .ishrImm _ => some shr | .isra _ | .israImm _ => some sra
  | .imin _ | .iminImm _ => some mins | .imax _ | .imaxImm _ => some maxs
  | .iminu _ | .iminuImm _ => some minu | .imaxu _ | .imaxuImm _ => some maxu
  | _ => none

/-- The integer operation of one operand that a word names (R127), and `vmov` (R140). -/
def integerFn (i : Instr) : Option (Lane → Lane) :=
  let abs (sat : BitVec 1) (a : Lane) : Lane := if sat = 1 then limited a.toInt.natAbs else BitVec.ofNat 32 a.toInt.natAbs
  let neg (sat : BitVec 1) (a : Lane) : Lane := if sat = 1 then limited (-a.toInt) else BitVec.ofInt 32 (-a.toInt)
  match i with
  | .inot _ => some (~~~ ·)
  | .iabs o => some (abs o.sat) | .ineg o => some (neg o.sat)
  | .ipopc _ => some fun a => BitVec.ofNat 32 ((List.range 32).countP fun j => a.getLsbD j)
  | .iclz _ => some fun a => BitVec.ofNat 32 (if a = 0 then 32 else 31 - Nat.log2 a.toNat)
  | .ibrev _ => some BitVec.reverse
  | .vmov _ => some id
  | _ => none

/-- The words that write a 32-bit value in each active lane: integer words (R127 to R129), moves and identity (R140, R181), and the
reads of scale and index registers (R124, R139). -/
def laneWord (s : State) (g : Group) (i : Instr) : Option LaneWord :=
  match Enc.shape i with
  | .a _ _ o =>
    let two (f : Lane → Lane → Lane) : LaneWord :=
      { pred := o.pred, d := o.d, srcs := [(o.a, o.ap), (o.b, o.bp)], value := fun l => f (g.fetchV o.a o.ap l) (g.fetchV o.b o.bp l) }
    let one (f : Lane → Lane) : LaneWord := { pred := o.pred, d := o.d, srcs := [(o.a, o.ap)], value := fun l => f (g.fetchV o.a o.ap l) }
    match integerOp i, integerFn i with
    | some f, _ => some (two f)
    | none, some f => some (one f)
    | none, none => match i with
      | .isel _ =>
        let value (l : Nat) : Lane := if (g.getP (o.xf.extractLsb' 0 3).toNat).getLsbD l then g.fetchV o.a o.ap l else g.fetchV o.b o.bp l
        some { pred := o.pred, d := o.d, srcs := [(o.a, o.ap), (o.b, o.bp)], value }
      | .vlane _ => match o.b.toNat with
        | 0 => some { pred := o.pred, d := o.d, value := fun l => BitVec.ofNat 32 l }
        | 1 => some { pred := o.pred, d := o.d, value := fun l => BitVec.ofNat 32 (Sparse.get 0 g.origin l) }
        | 2 => some { pred := o.pred, d := o.d, value := fun l => BitVec.ofNat 32 (s.globalIndex g l) }
        | 3 => some { pred := o.pred, d := o.d, value := fun l => (BitVec.ofNat 64 (s.globalIndex g l)).extractLsb' 32 32 }
        | _ => none
      | .xget _ => some { pred := o.pred, d := o.d, value := fun l => g.getX o.a.toNat l }
      | .zget _ => some { pred := 7, d := o.d, value := fun l => (g.getZ o.a.toNat).extractLsb' (32 * (l % 4)) 32 }
      | _ => none
  | .i _ _ o => match integerOp i, i with
    | some f, _ => some { pred := o.pred, d := o.d, value := fun l => f (g.getV (g.rowOf o.d l) l) (g.immOf o) }
    | none, .vli _ => some { pred := o.pred, d := o.d, value := fun _ => g.immOf o }
    | none, _ => none
  | .c _ _ o => match i with
    | .imad _ =>
      let value (l : Nat) : Lane := BitVec.ofInt 32 ((g.fetchV o.a o.ap l).toInt * (g.fetchV o.b o.bp l).toInt + (g.fetchV o.c 0 l).toInt)
      some { pred := o.pred, d := o.d, srcs := [(o.a, o.ap), (o.b, o.bp), (o.c, 0)], value }
    | _ => none
  | .m _ _ _ | .e _ _ _ | .q _ _ _ | .s _ _ _ | .p _ _ | .event => none

/-- The relation of an integer compare on two lane values (R128). -/
def integerRel (i : Instr) : Option (OpA × (Lane → Lane → Bool)) :=
  match i with
  | .icmpEq o => some (o, fun a b => decide (a = b))
  | .icmpNe o => some (o, fun a b => decide (a ≠ b))
  | .icmpLt o => some (o, fun a b => decide (a.toInt < b.toInt))
  | .icmpLe o => some (o, fun a b => decide (a.toInt ≤ b.toInt))
  | .icmpLtu o => some (o, fun a b => decide (a.toNat < b.toNat))
  | .icmpLeu o => some (o, fun a b => decide (a.toNat ≤ b.toNat))
  | _ => none

-- ## floating-point words

/-- An exact result encoded into an entry (R46), with the flags of the operation and of the encoding. -/
def encoded (f : Fmt.Entry) (m : Fmt.Mode) (sat : Bool) (x : Fmt.Val × BitVec 5) : Nat × BitVec 5 :=
  ((Fmt.encode f x.1 m sat).1, x.2 ||| (Fmt.encode f x.1 m sat).2)

/-- The rounding mode of element `k` of lane `l` under a rounding code (R45): `.rsr` draws its threshold from SEED, the thread's global
index and the element's position (R48). Codes 6 and 7 are reserved. -/
def modeOf (s : State) (g : Group) (code : BitVec 3) (l k : Nat) : Fmt.Mode :=
  match code.toNat with
  | 0 => .rne
  | 1 => .rtz
  | 2 => .rup
  | 3 => .rdn
  | 4 => .rna
  | 5 => .rsr (Fmt.hashH g.seed (s.globalIndex g l) k)
  | _ => .rsr 0

/-- An element-wise floating-point word: its predicate, entry and that of its sources, destination, sources and rounding, the entries it accepts (R104), the
exact value of each element of its result, and the bits and flags of each element under an unscaled entry. -/
structure FloatWord where
  pred : BitVec 3
  fmt : Nat
  srcFmt : Nat := fmt
  d : BitVec 10
  srcs : List (BitVec 10 × BitVec 3) := []
  rnd : BitVec 3 := 0
  sat : Bool := false
  accepts : Fmt.Entry → Bool := fun _ => true
  value : Nat → Nat → Fmt.Val
  elem : Nat → Nat → Nat × BitVec 5

/-- The lesser (greater) of two operands, of which each has the bits that deliver it (R111). -/
def lesser (f : Fmt.Entry) (greater : Bool) (a b : Fmt.Val) (ra rb : Nat × BitVec 5) : Nat × BitVec 5 :=
  if a = .nan then (if b = .nan then encoded f .rne false (.nan, 0) else rb)
  else if b = .nan then ra
  else if (if greater then a.below b else b.below a) then rb else ra

/-- The function and form of a special-function word (R117): true for the quick form. -/
def specialFn (i : Instr) : Option (Fmt.Func × Bool) :=
  match i with
  | .fexp2q _ => some (.exp2, true) | .fexp2r _ => some (.exp2, false) | .flog2q _ => some (.log2, true) | .flog2r _ => some (.log2, false)
  | .fsinpq _ => some (.sinpi, true) | .fsinpr _ => some (.sinpi, false) | .fcospq _ => some (.cospi, true) | .fcospr _ => some (.cospi, false)
  | .ftanhq _ => some (.tanh, true) | .ftanhr _ => some (.tanh, false) | .frcpq _ => some (.rcp, true) | .frcpr _ => some (.rcp, false)
  | .frsqq _ => some (.rsqrt, true) | .frsqr _ => some (.rsqrt, false)
  | _ => none

/-- The lesser (greater) of two exact values (R111). -/
def lesserValue (greater : Bool) (a b : Fmt.Val) : Fmt.Val :=
  if a = .nan then b else if b = .nan then a else if (if greater then a.below b else b.below a) then b else a

/-- The integer nearest a value in a mode; special values are unchanged (R116). -/
def integralValue (a : Fmt.Val) (m : Fmt.Mode) : Fmt.Val :=
  match a with
  | .fin _ _ _ => (a.toIntegral m).1
  | .nan | .inf _ => a

/-- The element-wise floating-point words (R108 to R112, R115 to R120). The operands of `elem` are read under an unscaled entry (R37),
those of `value` under any (R103). -/
def floatWord (s : State) (g : Group) (i : Instr) : Option FloatWord :=
  match Enc.shape i with
  | .a _ _ o =>
    let f := g.entry o.fmt.toNat
    let ra (l k : Nat) : Nat := Fmt.elemBits f (g.fetchV o.a o.ap l) k
    let rb (l k : Nat) : Nat := Fmt.elemBits f (g.fetchV o.b o.bp l) k
    let a (l k : Nat) : Fmt.Val := g.elem f (.reg o.a o.ap) l k
    let b (l k : Nat) : Fmt.Val := g.elem f (.reg o.b o.bp) l k
    let ab : List (BitVec 10 × BitVec 3) := [(o.a, o.ap), (o.b, o.bp)]
    let mode (l k : Nat) : Fmt.Mode := modeOf s g o.rnd l k
    -- a word that rounds as its RND and SAT fields say
    let rounded (srcs : List (BitVec 10 × BitVec 3)) (x : Nat → Nat → Fmt.Val × BitVec 5) : FloatWord :=
      { pred := o.pred, fmt := o.fmt.toNat, d := o.d, srcs, rnd := o.rnd, sat := o.sat == 1
        value := fun l k => (x l k).1, elem := fun l k => encoded f (mode l k) (o.sat == 1) (x l k) }
    -- a word that rounds in `.rne` and does not saturate
    let plain (srcs : List (BitVec 10 × BitVec 3)) (x : Nat → Nat → Fmt.Val) (e : Nat → Nat → Nat × BitVec 5) : FloatWord :=
      { pred := o.pred, fmt := o.fmt.toNat, d := o.d, srcs, value := x, elem := e }
    match i with
    | .fadd _ => some (rounded ab fun l k => (a l k).add (b l k) (o.rnd == 3))
    | .fsub _ => some (rounded ab fun l k => (a l k).add (b l k).neg (o.rnd == 3))
    | .fmul _ => some (rounded ab fun l k => (a l k).mul (b l k))
    | .fdiv _ => some (rounded ab fun l k => (a l k).div (b l k))
    | .fsqrt _ => some (rounded [(o.a, o.ap)] fun l k => (a l k).sqrt)
    | .fmin _ => some (plain ab (fun l k => lesserValue false (a l k) (b l k)) fun l k => lesser f false (a l k) (b l k) (ra l k, 0) (rb l k, 0))
    | .fmax _ => some (plain ab (fun l k => lesserValue true (a l k) (b l k)) fun l k => lesser f true (a l k) (b l k) (ra l k, 0) (rb l k, 0))
    | .fabs _ => some (plain [(o.a, o.ap)] (fun l k => (a l k).abs) fun l k => encoded f .rne false ((a l k).abs, 0))
    | .fneg _ => some (plain [(o.a, o.ap)] (fun l k => (a l k).neg) fun l k => encoded f .rne false ((a l k).neg, 0))
    | .frnd _ => some (plain [(o.a, o.ap)] (fun l k => integralValue (a l k) (mode l k)) fun l k => match a l k with
        | .fin _ _ _ => encoded f .rne false ((a l k).toIntegral (mode l k))
        | .nan | .inf _ => (ra l k, 0))
    | .fcvt _ =>
      let fs := g.entry (o.xf.toNat % 8)
      let n := min fs.perLane f.perLane
      let x (l k : Nat) : Fmt.Val := g.elem fs (.reg o.a o.ap) l k
      some { pred := o.pred, fmt := o.fmt.toNat, srcFmt := o.xf.toNat % 8, d := o.d, srcs := [(o.a, o.ap)], rnd := o.rnd, sat := o.sat == 1
             value := fun l k => if k < n then x l k else .zero false
             elem := fun l k => if k < n then encoded f (mode l k) (o.sat == 1) (x l k, 0) else (0, 0) }
    | i => match specialFn i with
      | some (fn, quick) =>
        let x (l k : Nat) : Fmt.Val × BitVec 5 := fn.eval (Fmt.decode f (ra l k))
        let q (l k : Nat) : Fmt.Val := Fmt.quickValue fn (Fmt.decode f (ra l k)) (x l k).1
        let e (l k : Nat) : Nat × BitVec 5 :=
          (if quick then (Fmt.encode f (q l k) .rne false).1 else (encoded f .rne false (x l k)).1, (encoded f .rne false (x l k)).2)
        some { plain [(o.a, o.ap)] (fun l k => (x l k).1) e with accepts := fun f => decide (1 ≤ f.e) && f.sc == 0 }
      | none => none
  | .i _ _ o =>
    let f := g.entry o.fmt.toNat
    let ra (l k : Nat) : Nat := Fmt.elemBits f (g.getV (g.rowOf o.d l) l) k
    let a (l k : Nat) : Fmt.Val := g.elem f (.reg o.d 0) l k
    let b : Fmt.Val := Fmt.decode Fmt.binary32 (g.immOf o).toNat
    let rounded (x : Nat → Nat → Fmt.Val × BitVec 5) : FloatWord :=
      { pred := o.pred, fmt := o.fmt.toNat, d := o.d, rnd := o.rnd, sat := o.sat == 1, value := fun l k => (x l k).1
        elem := fun l k => encoded f (modeOf s g o.rnd l k) (o.sat == 1) (x l k) }
    let least (greater : Bool) : FloatWord :=
      { pred := o.pred, fmt := o.fmt.toNat, d := o.d, value := fun l k => lesserValue greater (a l k) b
        elem := fun l k => lesser f greater (a l k) b (ra l k, 0) (encoded f .rne false (b, 0)) }
    match i with
    | .faddImm _ => some (rounded fun l k => (a l k).add b (o.rnd == 3))
    | .fsubImm _ => some (rounded fun l k => (a l k).add b.neg (o.rnd == 3))
    | .fmulImm _ => some (rounded fun l k => (a l k).mul b)
    | .fminImm _ => some (least false)
    | .fmaxImm _ => some (least true)
    | _ => none
  | .c _ _ o =>
    let f := g.entry o.fmt.toNat
    let three (op : Fmt.Val → Fmt.Val → Fmt.Val → Fmt.Val × BitVec 5) : FloatWord :=
      let x (l k : Nat) : Fmt.Val × BitVec 5 := op (g.elem f (.reg o.a o.ap) l k) (g.elem f (.reg o.b o.bp) l k) (g.elem f (.reg o.c 0) l k)
      { pred := o.pred, fmt := o.fmt.toNat, d := o.d, srcs := [(o.a, o.ap), (o.b, o.bp), (o.c, 0)], value := fun l k => (x l k).1
        elem := fun l k => encoded f .rne false (x l k) }
    match i with
    | .fma _ => some (three fun a b c => a.fma b c)
    | .fms _ => some (three fun a b c => a.fma b c.neg)
    | .fnma _ => some (three fun a b c => a.neg.fma b c)
    | _ => none
  | .m _ _ _ | .e _ _ _ | .q _ _ _ | .s _ _ _ | .p _ _ | .event => none

/-- The flags raised by the elements of the lanes of a mask (R47). -/
def raised (f : Fmt.Entry) (act : Lane) (elem : Nat → Nat → Nat × BitVec 5) : BitVec 5 :=
  (lanesOf act).foldl (fun m l => (List.range f.perLane).foldl (fun m k => m ||| (elem l k).2) m) 0

/-- The relation of a floating-point compare on two exact values, and NV where `.lt` and `.le` meet a NaN (R113). -/
def floatRel (i : Instr) : Option (OpA × (Fmt.Val → Fmt.Val → Bool × BitVec 5)) :=
  let ordered (rel : Ordering → Bool) (a b : Fmt.Val) : Bool × BitVec 5 :=
    match a.cmp b with
    | some c => (rel c, 0)
    | none => (false, Fmt.NV)
  match i with
  | .fcmpEq o => some (o, fun a b => (a.cmp b == some .eq, 0))
  | .fcmpLt o => some (o, ordered fun c => c == .lt)
  | .fcmpLe o => some (o, ordered fun c => c != .gt)
  | .fcmpUn o => some (o, fun a b => (a == .nan || b == .nan, 0))
  | _ => none

/-- A code names only registers v0 to v63 (R43). -/
def Group.Scaled (g : Group) (code : BitVec 10) (span : Nat) (lane : Nat → Prop) : Prop :=
  if code.toNat < 768 then code.toNat + span ≤ 64 else ∀ m, lane m → g.rowOf code m < 64

/-- A destination under an entry is usable: R19 and R25, and R43 where the entry is block-scaled. -/
def Group.TargetOk (g : Group) (act : Lane) (fmt : Nat) (d : BitVec 10) (span : Nat) : Prop :=
  g.DestOk act d span ∧ ((g.entry fmt).sc ≠ 0 → g.Scaled d span fun l => l < 32 ∧ act.getLsbD l = true)

/-- A source under an entry is usable. -/
def Group.SourceOk (g : Group) (act : Lane) (fmt : Nat) (code : BitVec 10) (perm : BitVec 3) (span : Nat := 1) : Prop :=
  g.SrcOk act code perm span ∧ ((g.entry fmt).sc ≠ 0 → g.Scaled code span fun m => g.live.getLsbD m = true ∧
    ∃ l, l < 32 ∧ act.getLsbD l = true ∧ m = srcLane perm g.regs.k0 g.regs.k1 l)

/-- The operands of a floating-point word are usable, and its entries are valid and accepted (R104). -/
def Group.FloatOk (g : Group) (w : FloatWord) : Prop :=
  (g.entry w.fmt).v = true ∧ (g.entry w.srcFmt).v = true ∧ w.accepts (g.entry w.fmt) = true ∧
    g.TargetOk (g.active w.pred) w.fmt w.d 1 ∧ ∀ a ∈ w.srcs, g.SourceOk (g.active w.pred) w.srcFmt a.1 a.2

/-- Block `j` of a row has an element in a lane of the set (R44). -/
def blockHit (f : Fmt.Entry) (m : Nat → Bool) (j : Nat) : Bool := (List.range f.block).any fun k => m ((j * f.block + k) / f.perLane)

/-- Block `j` of a row encoded under R44: its scale bytes, and each element's bits and flags. Elements of lanes outside the set enter
with the value they hold. -/
def Group.blockOf (g : Group) (f : Fmt.Entry) (row : Nat) (m : Nat → Bool) (value : Nat → Nat → Fmt.Val) (r : Rnd) (j : Nat) :
    List Nat × List (Nat × BitVec 5) :=
  let n := f.perLane
  let old (e : Nat) : Fmt.Val := Fmt.elemValue f (Fmt.elemBits f (g.getV row (e / n)) (e % n)) (g.getZ row) j
  let new (e : Nat) : Fmt.Val := if m (e / n) then value (e / n) (e % n) else old e
  Fmt.encodeBlock f ((List.range f.block).map fun k => new (j * f.block + k))
    (fun k => r.mode ((j * f.block + k) / n) ((j * f.block + k) % n)) r.sat

/-- A row after a word that writes the lanes of a set under a block-scaled entry (R41, R44, R123): every touched block is written
whole with its scales, the others keep elements and scales, and the unused scale bytes are 0x7F. -/
def BlockRow (g h : Group) (f : Fmt.Entry) (row : Nat) (m : Nat → Bool) (value : Nat → Nat → Fmt.Val) (r : Rnd) : Prop :=
  let n := f.perLane
  let bits (e : Nat) : Nat :=
    if blockHit f m (e / f.block) then (nth (0, 0) (g.blockOf f row m value r (e / f.block)).2 (e % f.block)).1
    else Fmt.elemBits f (g.getV row (e / n)) (e % n)
  (∀ l, l < 32 → (∃ k, k < n ∧ blockHit f m ((l * n + k) / f.block) = true) →
    h.getV row l = Fmt.joinElems f ((List.range n).map fun k => bits (l * n + k))) ∧
  (∀ b, b < 16 → Fmt.scaleByte (h.getZ row) b =
    if b / f.sc < 32 * n / f.block then
      if blockHit f m (b / f.sc) then nth 0x7F (g.blockOf f row m value r (b / f.sc)).1 (b % f.sc) else Fmt.scaleByte (g.getZ row) b
    else 0x7F)

/-- The lanes and registers that a word with a block-scaled destination may write: lanes of its rows that share a block with an active
lane, and the rows' z registers. -/
def scaledTouches (f : Fmt.Entry) (act : Lane) (named : Nat → Nat → Prop) : Touched :=
  { v := fun n l => ∃ m, act.getLsbD m = true ∧ named m n ∧ ∃ k, k < f.perLane ∧
      blockHit f (fun l => act.getLsbD l) ((l * f.perLane + k) / f.block) = true
    z := fun n => ∃ m, act.getLsbD m = true ∧ named m n
    flags := True }

/-- What a word leaves under an unscaled entry: the elements of its active lanes, packed (R40). -/
def FloatWord.Plain (w : FloatWord) (g h : Group) : Prop :=
  ∀ l, l < 32 → (g.active w.pred).getLsbD l = true →
    h.getV (g.rowOf w.d l) l = Fmt.joinElems (g.entry w.fmt) ((List.range (g.entry w.fmt).perLane).map fun k => (w.elem l k).1)

/-- What a word leaves under a block-scaled entry: its rows, formed block by block (R44). -/
def FloatWord.Blocks (w : FloatWord) (s : State) (g h : Group) : Prop :=
  ∀ l, l < 32 → (g.active w.pred).getLsbD l = true →
    BlockRow g h (g.entry w.fmt) (g.rowOf w.d l) (fun m => (g.active w.pred).getLsbD m && g.rowOf w.d m == g.rowOf w.d l) w.value
      (s.rnd g w.rnd w.sat)

/-- The instruction whose operation a half of a P-form word computes (R69, R130): D op A for a binary half, op(A) for a unary one. -/
def formOf (h : Half) : Option Instr :=
  let two : OpA := { pred := 7, fmt := h.fmt.setWidth 3, d := h.d, a := h.d, ap := 0, b := h.a, bp := h.ap, rnd := 0, sat := 0, xf := 0, ha := 0, hb := 0 }
  let one : OpA := { two with a := h.a, ap := h.ap, b := 0, bp := 0 }
  [(0x00, .fadd two), (0x01, .fsub two), (0x02, .fmul two), (0x03, .fmin two), (0x04, .fmax two), (0x05, .fabs one), (0x06, .fneg one),
   (0x07, .fsqrt one), (0x08, .fcvt one), (0x09, .frnd one), (0x0A, .fexp2q one), (0x0B, .fexp2r one), (0x0C, .flog2q one), (0x0D, .flog2r one),
   (0x0E, .ftanhq one), (0x0F, .ftanhr one), (0x10, .frcpq one), (0x11, .frcpr one), (0x12, .frsqq one), (0x13, .frsqr one),
   (0x14, .fsinpq one), (0x15, .fsinpr one), (0x16, .fcospq one), (0x17, .fcospr one),
   (0x20, .iadd two), (0x21, .isub two), (0x22, .imul two), (0x23, .imulh two), (0x24, .iand two), (0x25, .ior two), (0x26, .ixor two),
   (0x27, .inot one), (0x28, .ishl two), (0x29, .ishr two), (0x2A, .isra two), (0x2B, .imin two), (0x2C, .imax two), (0x2D, .iminu two),
   (0x2E, .imaxu two), (0x2F, .iabs one), (0x30, .ineg one), (0x31, .ipopc one), (0x32, .iclz one), (0x33, .ibrev one), (0x34, .vmov one)
   ].lookup h.op.toNat

/-- The operands of the operation of a half are usable. -/
def HalfOk (s : State) (g : Group) (i : Instr) : Prop :=
  match laneWord s g i, floatWord s g i with
  | some w, _ => g.DestOk (g.active 7) w.d ∧ ∀ a ∈ w.srcs, g.SrcOk (g.active 7) a.1 a.2
  | none, some w => g.FloatOk w
  | none, none => False

/-- What the operation of a half leaves in its destination, computed from the group before the word. -/
def HalfDone (s : State) (g h : Group) (i : Instr) : Prop :=
  match laneWord s g i, floatWord s g i with
  | some w, _ => ∀ l, l < 32 → (g.active 7).getLsbD l = true → h.getV (g.rowOf w.d l) l = w.value l
  | none, some w => if (g.entry w.fmt).sc = 0 then w.Plain g h else w.Blocks s g h
  | none, none => False

/-- The flags that a half raises: those of its elements under an unscaled entry (R16, R47), none for an integer half. -/
def halfFlags (s : State) (g : Group) (i : Instr) : BitVec 5 :=
  match laneWord s g i, floatWord s g i with
  | some _, _ => 0
  | none, some w => raised (g.entry w.fmt) (g.active 7) w.elem
  | none, none => 0

-- ## predicates and reductions

/-- The predicate that a whole-predicate word writes (R138). -/
def predicateResult (g : Group) (i : Instr) : Option (OpA × Lane) :=
  match i with
  | .pand o => some (o, g.getP o.a.toNat &&& g.getP o.b.toNat)
  | .por o => some (o, g.getP o.a.toNat ||| g.getP o.b.toNat)
  | .pxor o => some (o, g.getP o.a.toNat ^^^ g.getP o.b.toNat)
  | .pnot o => some (o, ~~~ g.getP o.a.toNat)
  | .pmov o => some (o, g.getP o.a.toNat)
  | _ => none

/-- The combine of two elements in a reduction or scan (R184): binary32-style integers with bit 3 of XF, else exact arithmetic under
the entry. -/
def combined (f : Fmt.Entry) (xf : BitVec 6) (x y : Nat × BitVec 5) : Nat × BitVec 5 :=
  let a : Lane := BitVec.ofNat 32 x.1
  let b : Lane := BitVec.ofNat 32 y.1
  let u := Fmt.decode f x.1
  let v := Fmt.decode f y.1
  let r : Nat × BitVec 5 :=
    if xf.getLsbD 3 then
      ((match xf.toNat % 8 with
        | 0 => BitVec.ofInt 32 (a.toInt + b.toInt)
        | 1 => BitVec.ofInt 32 (min a.toInt b.toInt)
        | 2 => BitVec.ofInt 32 (max a.toInt b.toInt)
        | 3 => a &&& b
        | 4 => a ||| b
        | _ => a ^^^ b).toNat, 0)
    else match xf.toNat % 8 with
      | 0 => encoded f .rne false (u.add v false)
      | 1 => lesser f false u v (x.1, 0) (y.1, 0)
      | _ => lesser f true u v (x.1, 0) (y.1, 0)
  (r.1, x.2 ||| y.2 ||| r.2)

/-- The combine of two values of which either may be absent: an absent one leaves the other (R185). -/
def combineAt (f : Fmt.Entry) (xf : BitVec 6) (x y : Option (Nat × BitVec 5)) : Option (Nat × BitVec 5) :=
  match x, y with
  | some x, some y => some (combined f xf x y)
  | some x, none => some x
  | none, y => y

/-- The value of each lane after the steps of distance 1, 2, 4, 8 and 16 of a reduction (R185) or a scan (R186). -/
def afterSteps (scan : Bool) (f : Fmt.Entry) (xf : BitVec 6) (start : Nat → Option (Nat × BitVec 5)) : Nat → Nat → Option (Nat × BitVec 5)
  | 0, l => start l
  | n + 1, l =>
    let v := afterSteps scan f xf start n
    let d := 2 ^ n
    if scan then if d ≤ l then combineAt f xf (v (l - d)) (v l) else v l
    else combineAt f xf (v (min l (l ^^^ d))) (v (max l (l ^^^ d)))

-- ## special registers

/-- The value of a special register of a group of team `t` and cluster `c`, from the registers' maps (R3, R17, R132, R143, R158, R217,
R265, R266, R274, R284, R287, R304, R305, R310, R342, R373); none for FQFREE, RQFREE and an unassigned number. -/
def specialValue (s : State) (g : Group) (t : Team) (c : Cluster) (n : Nat) : Option Word :=
  let num (x : Nat) : Option Word := some (BitVec.ofNat 64 x)
  let bit (b : Bool) : Nat := if b then 1 else 0
  let u := g.trap.usr
  let y := g.trap.sys
  -- word `j` of a range-lock entry's image (R274)
  let lock (j : Nat) : Option Word :=
    match s.locks.find? fun e => e.core == g.id.core && e.idx == g.sel.rl with
    | none => some 0
    | some e => some (nth 0 [BitVec.ofNat 64 (1 + 2 * bit e.kind + 4 * bit e.ssp + 8 * bit e.dsp + 16 * bit e.nosrc + 32 * e.tag + 2048 * e.slot
        + 32768 * e.quad), e.slo, e.shi, e.dlo, e.dhi] j)
  let stack : DivEntry := nth { isPath := false, pc := 0, mask := 0 } g.dv g.sel.dv
  match n with
  | 0x000 => num 32
  | 0x001 => num (g.id.grpid % 16)
  | 0x002 => num (t.num % 16)
  | 0x003 => num (c.clustid % 2 ^ 48)
  | 0x004 => num (c.launch % 2 ^ 42 + 2 ^ 42 * c.node + 2 ^ 58 * c.gslot)
  | 0x005 => num (s.lcore t % 65536)
  | 0x006 => num (g.id.core % 256)
  | 0x007 => num ((s.nodeWord c.vf c.gslot c.node 8).toNat % 2 ^ 48)
  | 0x008 => num (t.ngroups + 256 * c.w + 4096 * c.h)
  | 0x009 => some (s.device.devcfg &&& 0x1FFF1FFF)
  | 0x010 => num g.fflags.toNat
  | 0x011 => some g.seed
  | 0x022 => num g.ldcnt
  | 0x023 => num g.stcnt
  | 0x024 => num ((List.range 64).countP fun k => g.tagBusy.getLsbD k)
  | 0x025 => num t.seqr.flight.length
  | 0x026 => num g.pidx.toNat
  | 0x027 | 0x83B => some g.enacc
  | 0x028 | 0x82B => num g.dvDepth
  | 0x029 => num (g.mask &&& g.live).toNat
  | 0x02A | 0x837 => some g.tagDone
  | 0x02B => some g.tagFlt
  | 0x02C => some (t.seqr.mxpc &&& ~~~7)
  | 0x02D => num (bit t.seqr.run + 2 * bit t.seqr.flt + 128 * (t.seqr.flight.length % 16)
      + (match t.seqr.barw with | some b => 2048 + 4096 * (b % 16) | none => 0) + 65536 * (t.seqr.fcode % 256))
  | 0x030 => num s.clock
  | 0x031 | 0x838 => some g.ltime
  | 0x032 => num g.agelim.toNat
  | 0x03F => num (if s.det g.id.vf then (s.modeOf g.id.vf &&& ~~~2).toNat else (s.modeOf g.id.vf).toNat)
  | 0x040 => num u.cause.toNat | 0x041 => num u.det0.toNat | 0x042 => num u.det1.toNat | 0x043 => num u.det2.toNat
  | 0x044 => some u.pc | 0x045 => some g.trap.utvec | 0x046 => num u.mask.toNat
  | 0x047 => num (g.trap.lvl.toNat + 4 * g.trap.plvl.toNat + 16 * g.trap.udepth.toNat + 512 * g.trap.sdepth.toNat)
  | 0x048 => some (nth 0 g.trap.tdec 0) | 0x049 => some (nth 0 g.trap.tdec 1) | 0x04A => some (nth 0 g.trap.tdec 2) | 0x04B => some (nth 0 g.trap.tdec 3)
  | 0x04C => some (nth 0 u.scr 0) | 0x04D => some (nth 0 u.scr 1) | 0x04E => some (nth 0 u.scr 2) | 0x04F => some (nth 0 u.scr 3)
  | 0x800 => some (s.vf g.id.vf).s1root
  | 0x801 => num 0
  | 0x802 => num (bit (s.vf g.id.vf).tlbi.isSome)
  | 0x810 => num y.cause.toNat | 0x811 => num y.det0.toNat | 0x812 => num y.det1.toNat | 0x813 => num y.det2.toNat
  | 0x814 => some y.pc | 0x815 => some (s.vf g.id.vf).stvec | 0x816 => num y.mask.toNat | 0x817 => some g.trap.utdeleg
  | 0x818 => some (nth 0 y.scr 0) | 0x819 => some (nth 0 y.scr 1) | 0x81A => some (nth 0 y.scr 2) | 0x81B => some (nth 0 y.scr 3)
  | 0x820 => num (g.getP 0).toNat | 0x821 => num (g.getP 1).toNat | 0x822 => num (g.getP 2).toNat | 0x823 => num (g.getP 3).toNat
  | 0x824 => num (g.getP 4).toNat | 0x825 => num (g.getP 5).toNat | 0x826 => num (g.getP 6).toNat
  | 0x827 => num (g.regs.k0.toNat + 65536 * g.regs.k1.toNat)
  | 0x828 => num g.sel.dv
  | 0x829 => some ((stack.pc &&& ~~~7) ||| BitVec.ofNat 64 (bit stack.isPath))
  | 0x82A => num stack.mask.toNat
  | 0x82C => num g.sel.bar
  | 0x82D => num (nth 0 t.arrive g.sel.bar).toNat
  | 0x82E => num g.sel.fmt
  | 0x82F => num (nth 0 t.table g.sel.fmt).toNat
  | 0x830 => num ((List.range 8).foldl (fun m k => if g.fmtPend.any fun e => e.1 == k then m + 2 ^ k else m) 0)
  | 0x831 => num g.sel.rl
  | 0x832 => lock 0 | 0x833 => lock 1 | 0x834 => lock 2 | 0x835 => lock 3 | 0x836 => lock 4
  | 0x839 => num g.sel.acc
  | 0x83A => some (match s.tileKey g g.sel.acc with | some k => (Sparse.get 0 s.tileSteps k).setWidth 64 | none => 0)
  | _ => none

/-- A program may access a special register: the privileged ones only at level 2 (R97), a timing register with DET = 1 only while
RAWCLK = 1 (R18). -/
def mayAccess (g : Group) (n : Nat) : Prop := 0x800 ≤ n → g.trap.lvl = 2

/-- The group after `swr` of a register that is the group's own (R17, R98, R158, R305, R342). -/
def writtenGroup (g : Group) (n : Nat) (w : Word) : Option Group :=
  let usr (f : TrapRegs → TrapRegs) : Option Group := some { g with trap := { g.trap with usr := f g.trap.usr } }
  let sys (f : TrapRegs → TrapRegs) : Option Group := some { g with trap := { g.trap with sys := f g.trap.sys } }
  let sel (x : CtxSel) : Option Group := some { g with sel := x }
  let low3 : Word := BitVec.ofNat 64 (w.toNat / 8 * 8)
  let stack : DivEntry := nth { isPath := false, pc := 0, mask := 0 } g.dv g.sel.dv
  match n with
  | 0x010 => some { g with fflags := w.extractLsb' 0 5 }
  | 0x011 => some { g with seed := w }
  | 0x032 => some { g with agelim := BitVec.ofNat 16 (max 64 (w.toNat % 65536)) }
  | 0x044 => usr fun r => { r with pc := low3 }
  | 0x045 => some { g with trap := { g.trap with utvec := BitVec.ofNat 64 (w.toNat / 8 * 8 + w.toNat % 2) } }
  | 0x046 => usr fun r => { r with mask := w.extractLsb' 0 32 }
  | 0x04C => usr fun r => { r with scr := putNth r.scr 0 w } | 0x04D => usr fun r => { r with scr := putNth r.scr 1 w }
  | 0x04E => usr fun r => { r with scr := putNth r.scr 2 w } | 0x04F => usr fun r => { r with scr := putNth r.scr 3 w }
  | 0x814 => sys fun r => { r with pc := low3 }
  | 0x816 => sys fun r => { r with mask := w.extractLsb' 0 32 }
  | 0x817 => some { g with trap := { g.trap with
      utdeleg := w &&& (1 <<< 3 ||| 1 <<< 4 ||| 1 <<< 5 ||| 1 <<< 8 ||| 1 <<< 13 ||| 1 <<< 14 ||| 1 <<< 15 ||| 1 <<< 19) } }
  | 0x818 => sys fun r => { r with scr := putNth r.scr 0 w } | 0x819 => sys fun r => { r with scr := putNth r.scr 1 w }
  | 0x81A => sys fun r => { r with scr := putNth r.scr 2 w } | 0x81B => sys fun r => { r with scr := putNth r.scr 3 w }
  | 0x820 => some (g.setP 0 (w.extractLsb' 0 32)) | 0x821 => some (g.setP 1 (w.extractLsb' 0 32)) | 0x822 => some (g.setP 2 (w.extractLsb' 0 32))
  | 0x823 => some (g.setP 3 (w.extractLsb' 0 32)) | 0x824 => some (g.setP 4 (w.extractLsb' 0 32)) | 0x825 => some (g.setP 5 (w.extractLsb' 0 32))
  | 0x826 => some (g.setP 6 (w.extractLsb' 0 32))
  | 0x827 => some { g with regs := { g.regs with k0 := w.extractLsb' 0 16, k1 := w.extractLsb' 16 16 } }
  | 0x828 => sel { g.sel with dv := w.toNat % 16 }
  | 0x829 => some { g with dv := putNth g.dv g.sel.dv { stack with pc := low3, isPath := w.getLsbD 0 } }
  | 0x82A => some { g with dv := putNth g.dv g.sel.dv { stack with mask := w.extractLsb' 0 32 } }
  | 0x82B => some { g with dvDepth := min 16 (w.toNat % 32) }
  | 0x82C => sel { g.sel with bar := w.toNat % 32 % 18 }
  | 0x82E => sel { g.sel with fmt := w.toNat % 8 }
  | 0x830 => some { g with fmtPend := ((List.range 8).filter fun k => w.getLsbD k).map fun k => (k, nth 0 g.view k) }
  | 0x831 => sel { g.sel with rl := w.toNat % 128 % 72 }
  | 0x833 => sel { g.sel with image := putNth g.sel.image 1 w } | 0x834 => sel { g.sel with image := putNth g.sel.image 2 w }
  | 0x835 => sel { g.sel with image := putNth g.sel.image 3 w } | 0x836 => sel { g.sel with image := putNth g.sel.image 4 w }
  | 0x837 => some { g with tagDone := g.tagDone ||| (w &&& ~~~ g.tagBusy) }
  | 0x838 => some { g with ltime := w }
  | 0x839 => sel { g.sel with acc := w.toNat % 8 }
  | 0x83B => some { g with enacc := w }
  | _ => none

-- ## divergence, ends and handlers

/-- Entry `n` of the divergence stack, counted from the bottom (R143). -/
def Group.entryAt (g : Group) (n : Nat) : DivEntry := nth { isPath := false, pc := 0, mask := 0 } g.dv n

/-- The first `n` entries of the stack are as before. -/
def SameStack (g h : Group) (n : Nat) : Prop := ∀ k, k < n → h.entryAt k = g.entryAt k

/-- Bits 63:3 of an address register with bits 2:0 read as 0. -/
def aligned8 (w : Word) : Word := BitVec.ofNat 64 (w.toNat / 8 * 8)

/-- The trap registers of a level hold a trap (R304, R306): cause, detail, the address of its word and M. -/
structure Saved (r : TrapRegs) (t : TrapReq) (m : Lane) : Prop where
  cause : r.cause = t.cause false
  det : r.det0 = t.detail.extractLsb' 0 32 ∧ r.det1 = t.detail.extractLsb' 32 32 ∧ r.det2 = t.detail.extractLsb' 64 32
  pc : r.pc = t.pc &&& ~~~7
  mask : r.mask = m

/-- A group has entered the user handler (R306). -/
structure EnteredUser (g h : Group) (t : TrapReq) : Prop where
  saved : Saved h.trap.usr t g.mask
  level : h.trap.lvl = 1 ∧ h.trap.udepth.toNat = g.dvDepth % 32
  pc : h.pc = aligned8 g.trap.utvec
  mask : h.mask = g.live
  stack : h.live = g.live ∧ h.dv = g.dv ∧ h.dvDepth = g.dvDepth
  rest : h.trap.sys = g.trap.sys ∧ h.trap.plvl = g.trap.plvl ∧ h.trap.entry = none ∧ h.pidx = g.pidx ∧ h.seed = g.seed ∧ h.ltime = g.ltime

/-- A group has entered the system handler (R306). -/
structure EnteredSystem (g h : Group) (t : TrapReq) (stvec : Word) : Prop where
  saved : Saved h.trap.sys t g.mask
  level : h.trap.lvl = 2 ∧ h.trap.plvl = g.trap.lvl ∧ h.trap.sdepth.toNat = g.dvDepth % 32
  pc : h.pc = aligned8 stvec
  mask : h.mask = g.live
  stack : h.live = g.live ∧ h.dv = g.dv ∧ h.dvDepth = g.dvDepth
  rest : h.trap.usr = g.trap.usr ∧ h.trap.entry = none ∧ h.pidx = g.pidx ∧ h.seed = g.seed ∧ h.ltime = g.ltime

/-- A trap that a handler or the fatal way may take: no debug event and no replayable fault (R302). -/
def Handled (t : TrapReq) : Prop :=
  t.grp ≠ 18 ∧ ¬ (t.grp = 6 ∧ (t.code = 1 ∨ t.code = 3 ∨ t.code = 4)) ∧ ¬ (t.grp = 7 ∧ 1 ≤ t.code ∧ t.code ≤ 4)

/-- A trap that is fatal at every level (R302). -/
def AlwaysFatal (s : State) (g : Group) (t : TrapReq) : Prop := t.grp = 16 ∨ t.grp = 17 ∨ (t.async = true ∧ s.det g.id.vf = true)

/-- A trap goes to the user handler (R302). -/
def ToUser (s : State) (g : Group) (t : TrapReq) : Prop :=
  Handled t ∧ ¬ AlwaysFatal s g t ∧ g.trap.lvl = 0 ∧ g.trap.utvec.getLsbD 0 = true ∧ (t.grp = 1 ∨ t.grp = 2 ∨ g.trap.utdeleg.getLsbD t.grp = true)

/-- A trap goes to the system handler (R302). -/
def ToSystem (s : State) (g : Group) (t : TrapReq) : Prop :=
  Handled t ∧ ¬ AlwaysFatal s g t ∧ ¬ ToUser s g t ∧ g.trap.lvl.toNat ≤ 1 ∧ (s.vf g.id.vf).stvec.getLsbD 0 = true

/-- A trap is fatal (R302). -/
def ToFatal (s : State) (g : Group) (t : TrapReq) : Prop := Handled t ∧ ¬ ToUser s g t ∧ ¬ ToSystem s g t

/-- No older load, get, atomic or check of the group is outstanding, and no element of an interrupted `vscat`: what an entry waits for
(R249, R306). -/
def Drained (g : Group) : Prop := ∀ o ∈ g.ops, o.kind.isLoad = false ∧ o.unchecked = false ∧ o.dests = [] ∧ o.ltime ≠ g.ltime

-- ## memory words

/-- A trap that a word raises at its address: what words count aside, and the hold latches of its operands (R21), nothing has changed
before it is taken. -/
def RaisesTrap (s : State) (g : Group) (i : Instr) (t : TrapReq) : Prop :=
  ∃ s1 h, SameMachine s s1 ∧ SameRegisters s s1 ∧ SameOthers s s1 g.id.key ∧ s1.group? g.id.key = some h ∧ SameGroup g h {} ∧ h.pc = g.pc ∧
    h.ltime = g.ltime ∧ exec i s = .next (s1.takeTrap h { t with pc := g.pc })

/-- The address of a lane of a word of layout M (R134). -/
def laneAddress (g : Group) (o : OpM) (index : Nat → Lane) (l : Nat) : Word :=
  BitVec.ofInt 64 (((g.getS o.sb.toNat).toNat : Int) + (if o.scl = 7 then 0 else (index l).toInt * 2 ^ o.scl.toNat) + 8 * (o.disp.toNat : Int))

/-- What a memory word of one element asks for: its lanes in ascending order, and the checks of step 1 of R243. -/
structure AccessPlan where
  req : MemReq
  lanes : List LaneReq
  ok : Prop

/-- The memory words of one element, with their addresses, registers and data (R93, R134, R135, R246, R254, R256, R258). -/
def memoryWord (g : Group) (i : Instr) : Option AccessPlan :=
  let bytes (o : OpM) : Nat := 2 ^ o.wid.toNat
  let rows (o : OpM) : Nat := max 1 (bytes o / 4)
  let at' (o : OpM) (l : Nat) : Word := laneAddress g o (fun l => g.getV (g.rowOf o.a l) l) l
  let data (o : OpM) (l : Nat) : List Byte := g.laneBytes (g.rowOf o.d l) l (bytes o)
  let plan (o : OpM) (kind : OpKind) (stash sync : Bool) (span : Nat) (lane : Nat → LaneReq) : AccessPlan :=
    { req := { kind, stash, ord := o.ord, sco := o.sco, uc := o.uc, dz := o.dz == 1, sync }
      lanes := (lanesOf (g.active o.pred)).map lane
      ok := g.DestOk (g.active o.pred) o.d span ∧ (o.scl ≠ 7 → g.DestOk (g.active o.pred) o.a) }
  let load (o : OpM) (stash : Bool) : AccessPlan :=
    plan o .load stash false (rows o) fun l => { lane := l, va := at' o l, size := bytes o, reg := g.rowOf o.d l }
  let store (o : OpM) (stash : Bool) : AccessPlan :=
    plan o .store stash false (rows o) fun l => { lane := l, va := at' o l, size := bytes o, data := data o l }
  let atom (o : OpM) (op : RmwOp) : AccessPlan :=
    plan o (.rmw op) false true (rows o) fun l => { lane := l, va := at' o l, size := bytes o, reg := g.rowOf o.d l, data := data o l }
  let red (o : OpM) (op : RmwOp) : AccessPlan :=
    plan o (.red op) false true (rows o) fun l => { lane := l, va := at' o l, size := bytes o, data := data o l }
  let mbox (o : OpM) (put : Bool) : AccessPlan :=
    { req := { kind := if put then .mboxPut o.a.toNat else .mboxGet o.a.toNat, ord := o.ord, sco := o.sco, uc := o.uc, dz := o.dz == 1, sync := true, align := 4 }
      lanes := [0, 1, 2, 3].map fun l => { lane := l, va := laneAddress g { o with scl := 7 } (fun _ => 0) l, size := 128, reg := g.rowOf o.d l
                                           data := if put then leBytes 4 (g.fetchV o.d 0 l).toNat else [] }
      ok := g.DestOk 0xF o.d }
  let scalar (o : OpS) (n : Nat) (st : Bool) : AccessPlan :=
    { req := { kind := if st then .store else .sload o.sd.toNat, align := 1, dev := true }
      lanes := [{ lane := 32, va := BitVec.ofInt 64 (((g.getS o.sa.toNat).toNat : Int) + o.imm.toInt), size := n
                  data := if st then leBytes n (g.getS o.sb.toNat).toNat else [] }]
      ok := g.getC o.cond.toNat = true ∧ ∀ e ∈ g.fqHeld, e.2 = 0 }
  match i with
  | .vldG o => some (load o false) | .vldS o => some (load o true) | .vstG o => some (store o false) | .vstS o => some (store o true)
  | .vatomAdd o => some (atom o .add) | .vatomMin o => some (atom o .min) | .vatomMax o => some (atom o .max) | .vatomAnd o => some (atom o .and)
  | .vatomOr o => some (atom o .or) | .vatomXor o => some (atom o .xor) | .vatomXchg o => some (atom o .xchg)
  | .vatomCas o => some (plan o (.rmw .cas) false true (2 * rows o) fun l =>
      { lane := l, va := at' o l, size := bytes o, reg := g.rowOf o.d l, data := data o l
        swap := g.laneBytes (g.rowOf o.d l + rows o) l (bytes o) })
  | .vredAdd o => some (red o .add) | .vredMin o => some (red o .min) | .vredMax o => some (red o .max) | .vredAnd o => some (red o .and)
  | .vredOr o => some (red o .or) | .vredXor o => some (red o .xor)
  | .mboxPut o => some (mbox o true) | .mboxGet o => some (mbox o false)
  | .sldB o => some (scalar o 1 false) | .sldH o => some (scalar o 2 false) | .sldW o => some (scalar o 4 false) | .sldD o => some (scalar o 8 false)
  | .sstB o => some (scalar o 1 true) | .sstH o => some (scalar o 2 true) | .sstW o => some (scalar o 4 true) | .sstD o => some (scalar o 8 true)
  | _ => none

/-- The code of cause group 8 for a misaligned access of a word (R93, R136, R243). -/
def misalignedCode (i : Instr) : Nat :=
  match i with
  | .mboxPut _ | .mboxGet _ => 4
  | .sldB _ | .sldH _ | .sldW _ | .sldD _ | .sstB _ | .sstH _ | .sstW _ | .sstD _ => 1
  | _ => 3

/-- An access passes steps 2 to 4 of R243, with a counter below 255 (R150) and no watchpoint on it (R417): `pas` are its physical
addresses with their types, `s'` is the state that translation leaves. -/
structure Passes (s : State) (g : Group) (a : AccessPlan) (pas : List (Nat × Nat)) (s' : State) : Prop where
  room : g.memStall a.req = false
  /-- the forwarding table has room for the rows of a stash store (R202) -/
  table : s.tableFull g a.req a.lanes = false
  unwatched : watchTrap g a.req.kind.access a.req.elem a.lanes = none
  placed : ∃ places, allOk (a.lanes.map (s.place g a.req)) = .ok places ∧ s.resolve g a.req a.lanes places = (.ok pas, s') ∧
    s'.locksPass g a.req a.lanes places = none
  group : s'.group? g.id.key = some g
  /-- no address lies in the quota image of the group's own window, where a store traps (R326) -/
  plain : ∀ p ∈ pas, ∀ off, windowAt p.1 = some (.vf g.id.vf, off) → ¬ (0x100 ≤ off ∧ off < 0x200)

/-- The parts of a pending access: one for each lane, at its physical address. -/
def AccessPlan.parts (a : AccessPlan) (pas : List (Nat × Nat)) : List Part :=
  (a.lanes.zip pas).map fun x => { lane := x.1.lane, va := x.1.va.toNat, addr := x.2.1, size := x.1.size, data := x.1.data, swap := x.1.swap
                                   reg := x.1.reg, unc := !a.req.stash && x.2.2 == 1 }

/-- The elements of a gather or scatter from the first of a list on pass steps 2 to 4 one after the other (R248). `seen` holds the lines
that the instruction has requested by then (R219). -/
def ElementsPass (o : OpM) (store : Bool) (inst : Nat) : List Nat → List Nat → State → Group → State → Group → Prop
  | [], _, s, g, s', g' => s' = s ∧ g' = g
  | j :: r, seen, s, g, s', g' => ∃ s1 g1,
      let at' : Group := { g with pidx := BitVec.ofNat 4 j, pidxPc := g.pc }
      (s.issueMem at' at' { kind := if store then .store else .load, uc := o.uc, dz := o.dz == 1, elem := j, seen } inst (g.elemReqs o store j)).1
        = .ok (s1, g1) ∧
      ElementsPass o store inst r (seen ++ (g1.ops.filter fun x => g.nextInst ≤ x.id).flatMap MemOp.newLines) s1 g1 s' g'

/-- Nothing but memory itself holds a byte of memory: no stash row is mapped, and no line of a slice may be discarded (R199, R208). -/
def Unshared (s : State) : Prop := s.rows = [] ∧ ∀ x ∈ s.slices, x.dz = false

/-- An operation of a group that may perform, with the checks of step 5 passed, on memory or a stash, in a run without a log. -/
structure Performs (s : State) (key id : Nat) (g : Group) (o : MemOp) : Prop where
  group : s.group? key = some g
  op : (g.ops.find? fun x => x.id == id) = some o
  may : s.eligible g o = true
  checked : s.stepFive g o = none
  space : o.space ≠ .device
  unlogged : s.log g.id.vf = 0
  unshared : Unshared s
  live : o.dz = false
  /-- no earlier request of its core is before it on a path (R203, R205), and the budgets cover its own (R332) -/
  first : s.overtakes g o = false
  fits : s.injectable g o = true
  /-- no line lies behind a link that is down (R372) -/
  linked : ∀ k ∈ s.linesOf o, s.linkBlocks k = false

/-- The bytes of an operation's space. -/
def State.spaceOf (s : State) (o : MemOp) : List Host.Cell := if o.space = .stash then s.stash else s.mem

/-- The new value of a read-modify-write of `n` bits (R256). -/
def rmwValue (op : RmwOp) (n : Nat) (old d swap : BitVec n) : BitVec n :=
  match op with
  | .add => BitVec.ofNat n (old.toNat + d.toNat)
  | .min => if old.toInt ≤ d.toInt then old else d
  | .max => if old.toInt ≥ d.toInt then old else d
  | .and => old &&& d
  | .or => old ||| d
  | .xor => old ^^^ d
  | .xchg => d
  | .cas => if old = d then swap else old

/-- Memory after the read-modify-writes of some parts, one after the other, and the old bytes of each (R256, R257). -/
def rmwSteps (op : RmwOp) : List Host.Cell → List Part → List Host.Cell × List (Part × List Byte)
  | m, [] => (m, [])
  | m, p :: r =>
    let old := Memory.readN m p.addr p.size
    let num (l : List Byte) : BitVec (8 * p.size) := BitVec.ofNat _ (leNat l)
    let new := leBytes p.size (rmwValue op (8 * p.size) (num old) (num p.data) (num p.swap)).toNat
    let rest := rmwSteps op (Memory.writeN m p.addr new) r
    (rest.1, (p, old) :: rest.2)

/-- A register word of a lane's value: four bytes, with zeros past the end (R135). -/
def chunk (bs : List Byte) (j : Nat) : Lane := BitVec.ofNat 32 (leNat ((bs.drop (4 * j)).take 4))

/-- The operation is over: it is pending no more, and every other one is. -/
def Over (g h : Group) (o : MemOp) : Prop := ∀ x, x ∈ h.ops ↔ x ∈ g.ops ∧ x.id ≠ o.id

-- ## engines

/-- No trace of a virtual function is taken: neither the port nor a ring (R425). -/
def Untraced (s : State) (vf : Nat) : Prop :=
  ∀ p, s.partOf vf = some p → s.device.trsel.toNat % 32 ≠ 16 + p.num ∧ (p.trbase.toNat % 32 < 4 ∨ 20 < p.trbase.toNat % 32)

/-- A copy shape as R268 lays it out, and the rule that step 1 of R271 puts to it. -/
def LegalShape (w : Word) : Prop :=
  let x := w.toNat % 2 ^ 24
  let y := w.toNat / 2 ^ 24 % 2 ^ 16
  let z := w.toNat / 2 ^ 40 % 2 ^ 16
  x ≠ 0 ∧ y ≠ 0 ∧ z ≠ 0 ∧ w.toNat < 2 ^ 56 ∧ x * y * z ≤ 2 ^ 32

/-- The bounding range of an endpoint relative to its base (R269). -/
def boundingRange (shape stride : Word) : Int × Int :=
  let y : Int := (shape.toNat / 2 ^ 24 % 2 ^ 16 : Nat)
  let z : Int := (shape.toNat / 2 ^ 40 % 2 ^ 16 : Nat)
  let a := (y - 1) * (stride.extractLsb' 0 32).toInt
  let b := (z - 1) * (stride.extractLsb' 32 32).toInt
  (min 0 a + min 0 b, ((shape.toNat % 2 ^ 24 : Nat) : Int) + max 0 a + max 0 b)

/-- The endpoint that a `cpy` names by an address and a stride register: global memory, or a stash that the team may reach (R267, R197). -/
def EndpointOk (s : State) (g : Group) (isStash : Bool) (addr shape stride : Word) (e : CopyEnd) : Prop :=
  e.isStash = isStash ∧ e.addr = addr ∧ e.ystr = (stride.extractLsb' 0 32).toInt ∧ e.zstr = (stride.extractLsb' 32 32).toInt ∧
    (if isStash then s.stashEnd g addr (boundingRange shape stride).1 (boundingRange shape stride).2 = .ok (e.core, e.base) else e.core = 0 ∧ e.base = 0)

/-- Both endpoints of a `cpy` are usable. -/
structure CopyOk (s : State) (g : Group) (o : OpE) (d r : CopyEnd) : Prop where
  shape : LegalShape (g.getS o.d.toNat)
  free : g.tagBusy.getLsbD o.num.toNat = false ∧ g.tagDone.getLsbD o.num.toNat = false
  dst : EndpointOk s g (o.md.getLsbD 1) (g.getS o.sb1.toNat) (g.getS o.d.toNat) (g.getS (o.a.toNat + 1)) d
  src : EndpointOk s g (o.md.getLsbD 0) (g.getS o.sb2.toNat) (g.getS o.d.toNat) (g.getS o.a.toNat) r

/-- The 64 KiB granules of an endpoint (R219, R271). -/
def CopyEnd.pages (e : CopyEnd) (shape : Word) : List Nat :=
  if e.isStash then [] else granules e.addr (shapeX shape) (shapeY shape * shapeZ shape) (shapeY shape) e.ystr e.zstr

/-- A lock of a group's tag is released (R265, R274). -/
def releasedLocks (s : State) (g : Group) (m : Word) : List LockEntry :=
  s.locks.filter fun e => !(e.core == g.id.core && !e.kind && e.quad == g.id.quad && e.slot == g.id.slot && m.getLsbD e.tag)

/-- The team's sequencer issues a word (R286): it runs and waits for nothing, and its cluster stands and does not halt (R300). -/
structure StreamReady (s : State) (k : Nat) (t : Team) (c : Cluster) : Prop where
  cur : s.cur = .seqr k
  team : s.team? k = some t
  cluster : s.cluster? t.cluster = some c
  runs : t.seqr.run = true ∧ t.seqr.faultPost = none ∧ t.seqr.barw = none
  free : s.det c.vf = false
  stands : c.residence = .resident ∧ (c.halting = true → c.atck = true)
  /-- every access of the owner before its `mxgo` has performed (R230, R285) -/
  behind : ∀ h, s.group? t.seqr.owner = some h → ∀ o ∈ h.ops, o.ltime.toNat < t.seqr.went → ∃ n, o.kind = .fsend n

/-- Every key names one group and one team. -/
def KeysOk (s : State) : Prop := (s.groups.map fun g => g.id.key).Nodup ∧ (s.teams.map fun t => t.key).Nodup

/-- Live lanes of the group of a word that files or ends them, after the lanes `m` left. -/
def Group.leftAt (g : Group) (m : Lane) (k : Nat) : Lane := (g.entryAt k).mask &&& ~~~m

-- ## events

/-- What happens of itself, or what a word does, goes on to a state of which something holds. -/
def Does (s : State) (i : Instr) (p : State → Prop) : Prop := ∃ t, exec i s = .next t ∧ p t

/-- The part has the registers of a virtual function, or of a partition. -/
def State.HasVf (s : State) (n : Nat) : Prop := ∃ v ∈ s.vfs, v.num = n
def State.HasPart (s : State) (n : Nat) : Prop := ∃ p ∈ s.parts, p.num = n

/-- A destination word that `fsend` accepts (R374, R380). -/
def State.Reaches (s : State) (d : Word) : Prop :=
  d &&& 0xFFFFFFFFC0C0E000 = 0 ∧ dstPart d < 12 ∧ dstDev d < s.podSize ∧ (dstDev d = s.deviceNum ∨ s.routeSet (dstDev d) ≠ [])

-- ## launches

/-- A group as a launch leaves it (R14, R31, R305): every register 0, scale bytes 0x7F, all lanes live and active, an empty stack, level 0;
its scalar arguments, entry and seed from the record of its node. -/
structure Fresh (g : Group) (rcd : List Word) : Prop where
  place : g.pc = nth 0 rcd 6 ∧ g.seed = nth 0 rcd 15
  args : ∀ j, g.getS j = if j < 16 then nth 0 rcd (16 + j) else 0
  zero : (∀ n l, g.getV n l = 0 ∧ g.getX n l = 0) ∧ (∀ n, g.getZ n = zDefault) ∧ (∀ n, n < 7 → g.getP n = 0 ∧ g.getC n = false) ∧
    g.regs.k0 = 0 ∧ g.regs.k1 = 0
  threads : g.live = BitVec.allOnes 32 ∧ g.mask = BitVec.allOnes 32 ∧ g.dvDepth = 0 ∧ g.wait = .run
  counts : g.fflags = 0 ∧ g.ltime = 0 ∧ g.pidx = 0 ∧ g.agelim = 512 ∧ g.ops = [] ∧ g.rq = []
  tags : g.tagBusy = 0 ∧ g.tagDone = 0 ∧ g.tagFlt = 0
  level : g.trap.lvl = 0 ∧ g.trap.utvec = 0 ∧ g.trap.utdeleg = 0 ∧ g.trap.entry = none ∧ g.trap.async = []

/-- A node of a launch has completed. -/
def State.NodeDone (s : State) (vf k idx : Nat) : Prop := ∃ n, s.node? vf k idx = some n ∧ n.state = .done

-- ## invariants

/-- Memory and stash hold no entry twice, in rising order, and none that equals an unlisted byte. -/
def State.MemOk (s : State) : Prop := Memory.wf s.mem = true ∧ Memory.wf s.stash = true

end Sys2Proof.Machine
end

