-- ==== Sys2Proof/Certificates/Slice0/Obligations.lean ====
section
/-! DEFINITION. The statements for the provers: what the numbered rules say of each instruction, of the events, of traps, memory,
decoding and the invariants of a state. -/
open Sys2Proof Sys2Proof.Machine

/-- R76, R218, R286, R307: a step whose head of the agenda is a group that may issue, with nothing before its word, fetches the eight bytes at
the group's PC as a word. A word that decodes runs as its instruction, on the state the fetch leaves with the group as the current one, but
one of a group in REPLAY that the log has no event for, which diverges with code 4 (R405); one that does not decode traps with the first
failing check. A sequencer's fetched word and an event run in the same way. A clock has passed
before, and what follows of itself is done after (log entry 9). -/
def Obligations.StepRunsDecodedInstruction : Prop :=
  ∀ (s : State) (rest : List Agenda),
    let s0 : State := { { s.tick with cur := .none } with agenda := rest }
    s0.awake = true →
    (∀ (key : Nat) (g : Group) (pa mt : Nat) (s1 : State), s.agenda = .issue key :: rest → s0.group? key = some g → s0.mayIssue g = true →
      s0.beforeWord g = none → s0.translate g.asker .fetch g.pc = (.ok (pa, mt), s1) →
      let w : Word := BitVec.ofNat 64 (leNat (s1.readMem pa 8).1)
      let s2 : State := (s1.readMem pa 8).2
      (∀ i, Dec.group w = .ok i → s0.unfit g i = false → step s = settled1 (exec i { s2 with cur := .group key })) ∧
      (∀ i, Dec.group w = .ok i → s0.unfit g i = true → step s = settled1 (.next (s0.divergeGroup g 4 3 g.ltime))) ∧
      (∀ b, Dec.group w = .bad b → (∀ n, namedScalar w = some n → ∀ o ∈ (s2.current g g).ops, 1000 + n ∉ o.dests) →
        step s = settled1 (.next (s2.takeTrap (s2.current g g) (refusedTrap (s2.current g g) w b))))) ∧
    (∀ (key : Nat) (t : Team) (w : Word) (i : Instr), s.agenda = .stream key :: rest → s0.team? key = some t → t.seqr.word = some w →
      Dec.stream w = .ok i → step s = settled1 (exec i { s0 with cur := .seqr key })) ∧
    (∀ i : Instr, s.agenda = .event i :: rest → Enc.shape i = .event → step s = settled1 (exec i s0))

/-- Words that the spec writes out, with the instructions they stand for: `fma`, `iadd` with an immediate, `sadd`, `bra`, `vatom.add`,
`cpy.wall`, `trap`, `vjoin`, `srd` and a P-form word. -/
def Obligations.DecodeWords : Prop :=
  decodeWord 0x00D002806006104A#64 = some (.fma { pred := 2, fmt := 0, d := 10, a := 6, ap := 0, b := 12, bp := 1, c := 18, ha := 1, hb := 0 }) ∧
  decodeWord 0x903800C000000005#64 = some (.iaddImm { pred := 7, fmt := 0, d := 3, sr := 0, rnd := 0, sat := 0, imm := 5 }) ∧
  decodeWord 0xC038620A00000000#64 = some (.sadd { cond := 7, sd := 3, sa := 4, sb := 5, isel := 0, imm := 0 }) ∧
  decodeWord 0xCC08000100000007#64 = some (.bra { cond := 1, sd := 0, sa := 0, sb := 0, isel := 1, imm := 7 }) ∧
  decodeWord 0x2808018000274040#64 =
    some (.vatomAdd { pred := 1, fmt := 0, d := 6, a := 0, disp := 0, sb := 4, scl := 7, wid := 2, uc := 0, dz := 0, sco := 2, ord := 0 }) ∧
  decodeWord 0x30B8000000380000#64 = some (.cpyWall { pred := 7, fmt := 0, d := 0, a := 0, sb1 := 7, sb2 := 0, num := 0, sco := 0, md := 0 }) ∧
  decodeWord 0xBC38000000000007#64 = some (.trap { pred := 7, fmt := 0, d := 0, sr := 0, rnd := 0, sat := 0, imm := 7 }) ∧
  decodeWord 0x3838000000000000#64 =
    some (.vjoin { pred := 7, fmt := 0, d := 0, a := 0, ap := 0, b := 0, bp := 0, rnd := 0, sat := 0, xf := 0, ha := 0, hb := 0 }) ∧
  decodeWord 0xD478400100000031#64 = some (.srd { cond := 7, sd := 2, sa := 0, sb := 0, isel := 1, imm := 0x31 }) ∧
  (Dec.group 0x3600000000000000#64).instr = none

/-- R56 to R76: decoding the encoding of a well-formed group-stream word gives it back, and a word that decodes is well-formed and encodes to
itself; the words of a matrix stream likewise. No bit of any of the encodings is dropped. -/
def Obligations.DecodeEncode : Prop :=
  (∀ (i : Instr) (w : Word), WellFormed i = true → i.isStream = false → Sys2Proof.encode i = some w → decodeWord w = some i) ∧
  (∀ (i : Instr) (w : Word), decodeWord w = some i → WellFormed i = true ∧ i.isStream = false ∧ Sys2Proof.encode i = some w) ∧
  (∀ (i : Instr) (w : Word), WellFormed i = true → i.isStream = true → Sys2Proof.encode i = some w → Dec.stream w = .ok i) ∧
  (∀ (i : Instr) (w : Word), Dec.stream w = .ok i → WellFormed i = true ∧ i.isStream = true ∧ Sys2Proof.encode i = some w)

/-- Memory and the stash keep their canonical form, whatever a step does: no byte is listed twice, in rising order, and none that equals what an
unlisted byte reads as. That an unlisted byte reads as 0 is the model's choice (log entry 1). -/
def Obligations.StepKeepsMemory : Prop :=
  ∀ s t : State, s.MemOk → step s = .next t → t.MemOk

/-- The state after reset: memory and stash in their canonical form; the reset values that R312, R321, R325, R398, R421 and R427 give the staged
registers of every partition; no partition holds a core, no work is resident, and the part has not begun its bring-up. Registers to which the
spec gives no reset value are the model's choice (log entry 2), and none of them is named here. -/
def Obligations.ResetState : Prop :=
  State.reset.MemOk ∧ State.reset.device.step = 0 ∧ State.reset.groups = [] ∧ State.reset.teams = [] ∧ State.reset.clusters = [] ∧
  State.reset.agenda = [] ∧
  ∀ n, n < 12 →
    let r := (State.reset.part n).force
    State.reset.HasPart n ∧ r = (State.reset.part n).stagedRegs ∧ r.pcore = [0, 0, 0, 0] ∧ r.pres = [0, 0, 0, 0] ∧ r.pwt = 0 ∧ r.pnotice = 1000 ∧
    (∀ v, v < 16 → nth 1 r.vfid v = 0 ∧ nth 0 r.vfrate v = 0xFFFFFFFFFFFFFFFF ∧ nth 1 r.vfsave v = 0 ∧ nth 0 r.vfsoft v = 3072) ∧
    r.qrbase.toNat % 128 = 4 ∧ r.qrcfg.toNat / 2 ^ 8 % 32 = 20 ∧ r.smpctl = 0 ∧
    (r.ewt0.toNat % 2 ^ 16 = 12 ∧ r.ewt0.toNat / 2 ^ 16 % 2 ^ 16 = 30 ∧ r.ewt0.toNat / 2 ^ 32 % 2 ^ 16 = 8 ∧ r.ewt0.toNat / 2 ^ 48 = 10) ∧
    (r.ewt1.toNat % 2 ^ 16 = 40 ∧ r.ewt1.toNat / 2 ^ 16 % 2 ^ 16 = 45 ∧ r.ewt1.toNat / 2 ^ 32 % 2 ^ 16 = 60 ∧ r.ewt1.toNat / 2 ^ 48 = 6) ∧
    (r.ewt2.toNat % 2 ^ 16 = 2 ∧ r.ewt2.toNat / 2 ^ 16 % 2 ^ 16 = 20 ∧ r.ewt2.toNat / 2 ^ 32 % 2 ^ 16 = 2400) ∧
    (State.reset.part n).host.enabled = false

/-- R81, R83 to R86: a scalar word of arithmetic, logic, bit counts, bit fields and moves writes its result to s[SD], and nothing
else of the machine changes. The quotient is truncated toward zero and the remainder takes the dividend's sign; a zero divisor traps
with group 5, code 1 and the word's OP, before SD changes. -/
def Obligations.ScalarResults : Prop :=
  (
    ∀ (s : State) (g : Group) (i : Instr) (o : OpS) (r : Word), Issues s g i → scalarResult g i = some (o, r) →
      g.getC o.cond.toNat = true →
      ∃ t h, exec i s = .next t ∧ Retired s t g h (g.pc + 8) ∧ h.getS o.sd.toNat = r ∧ SameGroup g h { s := (· = o.sd.toNat) }) ∧
  (
    ∀ (s : State) (g : Group) (i : Instr) (o : OpS) (r : Word), Issues s g i → divisionResult g i = some (o, r) →
      g.getC o.cond.toNat = true →
      (g.opB o ≠ 0 → ∃ t h, exec i s = .next t ∧ Retired s t g h (g.pc + 8) ∧ h.getS o.sd.toNat = r ∧
        SameGroup g h { s := (· = o.sd.toNat) }) ∧
      (g.opB o = 0 → TakesTrap s g i 5 1 (if i = .sdiv o then 4 else 5)))

/-- R87, R88, R15, R81: compares and condition logic write one condition bit; a write to c7 is discarded, and c7 still reads 1. An S-form
word whose COND bit is 0 retires with no effect; `bcc` reads COND as its operand instead. -/
def Obligations.ScalarConditions : Prop :=
  (
    ∀ (s : State) (g : Group) (i : Instr) (o : OpS) (r : Bool), Issues s g i → conditionResult g i = some (o, r) →
      g.getC o.cond.toNat = true → o.sd.toNat < 8 →
      ∃ t h, exec i s = .next t ∧ Retired s t g h (g.pc + 8) ∧
        h.getC o.sd.toNat = (if o.sd.toNat = 7 then true else r) ∧ SameGroup g h { c := fun n => n = o.sd.toNat ∧ n ≠ 7 }) ∧
  (
    ∀ (s : State) (g : Group) (i : Instr) (op : Nat) (r : Enc.RowS) (o : OpS), Issues s g i → Enc.shape i = .s op r o → i ≠ .bcc o →
      g.getC o.cond.toNat = false →
      ∃ t h, exec i s = .next t ∧ Retired s t g h (g.pc + 8) ∧ SameGroup g h {})

/-- R89 to R92: where each transfer goes, and what it writes. `ret` and `jr` to an address with bits 2:0 nonzero trap with group 8, code 2
and the target, and do not transfer. -/
def Obligations.ScalarTransfers : Prop :=
  (
    ∀ (s : State) (g : Group) (o : OpS),
      (Issues s g (.bra o) → g.getC o.cond.toNat = true →
        ∃ t h, exec (.bra o) s = .next t ∧ Retired s t g h (targetOf g o) ∧ SameGroup g h {}) ∧
      (Issues s g (.bra o) → g.getC o.cond.toNat = false →
        ∃ t h, exec (.bra o) s = .next t ∧ Retired s t g h (g.pc + 8) ∧ SameGroup g h {}) ∧
      (Issues s g (.loop o) → g.getC o.cond.toNat = false →
        ∃ t h, exec (.loop o) s = .next t ∧ Retired s t g h (g.pc + 8) ∧ SameGroup g h {}) ∧
      (Issues s g (.bcc o) → ∃ t h, exec (.bcc o) s = .next t ∧
        Retired s t g h (if g.getC o.cond.toNat then g.pc + 8 else targetOf g o) ∧ SameGroup g h {}) ∧
      (Issues s g (.call o) → g.getC o.cond.toNat = true →
        ∃ t h, exec (.call o) s = .next t ∧ Retired s t g h (targetOf g o) ∧ h.getS 63 = g.pc + 8 ∧ SameGroup g h { s := (· = 63) }) ∧
      (Issues s g (.ret o) → g.getC o.cond.toNat = true → (g.getS 63).toNat % 8 = 0 →
        ∃ t h, exec (.ret o) s = .next t ∧ Retired s t g h (g.getS 63) ∧ SameGroup g h {}) ∧
      (Issues s g (.jr o) → g.getC o.cond.toNat = true → (g.getS o.sa.toNat).toNat % 8 = 0 →
        ∃ t h, exec (.jr o) s = .next t ∧ Retired s t g h (g.getS o.sa.toNat) ∧ SameGroup g h {}) ∧
      (Issues s g (.loop o) → g.getC o.cond.toNat = true →
        ∃ t h, exec (.loop o) s = .next t ∧
          Retired s t g h (if 1 < (g.getS o.sa.toNat).toNat then targetOf g o else g.pc + 8) ∧
          h.getS o.sa.toNat = BitVec.ofNat 64 ((g.getS o.sa.toNat).toNat - 1) ∧ SameGroup g h { s := (· = o.sa.toNat) })) ∧
  (
    ∀ (s : State) (g : Group) (o : OpS), g.getC o.cond.toNat = true →
      (Issues s g (.ret o) → (g.getS 63).toNat % 8 ≠ 0 → TakesTrap s g (.ret o) 8 2 (g.getS 63).toNat) ∧
      (Issues s g (.jr o) → (g.getS o.sa.toNat).toNat % 8 ≠ 0 → TakesTrap s g (.jr o) 8 2 (g.getS o.sa.toNat).toNat))
/-- R26, R27, R141: what each permute code delivers to a reading lane: the value of the source lane's register where a live thread holds
that lane, and the all-zero pattern elsewhere. `vperm` gives each active lane the value of A in the lane that B names modulo 32, or 0 where no
live thread holds it. -/
def Obligations.LanePermutation : Prop :=
  (
    ∀ (g : Group) (code : BitVec 10) (perm : BitVec 3) (l : Nat), l < 32 →
      let k0 := g.regs.k0.toNat
      let k1 := g.regs.k1.toNat
      let m := match perm.toNat with
        | 0 => l
        | 1 => (l + k0) % 32
        | 2 => (l + k1) % 32
        | 3 => l ^^^ (k0 % 32)
        | 4 => l ^^^ (k1 % 32)
        | 5 => k0 % 32
        | 6 => k1 % 32
        | _ => 31 - l
      m < 32 ∧ (g.live.getLsbD m = true → g.fetchV code perm l = g.getV (g.rowOf code m) m) ∧
        (g.live.getLsbD m = false → g.fetchV code perm l = 0)) ∧
  (
    ∀ (s : State) (g : Group) (o : OpA), Issues s g (.vperm o) → g.DestOk (g.active o.pred) o.d → g.SrcOk (g.active o.pred) o.b o.bp →
      (g.Names o.a 1 fun m => g.live.getLsbD m = true ∧ ∃ l, l < 32 ∧ (g.active o.pred).getLsbD l = true ∧
        m = (g.fetchV o.b o.bp l).toNat % 32) →
      ∃ t h, exec (.vperm o) s = .next t ∧ Retired s t g h (g.pc + 8) ∧
        (∀ l, l < 32 → (g.active o.pred).getLsbD l = true →
          let m := (g.fetchV o.b o.bp l).toNat % 32
          h.getV (g.rowOf o.d l) l = if g.live.getLsbD m then g.getV (g.rowOf o.a m) m else 0) ∧
        SameGroup g h { v := g.WritesLanes (g.active o.pred) o.d })

/-- R127 to R129, R140, R139, R181, R124: a lane word writes its value in every active lane of its destination, and nothing else of
the machine changes: no inactive lane, no flag, no other register. -/
def Obligations.VectorLaneResults : Prop :=
  ∀ (s : State) (g : Group) (i : Instr) (w : LaneWord), Issues s g i → laneWord s g i = some w →
    g.DestOk (g.active w.pred) w.d → (∀ a ∈ w.srcs, g.SrcOk (g.active w.pred) a.1 a.2) →
    ∃ t h, exec i s = .next t ∧ Retired s t g h (g.pc + 8) ∧
      (∀ l, l < 32 → (g.active w.pred).getLsbD l = true → h.getV (g.rowOf w.d l) l = w.value l) ∧
      SameGroup g h { v := g.WritesLanes (g.active w.pred) w.d }

/-- R128, R15: a compare sets the bits of the active lanes of its predicate and keeps the others; a write to p7 is discarded. -/
def Obligations.VectorCompares : Prop :=
  ∀ (s : State) (g : Group) (i : Instr) (o : OpA) (rel : Lane → Lane → Bool), Issues s g i → integerRel i = some (o, rel) →
    g.SrcOk (g.active o.pred) o.a o.ap → g.SrcOk (g.active o.pred) o.b o.bp →
    ∃ t h, exec i s = .next t ∧ Retired s t g h (g.pc + 8) ∧
      (o.d.toNat ≠ 7 → ∀ l, l < 32 → (h.getP o.d.toNat).getLsbD l =
        if (g.active o.pred).getLsbD l then rel (g.fetchV o.a o.ap l) (g.fetchV o.b o.bp l) else (g.getP o.d.toNat).getLsbD l) ∧
      SameGroup g h { p := fun n => n = o.d.toNat ∧ n ≠ 7 }
/-- R102, R108 to R112, R115 to R120 under an unscaled entry: every element of every active lane is the exact result of the operation
encoded into the entry, the flags are ORed into FFLAGS, and nothing else of the machine changes. -/
def Obligations.FloatResults : Prop :=
  ∀ (s : State) (g : Group) (i : Instr) (w : FloatWord), Issues s g i → floatWord s g i = some w → g.FloatOk w → (g.entry w.fmt).sc = 0 →
    ∃ t h, exec i s = .next t ∧ Retired s t g h (g.pc + 8) ∧ w.Plain g h ∧
      h.fflags = g.fflags ||| raised (g.entry w.fmt) (g.active w.pred) w.elem ∧
      SameGroup g h { v := g.WritesLanes (g.active w.pred) w.d, flags := True }

/-- R41, R43, R44, R102, R123 under a block-scaled entry: in every row that the destination names, each block that an active lane
touches is formed whole under R44 from the exact results, with its scales; nothing else of the machine changes. The mode of `.rsr` in
a lane slot with no thread is log entry 6. -/
def Obligations.BlockScaledResults : Prop :=
  ∀ (s : State) (g : Group) (i : Instr) (w : FloatWord), Issues s g i → floatWord s g i = some w → g.FloatOk w → (g.entry w.fmt).sc ≠ 0 →
    ∃ t h, exec i s = .next t ∧ Retired s t g h (g.pc + 8) ∧ w.Blocks s g h ∧
      SameGroup g h (scaledTouches (g.entry w.fmt) (g.active w.pred) fun m n => n = g.rowOf w.d m)

/-- R19, R25, R104, R36: an integer word of two operands whose destination register lies at or beyond the claim traps with group 3, code 3 and
the register, before any state changes. An element-wise word that names an entry with V = 0 traps with group 4, code 2 and the entry, and a special function
under an entry of another class with code 4, before any state changes. -/
def Obligations.EarlyTraps : Prop :=
  (∀ (s : State) (g : Group) (o : OpA), Issues s g (.iadd o) → o.d.toNat < 768 → g.id.claim ≤ o.d.toNat →
    TakesTrap s g (.iadd o) 3 3 o.d.toNat) ∧
  (
    ∀ (s : State) (g : Group) (i : Instr) (w : FloatWord), Issues s g i → floatWord s g i = some w →
      g.TargetOk (g.active w.pred) w.fmt w.d 1 → (∀ a ∈ w.srcs, g.SourceOk (g.active w.pred) w.srcFmt a.1 a.2) →
      ((g.entry w.fmt).v = false → TakesTrap s g i 4 2 w.fmt) ∧
      ((g.entry w.fmt).v = true → (g.entry w.srcFmt).v = true → w.accepts (g.entry w.fmt) = false → TakesTrap s g i 4 4 w.fmt))

/-- R113, R114, R15: a compare sets the bit of each active lane to whether its relation holds for every element, keeps the other bits, and
raises only NV. `fsel` delivers A where the selector's bit is 1 and B elsewhere: under an unscaled entry the lane's bits, without a flag;
under a block-scaled entry the values, encoded under R44. -/
def Obligations.FloatCompares : Prop :=
  (
    ∀ (s : State) (g : Group) (i : Instr) (o : OpA) (rel : Fmt.Val → Fmt.Val → Bool × BitVec 5), Issues s g i → floatRel i = some (o, rel) →
      let f := g.entry o.fmt.toNat
      let act := g.active o.pred
      let at' (l k : Nat) : Bool × BitVec 5 := rel (g.elem f (.reg o.a o.ap) l k) (g.elem f (.reg o.b o.bp) l k)
      f.v = true → (∀ a ∈ [(o.a, o.ap), (o.b, o.bp)], g.SourceOk act o.fmt.toNat a.1 a.2) →
      ∃ t h, exec i s = .next t ∧ Retired s t g h (g.pc + 8) ∧
        (o.d.toNat ≠ 7 → ∀ l, l < 32 → (h.getP o.d.toNat).getLsbD l =
          if act.getLsbD l then (List.range f.perLane).all fun k => (at' l k).1 else (g.getP o.d.toNat).getLsbD l) ∧
        h.fflags = g.fflags ||| raised f act (fun l k => (0, (at' l k).2)) ∧
        SameGroup g h { p := fun n => n = o.d.toNat ∧ n ≠ 7, flags := True }) ∧
  (
    ∀ (s : State) (g : Group) (o : OpA), Issues s g (.fsel o) →
      let f := g.entry o.fmt.toNat
      let act := g.active o.pred
      let sel (l : Nat) : Bool := (g.getP (o.xf.toNat % 8)).getLsbD l
      f.v = true → g.TargetOk act o.fmt.toNat o.d 1 → (∀ a ∈ [(o.a, o.ap), (o.b, o.bp)], g.SourceOk act o.fmt.toNat a.1 a.2) →
      ∃ t h, exec (.fsel o) s = .next t ∧ Retired s t g h (g.pc + 8) ∧
        (f.sc = 0 → (∀ l, l < 32 → act.getLsbD l = true →
            h.getV (g.rowOf o.d l) l = if sel l then g.fetchV o.a o.ap l else g.fetchV o.b o.bp l) ∧
          SameGroup g h { v := g.WritesLanes act o.d }) ∧
        (f.sc ≠ 0 → (∀ l, l < 32 → act.getLsbD l = true →
            BlockRow g h f (g.rowOf o.d l) (fun m => act.getLsbD m && g.rowOf o.d m == g.rowOf o.d l)
              (fun l k => if sel l then g.elem f (.reg o.a o.ap) l k else g.elem f (.reg o.b o.bp) l k) (s.rnd g 0 false)) ∧
          SameGroup g h (scaledTouches f act fun m n => n = g.rowOf o.d m)))

/-- R121, R122: element i of the result is the conversion of the source element that the word gives it, over k registers; elements past
the source's are zero; a block-scaled destination is formed under R44. -/
def Obligations.PackAndUnpack : Prop :=
  ∀ (s : State) (g : Group) (o : OpA),
    let nf := o.fmt.toNat
    let ns := o.xf.toNat % 8
    let fd := g.entry nf
    let fs := g.entry ns
    let act := g.active o.pred
    let nd := fd.perLane
    let na := fs.perLane
    -- element `k` of source register `r` after the first, as delivered to lane `l`
    let src (r l k : Nat) : Fmt.Val := g.elem fs (.reg (o.a + BitVec.ofNat 10 r) o.ap) l k
    let put (x : Fmt.Val) (l e : Nat) : Nat × BitVec 5 := encoded fd (modeOf s g o.rnd l e) (o.sat == 1) (x, 0)
    -- what a word that writes `rows` registers with these elements, of which those at or past `m` positions are zero, leaves
    let leaves (i : Instr) (rows : Nat) (m : Nat) (x : Nat → Nat → Nat → Fmt.Val) : Prop :=
      let val (r l k : Nat) : Fmt.Val := if r * nd + k < m then x r l k else .zero false
      let bits (r l k : Nat) : Nat × BitVec 5 := if r * nd + k < m then put (x r l k) l k else (0, 0)
      ∃ t h, exec i s = .next t ∧ Retired s t g h (g.pc + 8) ∧
        (fd.sc = 0 → (∀ r l, r < rows → l < 32 → act.getLsbD l = true →
            h.getV (g.rowOf (o.d + BitVec.ofNat 10 r) l) l = Fmt.joinElems fd ((List.range nd).map fun k => (bits r l k).1)) ∧
          h.fflags = (List.range rows).foldl (fun m r => m ||| raised fd act (bits r)) g.fflags ∧
          SameGroup g h { v := fun n l => act.getLsbD l = true ∧ ∃ r, r < rows ∧ n = g.rowOf (o.d + BitVec.ofNat 10 r) l, flags := True }) ∧
        (fd.sc ≠ 0 → (∀ r l, r < rows → l < 32 → act.getLsbD l = true →
            BlockRow g h fd (g.rowOf (o.d + BitVec.ofNat 10 r) l)
              (fun m => act.getLsbD m && g.rowOf (o.d + BitVec.ofNat 10 r) m == g.rowOf (o.d + BitVec.ofNat 10 r) l)
              (val r) (s.rnd g o.rnd (o.sat == 1))) ∧
          SameGroup g h (scaledTouches fd act fun m n => ∃ r, r < rows ∧ n = g.rowOf (o.d + BitVec.ofNat 10 r) m))
    fd.v = true → fs.v = true →
    (Issues s g (.fpack o) → fd.width < fs.width → o.a.toNat < 768 → g.TargetOk act nf o.d 1 →
      g.SourceOk act ns o.a o.ap (max 1 ((nd + na - 1) / na)) → leaves (.fpack o) 1 nd fun _ l k => src (k / na) l (k % na)) ∧
    (Issues s g (.funpack o) → fs.width < fd.width → o.d.toNat + max 1 ((na + nd - 1) / nd) ≤ 768 → g.SourceOk act ns o.a o.ap →
      g.TargetOk act nf o.d (max 1 ((na + nd - 1) / nd)) →
      leaves (.funpack o) (max 1 ((na + nd - 1) / nd)) na fun r l k => src 0 l (r * nd + k))

/-- R67, R130: both halves of a P-form word read their sources before either writes, each computes its operation in `.rne` without
saturation, and the flags of both are raised. The destinations are direct and differ (R68). -/
def Obligations.PairedHalves : Prop :=
  ∀ (s : State) (g : Group) (hi lo : Half) (i j : Instr), Issues s g (.pair hi lo) → formOf hi = some i → formOf lo = some j →
    hi.d.toNat < 768 → lo.d.toNat < 768 → hi.d ≠ lo.d → HalfOk s g i → HalfOk s g j →
    ∃ t h, exec (.pair hi lo) s = .next t ∧ Retired s t g h (g.pc + 8) ∧ HalfDone s g h i ∧ HalfDone s g h j ∧
      ((∀ w, floatWord s g i = some w ∨ floatWord s g j = some w → (g.entry w.fmt).sc = 0) →
        h.fflags = g.fflags ||| halfFlags s g i ||| halfFlags s g j) ∧
      (let row (n : Nat) : Prop := n = hi.d.toNat ∨ n = lo.d.toNat
       SameGroup g h { v := fun n l => row n ∧ ((g.active 7).getLsbD l = true ∨ (g.entry hi.fmt.toNat).sc ≠ 0 ∨ (g.entry lo.fmt.toNat).sc ≠ 0)
                       z := row, flags := True })
/-- R138, R15: the whole-predicate words write all 32 bits whatever M and liveness are; a write to p7 is discarded. `pany`, `pall`, `ppopc`
and `pfirst` see the bits of the predicate in M, which holds live lanes only. -/
def Obligations.PredicateLogic : Prop :=
  (
    ∀ (s : State) (g : Group) (i : Instr) (o : OpA) (x : Lane), Issues s g i → predicateResult g i = some (o, x) →
      ∃ t h, exec i s = .next t ∧ Retired s t g h (g.pc + 8) ∧
        h.getP o.d.toNat = (if o.d.toNat = 7 then 0xFFFFFFFF else x) ∧ SameGroup g h { p := fun n => n = o.d.toNat ∧ n ≠ 7 }) ∧
  (
    ∀ (s : State) (g : Group) (o : OpA),
      let m := g.mask &&& g.live
      let a := g.getP o.a.toNat &&& m
      let bit (i : Instr) (b : Bool) : Prop := Issues s g i → o.d.toNat < 8 →
        ∃ t h, exec i s = .next t ∧ Retired s t g h (g.pc + 8) ∧ h.getC o.d.toNat = (if o.d.toNat = 7 then true else b) ∧
          SameGroup g h { c := fun n => n = o.d.toNat ∧ n ≠ 7 }
      let number (i : Instr) (n : Nat) : Prop := Issues s g i →
        ∃ t h, exec i s = .next t ∧ Retired s t g h (g.pc + 8) ∧ h.getS o.d.toNat = BitVec.ofNat 64 n ∧ SameGroup g h { s := (· = o.d.toNat) }
      bit (.pany o) (decide (a ≠ 0)) ∧ bit (.pall o) (decide (a = m)) ∧
        number (.ppopc o) ((List.range 32).countP fun l => a.getLsbD l) ∧
        (∀ l, l < 32 → a.getLsbD l = true → (∀ j, j < l → a.getLsbD j = false) → number (.pfirst o) l) ∧
        (a = 0 → number (.pfirst o) 32))

/-- R184 to R187: every element position of a reduction or scan is combined over the active lanes in the steps of distance 1, 2, 4, 8
and 16, and the flags of every combine are raised. -/
def Obligations.ReductionsAndScans : Prop :=
  ∀ (s : State) (g : Group) (o : OpA) (scan : Bool),
    let i : Instr := if scan then .vscan o else .vredx o
    let isInt := o.xf.getLsbD 3
    let f := if isInt then Fmt.binary32 else g.entry o.fmt.toNat
    let act := g.active o.pred
    let start (k l : Nat) : Option (Nat × BitVec 5) := if act.getLsbD l then some (Fmt.elemBits f (g.fetchV o.a o.ap l) k, 0) else none
    let last' (k l : Nat) : Option (Nat × BitVec 5) := afterSteps scan f o.xf (start k) 5 l
    Issues s g i → (isInt = false → f.v = true ∧ 1 ≤ f.e ∧ f.sc = 0) → g.DestOk act o.d → g.SrcOk act o.a o.ap →
    ∃ t h, exec i s = .next t ∧ Retired s t g h (g.pc + 8) ∧
      (∀ l, l < 32 → act.getLsbD l = true →
        h.getV (g.rowOf o.d l) l = Fmt.joinElems f ((List.range f.perLane).map fun k => ((last' k l).map (·.1)).getD 0)) ∧
      h.fflags = g.fflags ||| (List.range f.perLane).foldl (fun m k =>
        (List.range 32).foldl (fun m l => m ||| ((last' k l).map (·.2)).getD 0) m) 0 ∧
      SameGroup g h { v := g.WritesLanes act o.d, flags := True }

/-- R24, R34, R50, R124 to R126, R139, R182: scale registers take their bytes from lanes 0 to 3 of a register, or from another scale
register. Index-register words leave in every active lane what R139 gives: bits 31:30 are stored 0, and an index that leaves 0 to 1,023
becomes 1,023. `kset` writes a permute parameter; `fmtset` writes an entry of the group's view, or traps with group 4, code 1 for a word that
breaks R35; `fmtget` reads the view. -/
def Obligations.ControlRegisters : Prop :=
  (
    ∀ (s : State) (g : Group) (o : OpA),
      (Issues s g (.zset o) → g.SrcOk 0xF o.a o.ap →
        ∃ t h, exec (.zset o) s = .next t ∧ Retired s t g h (g.pc + 8) ∧
          (∀ j, j < 4 → (h.getZ o.d.toNat).extractLsb' (32 * j) 32 = g.fetchV o.a o.ap j) ∧ SameGroup g h { z := (· = o.d.toNat) }) ∧
      (Issues s g (.zmov o) →
        ∃ t h, exec (.zmov o) s = .next t ∧ Retired s t g h (g.pc + 8) ∧ h.getZ o.d.toNat = g.getZ o.a.toNat ∧
          SameGroup g h { z := (· = o.d.toNat) })) ∧
  (
    ∀ (s : State) (g : Group) (o : OpA),
      let act := g.active o.pred
      let k := o.d.toNat
      let a (l : Nat) : Lane := g.fetchV o.a o.ap l
      let index (i : Instr) (idx : Nat → Nat) : Prop := Issues s g i → g.SrcOk act o.a o.ap →
        ∃ t h, exec i s = .next t ∧ Retired s t g h (g.pc + 8) ∧
          (∀ l, l < 32 → act.getLsbD l = true →
            xIdx (h.getX k l) = idx l ∧ xLen (h.getX k l) = xLen (g.getX k l) ∧ xBase (h.getX k l) = xBase (g.getX k l)) ∧
          SameGroup g h { x := fun n l => n = k ∧ act.getLsbD l = true }
      (Issues s g (.xset o) → g.SrcOk act o.a o.ap →
        ∃ t h, exec (.xset o) s = .next t ∧ Retired s t g h (g.pc + 8) ∧
          (∀ l, l < 32 → act.getLsbD l = true → h.getX k l = BitVec.ofNat 32 ((a l).toNat % 2 ^ 30)) ∧
          SameGroup g h { x := fun n l => n = k ∧ act.getLsbD l = true }) ∧
      index (.xidx o) (fun l => min (a l).toNat 1023) ∧
      index (.xinc o) (fun l =>
        let r : Int := (xIdx (g.getX k l) : Int) + (a l).toInt
        if 0 ≤ r ∧ r ≤ 1023 then r.toNat else 1023) ∧
      (∀ w : OpI, let m := g.active w.pred
        Issues s g (.xsetImm w) → ∃ t h, exec (.xsetImm w) s = .next t ∧ Retired s t g h (g.pc + 8) ∧
          (∀ l, l < 32 → m.getLsbD l = true → h.getX w.d.toNat l = BitVec.ofNat 32 ((g.immOf w).toNat % 2 ^ 30)) ∧
          SameGroup g h { x := fun n l => n = w.d.toNat ∧ m.getLsbD l = true })) ∧
  (
    ∀ (s : State) (g : Group),
      (∀ o : OpI, o.d.toNat < 2 → Issues s g (.kset o) →
        ∃ t h, exec (.kset o) s = .next t ∧ Retired s t g h (g.pc + 8) ∧
          (o.d.toNat = 0 → h.regs.k0 = (g.immOf o).extractLsb' 0 16 ∧ h.regs.k1 = g.regs.k1) ∧
          (o.d.toNat = 1 → h.regs.k1 = (g.immOf o).extractLsb' 0 16 ∧ h.regs.k0 = g.regs.k0) ∧ SameGroup g h { k := True }) ∧
      (∀ o : OpI, o.d.toNat < 8 → Issues s g (.fmtset o) →
        let w := g.immOf o
        (Fmt.entryRefusal w = 0 → ∃ t h, exec (.fmtset o) s = .next t ∧ Retired s t g h (g.pc + 8) ∧
          (∀ n, n < g.view.length → nth 0 h.view n = if n = o.d.toNat then w else nth 0 g.view n) ∧ h.fmtPend = g.fmtPend ++ [(o.d.toNat, w)] ∧
          SameGroup g h { view := True }) ∧
        (Fmt.entryRefusal w ≠ 0 → TakesTrap s g (.fmtset o) 4 1 (o.d.toNat + w.toNat * 2 ^ 32 + Fmt.entryRefusal w * 2 ^ 64))) ∧
      (∀ o : OpA, Issues s g (.fmtget o) →
        ∃ t h, exec (.fmtget o) s = .next t ∧ Retired s t g h (g.pc + 8) ∧ h.getS o.d.toNat = (nth 0 g.view o.a.toNat).setWidth 64 ∧
          SameGroup g h { s := (· = o.d.toNat) }))

/-- R28, R95, R142: `vput` appends the value delivered to the lowest active lane, or nothing; `spop` takes the oldest value,
zero-extended, and traps with group 13, code 16 when no value can come. The values past the sixteenth are those of words that wait. -/
def Obligations.ReturnQueue : Prop :=
  ∀ (s : State) (g : Group),
    (∀ (o : OpA) (l : Nat), Issues s g (.vput o) → l < 32 → (g.active 7).getLsbD l = true → (∀ j, j < l → (g.active 7).getLsbD j = false) →
      g.SrcOk (BitVec.ofNat 32 (2 ^ l)) o.a o.ap →
      ∃ t h, exec (.vput o) s = .next t ∧ Retired s t g h (g.pc + 8) ∧ h.rq = g.rq ++ [g.fetchV o.a o.ap l] ∧ SameGroup g h { queue := True }) ∧
    (∀ o : OpA, Issues s g (.vput o) → g.active 7 = 0 → g.SrcOk 0 o.a o.ap →
      ∃ t h, exec (.vput o) s = .next t ∧ Retired s t g h (g.pc + 8) ∧ SameGroup g h {}) ∧
    (∀ (o : OpS) (x : Lane) (r : List Lane), Issues s g (.spop o) → g.getC o.cond.toNat = true → g.rq = x :: r →
      ∃ t h, exec (.spop o) s = .next t ∧ Retired s t g h (g.pc + 8) ∧ h.rq = r ∧ h.getS o.sd.toNat = x.setWidth 64 ∧
        SameGroup g h { s := (· = o.sd.toNat), queue := True }) ∧
    (∀ o : OpS, Issues s g (.spop o) → g.getC o.cond.toNat = true → g.rq = [] → TakesTrap s g (.spop o) 13 16 0)
/-- R17, R18, R98, R99 and the maps of the special registers: a permitted `srd` writes the register's value, zero-extended, to s[SD], in a run
whose log is off. FQFREE and RQFREE read a count of free slots that the queues can hold at that clock; which one is the model's free value
(log entry 16). -/
def Obligations.SpecialReads : Prop :=
  (
    ∀ (s : State) (g : Group) (o : OpS) (t : Team) (c : Cluster) (v : Word),
      let n := o.imm.toNat % 4096
      Issues s g (.srd o) → g.getC o.cond.toNat = true → s.team? g.id.team = some t → s.cluster? g.id.cluster = some c →
      specialValue s g t c n = some v → mayAccess g n → s.timingRefused g.id.vf = false → s.log g.id.vf = 0 →
      g.fqHeld = [] → g.speculative = false →
      ∃ s1 h, exec (.srd o) s = .next s1 ∧ Retired s s1 g h (g.pc + 8) ∧ h.getS o.sd.toNat = v ∧ SameGroup g h { s := (· = o.sd.toNat) }) ∧
  (
    ∀ (s : State) (g : Group) (o : OpS), Issues s g (.srd o) → g.getC o.cond.toNat = true → s.timingRefused g.id.vf = false →
      s.log g.id.vf = 0 → g.speculative = false →
      (o.imm.toNat % 4096 = 0x020 → ∃ s1 h, exec (.srd o) s = .next s1 ∧ Retired s s1 g h (g.pc + 8) ∧
        (h.getS o.sd.toNat).toNat ≤ 32 - min 32 g.fqUsed ∧ SameGroup g h { s := (· = o.sd.toNat) }) ∧
      (o.imm.toNat % 4096 = 0x021 → ∃ s1 h, exec (.srd o) s = .next s1 ∧ Retired s s1 g h (g.pc + 8) ∧
        16 - min 16 g.rq.length ≤ (h.getS o.sd.toNat).toNat ∧ (h.getS o.sd.toNat).toNat ≤ 16 ∧ SameGroup g h { s := (· = o.sd.toNat) }))

/-- R98, R305, R342, R50, R217, R274, R284: a permitted `swr` of a register of the group writes the register's RW bits and nothing else; LTIME
and ENACC then advance by the word itself (R100, R427). `swr` of S1ROOT, TLBI1, BARST, FMTTEAM, RLENT0 and ACCSTEPS writes the one register of
the virtual function, the team, the lock table or the tile, and the word retires; bits 5:0 of a format entry stay 0 (R32). Where a lock range
of a stash lies is log entry 31, and what a group or stream that waits at the barrier of BARST does then is log entry 115. -/
def Obligations.SpecialWrites : Prop :=
  (
    ∀ (s : State) (g g' : Group) (o : OpS),
      let n := o.imm.toNat % 4096
      Issues s g (.swr o) → g.getC o.cond.toNat = true → writtenGroup g n (g.getS o.sa.toNat) = some g' → mayAccess g n →
      g.fqHeld = [] → g.speculative = false →
      ∃ t h, exec (.swr o) s = .next t ∧ Retired s t g' h (g.pc + 8) ∧ SameGroup g' h {} ∧
        h.enacc = g'.enacc + classWeight (s.weights g.id.vf) 8) ∧
  (
    ∀ (s : State) (g : Group) (o : OpS) (t : Team),
      let n := o.imm.toNat % 4096
      let w := g.getS o.sa.toNat
      let v := s.vf g.id.vf
      let leaves (s' : State) : Prop := ∃ s1 h, exec (.swr o) s = .next s1 ∧ Retired s' s1 g h (g.pc + 8) ∧ SameGroup g h {}
      Issues s g (.swr o) → g.getC o.cond.toNat = true → g.trap.lvl = 2 → g.fqHeld = [] → g.speculative = false →
      s.team? g.id.team = some t → (s.det g.id.vf = true → g.id.grpid ∉ t.mx) →
      (n = 0x800 → leaves (s.setVf { v with s1root := w &&& 0x000FFFFFFFFF0001 })) ∧
      (n = 0x801 → v.tlbi = none → leaves (s.setVf { v with tlbi := some (w &&& 0xFFFFFFFFFFFF0001) })) ∧
      (n = 0x82D → ∃ s1 h u, exec (.swr o) s = .next s1 ∧ s1.group? g.id.key = some h ∧ h.pc = g.pc + 8 ∧ SameGroup g h {} ∧ SameMachine s s1 ∧
        s1.team? t.key = some u ∧ u.arrive = putNth t.arrive g.sel.bar (w.extractLsb' 0 17) ∧
        (t.seqr.run = true → g.sel.bar < 16 → (u.seqr.barw = some g.sel.bar ↔ w.getLsbD 16 = true)) ∧
        ∀ k x, k ≠ g.id.key → s.group? k = some x → s1.group? k = some
          (if x.id.team = t.key ∧ x.wait = .bar g.sel.bar ∧ (w.extractLsb' 0 17).getLsbD x.id.tidx = false then { x with wait := .run } else x)) ∧
      (n = 0x82F → leaves (s.setTeam { t with table := putNth t.table g.sel.fmt (w.extractLsb' 0 32 &&& ~~~63) })) ∧
      (n = 0x83A → ∀ k, s.tileKey g g.sel.acc = some k → leaves { s with tileSteps := Sparse.set 0 s.tileSteps k (w.extractLsb' 0 32) }) ∧
      (n = 0x832 → g.sel.image.length = 5 → ∃ s1 h, exec (.swr o) s = .next s1 ∧ s1.group? g.id.key = some h ∧ h.pc = g.pc + 8 ∧
        let im (j : Nat) : Word := nth 0 (putNth g.sel.image 0 w) j
        let mine (e : LockEntry) : Prop := e.core = g.id.core ∧ e.idx = g.sel.rl
        (∀ e, ¬ mine e → (e ∈ s1.locks ↔ e ∈ s.locks)) ∧
        (w.getLsbD 0 = false → ∀ e ∈ s1.locks, ¬ mine e) ∧
        (w.getLsbD 0 = true → (∃ e ∈ s1.locks, mine e) ∧ ∀ e ∈ s1.locks, mine e →
          e.kind = w.getLsbD 1 ∧ e.ssp = w.getLsbD 2 ∧ e.dsp = w.getLsbD 3 ∧ e.nosrc = w.getLsbD 4 ∧ e.tag = (w.extractLsb' 5 6).toNat ∧
            e.slot = (w.extractLsb' 11 4).toNat ∧ e.quad = (w.extractLsb' 15 2).toNat ∧
            e.slo = im 1 ∧ e.shi = im 2 ∧ e.dlo = im 3 ∧ e.dhi = im 4)))

/-- R18, R97: an access that is not permitted traps and changes nothing: a privileged number below level 2 (group 7, code 16), a write
of a read-only register (group 7, code 17), and a timing read with DET = 1 and RAWCLK = 0 (group 16, code 1). -/
def Obligations.RefusedAccess : Prop :=
  ∀ (s : State) (g : Group) (o : OpS),
    let n := o.imm.toNat % 4096
    g.getC o.cond.toNat = true →
    (Issues s g (.srd o) → 0x800 ≤ n → g.trap.lvl ≠ 2 → TakesTrap s g (.srd o) 7 16 n) ∧
    (Issues s g (.swr o) → 0x800 ≤ n → g.trap.lvl ≠ 2 → TakesTrap s g (.swr o) 7 16 n) ∧
    (Issues s g (.swr o) → n ∈ [0x000, 0x001, 0x002, 0x003, 0x004, 0x005, 0x006, 0x007, 0x008, 0x009, 0x020, 0x021, 0x022, 0x023, 0x024, 0x025,
        0x026, 0x027, 0x028, 0x029, 0x02A, 0x02B, 0x02C, 0x02D, 0x030, 0x031, 0x03F, 0x040, 0x041, 0x042, 0x043, 0x047, 0x048, 0x049, 0x04A, 0x04B] →
      TakesTrap s g (.swr o) 7 17 n) ∧
    (Issues s g (.swr o) → n ∈ [0x802, 0x810, 0x811, 0x812, 0x813, 0x815] → g.trap.lvl = 2 → TakesTrap s g (.swr o) 7 17 n) ∧
    (Issues s g (.srd o) → n ∈ [0x006, 0x020, 0x021, 0x022, 0x023, 0x024, 0x025, 0x02A, 0x030] → s.det g.id.vf = true →
      s.rawclk g.id.vf = false → TakesTrap s g (.srd o) 16 1 n)
/-- R144 to R146: what `vbr` and `vjoin` do to M, the divergence stack and the next PC, and their traps on a full or empty stack. -/
def Obligations.DivergentBranches : Prop :=
  ∀ (s : State) (g : Group), g.fqHeld = [] → g.dv.length = 16 → g.dvDepth ≤ 16 →
    (∀ o : OpI, Issues s g (.vbr o) →
      let m := g.mask &&& g.live
      let t := m &&& g.getP o.pred.toNat
      let f := m &&& ~~~(g.getP o.pred.toNat)
      let target := BitVec.ofInt 64 ((g.pc.toNat : Int) + 8 + 8 * o.imm.toInt)
      let n := g.dvDepth
      (t ≠ 0 → f ≠ 0 → n + 2 ≤ 16 → ∃ s1 h, exec (.vbr o) s = .next s1 ∧ Retired s s1 g h target ∧ h.mask = t ∧ h.dvDepth = n + 2 ∧
        h.entryAt n = { isPath := false, pc := 0, mask := m } ∧ h.entryAt (n + 1) = { isPath := true, pc := g.pc + 8, mask := f } ∧
        SameStack g h n ∧ h.live = g.live ∧ SameGroup g h { threads := True }) ∧
      (t = 0 ∨ f = 0 → n + 1 ≤ 16 → ∃ s1 h, exec (.vbr o) s = .next s1 ∧ Retired s s1 g h (if t = 0 then g.pc + 8 else target) ∧
        h.mask = g.mask ∧ h.dvDepth = n + 1 ∧ h.entryAt n = { isPath := false, pc := 0, mask := m } ∧
        SameStack g h n ∧ h.live = g.live ∧ SameGroup g h { threads := True }) ∧
      (16 < n + (if t ≠ 0 ∧ f ≠ 0 then 2 else 1) → TakesTrap s g (.vbr o) 14 1 n)) ∧
    (∀ o : OpA, Issues s g (.vjoin o) →
      (g.dvDepth = 0 → TakesTrap s g (.vjoin o) 14 2 0) ∧
      (∀ n, g.dvDepth = n + 1 → ∃ s1 h, exec (.vjoin o) s = .next s1 ∧
        Retired s s1 g h (if (g.entryAt n).isPath then (g.entryAt n).pc else g.pc + 8) ∧ h.mask = (g.entryAt n).mask ∧ h.dvDepth = n ∧
        (∀ k, k < n → h.entryAt k =
          if (g.entryAt n).isPath = true ∧ k + 1 = n then { g.entryAt k with pc := g.pc + 8 } else g.entryAt k) ∧
        h.live = g.live ∧ SameGroup g h { threads := True }))

/-- R147 to R149: `vexit` ends the threads of M and goes on at the topmost entry that still holds a lane, ends the group when none does,
and traps before any thread ends on a JOIN not yet reached; `exit` ends the group. What an ended group issued goes on, and writes no
register. -/
def Obligations.EndingThreads : Prop :=
  ∀ (s : State) (g : Group), g.fqHeld = [] → g.speculative = false → g.dv.length = 16 → g.dvDepth ≤ 16 →
    let m := g.mask &&& g.live
    let left (k : Nat) : Lane := (g.entryAt k).mask &&& ~~~m
    -- entry `k` is the topmost one with a lane left
    let top (k : Nat) : Prop := k < g.dvDepth ∧ left k ≠ 0 ∧ ∀ j, k < j → j < g.dvDepth → left j = 0
    let ended (i : Instr) : Prop := ∃ t h, exec i s = .next t ∧ Retired s t g h (g.pc + 8) ∧ h.live = 0 ∧ h.wait = .ended ∧
      h.ops.map MemOp.bare = g.ops.map MemOp.bare ∧ ∀ o ∈ h.ops, o.dests = []
    (∀ o : OpA, Issues s g (.vexit o) →
      (∀ k, top k → (g.entryAt k).isPath = true ∨ (g.entryAt k).pc ≠ 0 →
        ∃ t h, exec (.vexit o) s = .next t ∧ Retired s t g h (g.entryAt k).pc ∧ h.mask = left k ∧ h.live = g.live &&& ~~~m ∧ h.dvDepth = k ∧
          (∀ j, j < k → h.entryAt j = { g.entryAt j with mask := left j }) ∧ SameGroup g h { threads := True }) ∧
      (∀ k, top k → (g.entryAt k).isPath = false → (g.entryAt k).pc = 0 → TakesTrap s g (.vexit o) 14 3 g.dvDepth) ∧
      ((∀ k, k < g.dvDepth → left k = 0) → ended (.vexit o))) ∧
    (∀ o : OpA, Issues s g (.exit o) → g.failed = [] → ended (.exit o))

/-- R306, R302, R148, R309: completing a pending trap of a drained group of a resident cluster saves cause, detail, address and M in the registers of the level
that R302 chooses, raises the level, makes every live lane active and goes to the vector; stack, PIDX, registers, FFLAGS and LTIME are kept.
`trap` raises group 19 with its code at the address of the word: a group with nothing outstanding enters its handler at once, and an entry to
the user handler needs bit 19 of UTDELEG. -/
def Obligations.HandlerEntry : Prop :=
  (
    ∀ (s : State) (g : Group) (t : TrapReq) (key : Nat), s.group? key = some g → g.trap.entry = some t → Drained g → g.wait = .run →
      s.log g.id.vf = 0 → (∃ c, s.cluster? g.id.cluster = some c ∧ c.residence = .resident) →
      let keeps (s1 : State) (h : Group) : Prop := s1.group? key = some h ∧ SameMachine s s1 ∧ SameOthers s s1 key ∧
        SameGroup g h { threads := True, specials := True }
      (ToUser s g t → ∃ s1 h, exec (.handlerEntry key) s = .next s1 ∧ keeps s1 h ∧ EnteredUser g h t) ∧
      (ToSystem s g t → ∃ s1 h, exec (.handlerEntry key) s = .next s1 ∧ keeps s1 h ∧ EnteredSystem g h t (s.vf g.id.vf).stvec)) ∧
  (
    ∀ (s : State) (g : Group) (o : OpI), Issues s g (.trap o) →
      let t : TrapReq := { mkTrap 19 (o.imm.toNat % 65536) 0 with pc := g.pc }
      TakesTrap s g (.trap o) 19 (o.imm.toNat % 65536) 0 ∧
      (Drained g → s.log g.id.vf = 0 → g.wait = .run →
        let keeps (s1 : State) (h : Group) : Prop := s1.group? g.id.key = some h ∧ SameMachine s s1 ∧ SameOthers s s1 g.id.key ∧
          SameGroup g h { threads := True, specials := True }
        (g.trap.lvl = 0 → g.trap.utvec.getLsbD 0 = true → g.trap.utdeleg.getLsbD 19 = true →
          ∃ s1 h, exec (.trap o) s = .next s1 ∧ keeps s1 h ∧ EnteredUser g h t) ∧
        (g.trap.lvl = 0 → g.trap.utvec.getLsbD 0 = true → g.trap.utdeleg.getLsbD 19 = false → (s.vf g.id.vf).stvec.getLsbD 0 = true →
          ∃ s1 h, exec (.trap o) s = .next s1 ∧ keeps s1 h ∧ EnteredSystem g h t (s.vf g.id.vf).stvec)))

/-- R308: `rtt` restores M, the address and the level saved at entry, and drops PIDX unless it returns to the word that left it; outside
a handler, or at another depth, it traps. -/
def Obligations.ReturnFromTrap : Prop :=
  ∀ (s : State) (g : Group) (o : OpA), Issues s g (.rtt o) → g.speculative = false →
    (g.trap.lvl = 0 → TakesTrap s g (.rtt o) 1 5 0) ∧
    (g.trap.lvl = 1 → g.dvDepth ≠ g.trap.udepth.toNat → TakesTrap s g (.rtt o) 14 4 g.dvDepth) ∧
    (g.trap.lvl = 2 → g.dvDepth ≠ g.trap.sdepth.toNat → TakesTrap s g (.rtt o) 14 4 g.dvDepth) ∧
    (let back (r : TrapRegs) (lvl : BitVec 2) : Prop := ∃ t h, exec (.rtt o) s = .next t ∧ Retired s t g h r.pc ∧
        h.mask = r.mask &&& g.live ∧ h.trap = { g.trap with lvl := lvl } ∧ h.live = g.live ∧ h.dv = g.dv ∧ h.dvDepth = g.dvDepth ∧
        h.pidx = (if g.pidxPc = r.pc then g.pidx else 0) ∧ SameGroup g h { threads := True, specials := True }
     (g.trap.lvl = 1 → g.dvDepth = g.trap.udepth.toNat → back g.trap.usr 0) ∧
     (g.trap.lvl = 2 → g.dvDepth = g.trap.sdepth.toNat → back g.trap.sys g.trap.plvl))

/-- R175, R330, R148, R255, R151, R395: `yield` makes its group the youngest of its quadrant, `ckpt` stops it under a HALT with ATCK,
`brk` traps only for an attached agent, a fence waits for older accesses, `wait` for the four counts, and `sig.mark` has no effect
with LOG = OFF. Nothing else of the group or the machine changes. At level 2 `halt` halts its cluster in place and sets the HLT bit of its
slot; below, it traps with group 7, code 16. That an age is a count of the model is log entry 98. -/
def Obligations.GroupControl : Prop :=
  (
    ∀ (s : State) (g : Group),
      let retires (i : Instr) (g' : Group) : Prop := ∃ t h, exec i s = .next t ∧ Retired s t g h (g.pc + 8) ∧ SameGroup g' h {}
      (∀ o, Issues s g (.yield o) → ∃ age, (∀ h ∈ s.groups, h.id.core = g.id.core → h.id.quad = g.id.quad → h.id.age < age) ∧
        retires (.yield o) { g with id := { g.id with age } }) ∧
      (∀ o c, Issues s g (.ckpt o) → s.cluster? g.id.cluster = some c →
        retires (.ckpt o) (if c.halting = true ∧ c.atck = true then { g with wait := .stopped } else g)) ∧
      (∀ o, Issues s g (.brk o) → (s.attached g.id.vf = false → retires (.brk o) g) ∧
        (s.attached g.id.vf = true → TakesTrap s g (.brk o) 18 1 (o.imm.toNat % 65536))) ∧
      (∀ o, Issues s g (.fence o) → g.failed = [] → (∀ x ∈ g.ops, o.sco.toNat < 4 ∧ ∃ q, x.kind = .fsend q) → retires (.fence o) g) ∧
      (∀ o, Issues s g (.wait o) → g.failed = [] → g.ldcnt ≤ o.imm.toNat % 256 → g.stcnt ≤ o.imm.toNat / 2 ^ 8 % 256 →
        g.cpcnt ≤ o.imm.toNat / 2 ^ 16 % 256 → s.mxcnt g ≤ o.imm.toNat / 2 ^ 24 → (o.imm.toNat / 2 ^ 16 % 256 ≠ 0 ∨ g.tagDone = 0) →
        retires (.wait o) g) ∧
      (∀ o, Issues s g (.sigMark o) → s.log g.id.vf = 0 → retires (.sigMark o) g)) ∧
  (
    ∀ (s : State) (g : Group) (o : OpA) (c : Cluster) (p : Partition) (k : Nat), Issues s g (.halt o) → g.speculative = false →
      s.cluster? g.id.cluster = some c → s.partOf g.id.vf = some p → p.slotOf g.id.vf = some k →
      (g.trap.lvl = 2 → ∃ t h c', exec (.halt o) s = .next t ∧
        Retired ((s.setCluster c').setPart { p with hlt := p.hlt ||| BitVec.ofNat 16 (2 ^ k) }) t g h (g.pc + 8) ∧ SameGroup g h {} ∧
        c'.key = c.key ∧ c'.halting = true ∧ c'.atck = false ∧ c'.residence = c.residence) ∧
      (g.trap.lvl.toNat < 2 → TakesTrap s g (.halt o) 7 16 0))
/-- R243, R93, R136, R150, R254: a memory word that passes its checks retires and leaves its lanes' accesses pending at the translated
addresses, with their data; no byte of memory and no register changes at issue. The lowest lane whose address is no multiple of its access's size
traps with group 8 (code 1 for scalar words, 4 for mailboxes, 3 for the others) and the address, and nothing is accessed. -/
def Obligations.MemoryAccesses : Prop :=
  (
    ∀ (s s' : State) (g : Group) (i : Instr) (a : AccessPlan) (pas : List (Nat × Nat)), Issues s g i → memoryWord g i = some a → a.ok →
      Passes s g a pas s' →
      ∃ t h old new, exec i s = .next t ∧ Retired s' t g h (g.pc + 8) ∧ SameGroup g h { ops := True } ∧ h.ops = old ++ new ∧
        old.map MemOp.bare = g.ops.map MemOp.bare ∧ (new.flatMap (·.parts)).Perm (a.parts pas) ∧
        ∀ o ∈ new, o.kind = a.req.kind ∧ o.ltime = g.ltime ∧ o.pc = g.pc ∧ o.ord = a.req.ord ∧ o.sco = a.req.sco ∧
          o.space = (if a.req.stash then .stash else if (pas.head?.bind fun p => rangeOf p.1) = some 2 then .device else .mem)) ∧
  (
    ∀ (s : State) (g : Group) (i : Instr) (a : AccessPlan) (below above : List LaneReq) (r : LaneReq), Issues s g i → memoryWord g i = some a →
      a.ok → g.memStall a.req = false → watchTrap g a.req.kind.access a.req.elem a.lanes = none → a.req.stash = false →
      a.lanes = below ++ r :: above → (∀ x ∈ below, x.va.toNat % x.size = 0) → r.va.toNat % r.size ≠ 0 →
      RaisesTrap s g i (mkTrap 8 (misalignedCode i)
        (r.va.toNat + 2 ^ 64 * Nat.log2 r.size) (if r.lane < 32 then some r.lane else none)))

/-- R248, R250: a gather or scatter whose elements from PIDX on pass their checks leaves the accesses of each element pending in order
and clears PIDX; a failing element leaves PIDX at it and its trap is taken for the word; a gather whose registers overlap its index registers traps with group 3, code 6. -/
def Obligations.GatherAndScatter : Prop :=
  ∀ (s s' : State) (g g' : Group) (o : OpM) (store : Bool),
    let i : Instr := if store then .vscat o else .vgath o
    let act := g.active o.pred
    let from' : Nat := if g.pidxPc = g.pc then g.pidx.toNat else 0
    -- the group with its hold latches after the word's reads (R21)
    let g0 := g.latched i
    Issues s g i → g.DestOk act o.d 8 → g.DestOk act o.a 8 →
    (g.memStall { kind := if store then .store else .load } = false → (store = true ∨ o.d.toNat + 8 ≤ o.a.toNat ∨ o.a.toNat + 8 ≤ o.d.toNat) →
      ElementsPass o store g.nextInst ((List.range 8).drop from') [] s g0 s' g' → s'.group? g.id.key = some g →
      ∃ t h, exec i s = .next t ∧ Retired s' t g h (g.pc + 8) ∧ h.pidx = 0 ∧ h.ops.map MemOp.bare = g'.ops.map MemOp.bare ∧ h.regs = g.regs) ∧
    (∀ (j : Nat) (t : TrapReq), from' ≤ j → j < 8 → g.memStall { kind := if store then .store else .load } = false →
      (store = true ∨ o.d.toNat + 8 ≤ o.a.toNat ∨ o.a.toNat + 8 ≤ o.d.toNat) → ElementsPass o store g.nextInst ((List.range j).drop from') [] s g0 s' g' →
      (let at' : Group := { g' with pidx := BitVec.ofNat 4 j, pidxPc := g'.pc }
       (s'.issueMem at' at' { kind := if store then .store else .load, uc := o.uc, dz := o.dz == 1, elem := j } g.nextInst (g'.elemReqs o store j)).1 = .error t) →
      t.grp ≠ 31 →
      ∃ (s1 : State) (h : Group), exec i s = .next (s1.takeTrap h { t with pc := g.pc }) ∧ h.pidx = BitVec.ofNat 4 j ∧ h.pidxPc = g.pc ∧ h.id = g.id ∧ h.regs = g.regs) ∧
    (store = false → o.d.toNat < o.a.toNat + 8 → o.a.toNat < o.d.toNat + 8 →
      RaisesTrap s g i (mkTrap 3 6 o.d.toNat))

/-- R251 to R253, R199, R201: what each mapping instruction does to a row of the group's own team, for a count of 1: `stmap` maps it to
the line, `stunmap` leaves it unmapped, `stflush` and `stinv` of a row that holds no dirty byte leave it clean or unfilled. A count of 0
has no effect. -/
def Obligations.StashMapping : Prop :=
  ∀ (s : State) (g : Group) (t : Team),
    let quiet (i : Instr) : Prop := ∃ t h, exec i s = .next t ∧ Retired s t g h (g.pc + 8) ∧ SameGroup g h {}
    s.team? g.id.team = some t → g.speculative = false →
    (∀ o : OpM, (g.getS o.a.toNat) = 0 →
      (Issues s g (.stmap o) → quiet (.stmap o)) ∧ (Issues s g (.stunmap o) → quiet (.stunmap o)) ∧
      (Issues s g (.stflush o) → quiet (.stflush o)) ∧ (Issues s g (.stinv o) → quiet (.stinv o))) ∧
    (∀ (o : OpM) (r : Nat), (g.getS o.a.toNat) = 1 → r < t.stashRows → r < 4096 → (g.getS o.d.toNat).toNat = 15 * 2 ^ 20 + 128 * r →
      let key := t.core * 4096 + t.stashBase + r
      let row := s.row key
      -- no lock covers the row, nothing pending touches it, and no store waits to go into it
      s.locks = [] → (∀ h ∈ s.groups, h.ops = []) → row.st ≠ .d →
      -- the row is `new` afterwards, and every other row is as before
      let leaves (i : Instr) (s' : State) (new : Row) : Prop := ∃ t h, exec i s = .next t ∧ t.group? g.id.key = some h ∧ h.pc = g.pc + 8 ∧
        SameGroup g h {} ∧ t.mem = s'.mem ∧ t.stash = s.stash ∧ t.row key = new ∧ ∀ k, k ≠ key → t.row k = s.row k
      (Issues s g (.stunmap o) → leaves (.stunmap o) s { st := .p, line := 0, gpa := 0, dirty := 0, checked := false }) ∧
      (Issues s g (.stflush o) → leaves (.stflush o) s row) ∧
      (Issues s g (.stinv o) → leaves (.stinv o) s (if row.st = .v then { row with st := .i, dirty := 0 } else row)) ∧
      (Issues s g (.stmap o) → ∀ (s' : State) (pa mt : Nat), Unshared s →
        let base := laneAddress g { o with scl := 7 } (fun _ => 0) 0
        base.toNat % 128 = 0 →
        s.translate { g.asker with normal := true } .write base = (.ok (pa, mt), s') → s'.rows = s.rows → s'.stash = s.stash →
        s'.locks = [] → s'.groups = s.groups →
        ∃ gpa, leaves (.stmap o) s' { st := .i, line := pa / 128, gpa := gpa, dirty := 0, checked := false }))

/-- R150, R137, R135, R23: a load that performs writes each lane's bytes, zero-extended, to its registers, but for those that a younger
word has written, and changes no byte of memory; a store writes the bytes of its parts in lane order, and every byte of memory outside them reads as before. -/
def Obligations.LoadsAndStoresPerform : Prop :=
  ∀ (s : State) (key id : Nat) (g : Group) (o : MemOp), Performs s key id g o →
    (o.kind = .load → (o.parts.map (·.lane)).Nodup → (∀ p ∈ o.parts, p.lane < 32) →
      (∀ p ∈ o.parts, ∀ x ∈ g.olderThan o, x.stores = true → ∀ q ∈ x.parts, s.partsMeet x o q p = false) →
      ∃ t h, exec (.loadDataReturn key id 0) s = .next t ∧ t.group? key = some h ∧ t.mem = s.mem ∧ t.stash = s.stash ∧ Over g h o ∧
        (∀ p ∈ o.parts, ∀ j, j < (p.size + 3) / 4 → o.keeps (p.reg + j) p.lane = true →
          h.getV (p.reg + j) p.lane = chunk (Memory.readN (s.spaceOf o) p.addr p.size) j) ∧
        SameGroup g h { v := fun n l => o.keeps n l = true ∧ ∃ p ∈ o.parts, l = p.lane ∧ p.reg ≤ n ∧ n < p.reg + (p.size + 3) / 4, ops := True }) ∧
    (∀ d p, o.kind = .sload d → o.parts = [p] →
      (∀ x ∈ g.olderThan o, x.stores = true → ∀ q ∈ x.parts, s.partsMeet x o q p = false) →
      ∃ t h, exec (.loadDataReturn key id 0) s = .next t ∧ t.group? key = some h ∧ t.mem = s.mem ∧ t.stash = s.stash ∧ Over g h o ∧
        (o.keeps (1000 + d) 0 = true → h.getS d = BitVec.ofNat 64 (leNat (Memory.readN (s.spaceOf o) p.addr p.size))) ∧
        SameGroup g h { s := fun n => n = d ∧ o.keeps (1000 + d) 0 = true, ops := True }) ∧
    (o.kind = .store → (∀ p ∈ o.parts, p.data.length = p.size) →
      ∃ t h, exec (.storePerformed key id 0) s = .next t ∧ t.group? key = some h ∧ Over g h o ∧ SameGroup g h { ops := True } ∧
        t.spaceOf o = o.parts.foldl (fun m p => Memory.writeN m p.addr p.data) (s.spaceOf o) ∧
        (∀ a, (∀ p ∈ o.parts, a < p.addr ∨ p.addr + p.size ≤ a) → Memory.read (t.spaceOf o) a = Memory.read (s.spaceOf o) a) ∧
        (if o.space = .stash then t.mem = s.mem else t.stash = s.stash))

/-- R256 to R258, R254, R23: an atomic performs one read-modify-write a lane, in lane order, and returns the old values to the registers that
no younger word has written; a reducing write with DET = 0 does the same and returns nothing; no other byte of memory changes. A put appends four words to a mailbox line unless it holds seven, a get
takes the oldest, and the condition tells which. -/
def Obligations.AtomicsPerform : Prop :=
  (
    ∀ (s : State) (key id : Nat) (g : Group) (o : MemOp) (op : RmwOp), Performs s key id g o → o.space = .mem →
      (∀ p ∈ o.parts, (p.size = 4 ∨ p.size = 8) ∧ p.data.length = p.size) → (∀ p ∈ o.parts, op = .cas → p.swap.length = p.size) →
      let r := rmwSteps op s.mem o.parts
      let memory (t : State) : Prop := t.mem = r.1 ∧ t.stash = s.stash ∧
        ∀ a, (∀ p ∈ o.parts, a < p.addr ∨ p.addr + p.size ≤ a) → Memory.read t.mem a = Memory.read s.mem a
      (o.kind = .rmw op → (o.parts.map (·.lane)).Nodup → (∀ p ∈ o.parts, p.lane < 32) →
        ∃ t h, exec (.loadDataReturn key id 0) s = .next t ∧ t.group? key = some h ∧ Over g h o ∧ memory t ∧
          (∀ x ∈ r.2, ∀ j, j < (x.1.size + 3) / 4 → o.keeps (x.1.reg + j) x.1.lane = true → h.getV (x.1.reg + j) x.1.lane = chunk x.2 j) ∧
          SameGroup g h { v := fun n l => o.keeps n l = true ∧ ∃ p ∈ o.parts, l = p.lane ∧ p.reg ≤ n ∧ n < p.reg + (p.size + 3) / 4, ops := True }) ∧
      (o.kind = .red op → s.det g.id.vf = false →
        ∃ t h, exec (.storePerformed key id 0) s = .next t ∧ t.group? key = some h ∧ Over g h o ∧ memory t ∧ SameGroup g h { ops := True })) ∧
  (
    ∀ (s : State) (key id : Nat) (g : Group) (o : MemOp) (c a : Nat) (head count : Nat), Performs s key id g o → o.space = .mem → c < 7 →
      (∃ p0 p1 p2 p3 : Part, o.parts = [p0, p1, p2, p3] ∧ (∀ p ∈ o.parts, p.addr = a) ∧ p0.lane = 0 ∧ p1.lane = 1 ∧ p2.lane = 2 ∧ p3.lane = 3) →
      head < 7 → count < 8 → Memory.readN s.mem a 2 = [BitVec.ofNat 8 head, BitVec.ofNat 8 count] →
      let slot (n : Nat) : Nat := a + 16 + 16 * (n % 7)
      let finished (i : Instr) (mem : List Host.Cell) (ok : Bool) (w : Touched) : Prop := ∃ t h, exec i s = .next t ∧ t.group? key = some h ∧
        Over g h o ∧ t.mem = mem ∧ (o.keeps (2000 + c) 0 = true → h.getC c = ok) ∧ SameGroup g h { w with c := (· = c), ops := True } ∧
        (∀ p ∈ o.parts, w.v p.reg p.lane → o.keeps p.reg p.lane = true → h.getV p.reg p.lane = chunk (Memory.readN s.mem (slot head) 16) p.lane)
      (o.kind = .mboxPut c → (∀ p ∈ o.parts, p.data.length = 4) →
        (count = 7 → finished (.storePerformed key id 0) s.mem false {}) ∧
        (count < 7 → finished (.storePerformed key id 0)
          (Memory.writeN (Memory.writeN s.mem (a + 1) [BitVec.ofNat 8 (count + 1)]) (slot (head + count)) (o.parts.flatMap (·.data))) true {})) ∧
      (o.kind = .mboxGet c →
        (count = 0 → finished (.loadDataReturn key id 0) s.mem false {}) ∧
        (0 < count → finished (.loadDataReturn key id 0)
          (Memory.writeN s.mem a [BitVec.ofNat 8 ((head + 1) % 7), BitVec.ofNat 8 (count - 1)]) true
          { v := fun n l => ∃ p ∈ o.parts, l = p.lane ∧ n = p.reg })))
/-- R267 to R271, R276: `cpy` and `comb` register a command, its range lock and its tag, and move no byte at issue; an illegal shape and
a tag in use trap. -/
def Obligations.CopyCommands : Prop :=
  ∀ (s : State) (g : Group) (o : OpE), g.speculative = false →
    let tag := o.num.toNat
    let shape := g.getS o.d.toNat
    let busy (h : Group) : Prop := h.tagBusy = g.tagBusy ||| BitVec.ofNat 64 (2 ^ tag) ∧ h.tagDone = g.tagDone ∧ h.tagFlt = g.tagFlt
    (Issues s g (.cpy o) → ¬ LegalShape shape → TakesTrap s g (.cpy o) 11 2 (shape.toNat + 2 ^ 64 * tag)) ∧
    (Issues s g (.cpy o) → LegalShape shape → (g.tagBusy.getLsbD tag = true ∨ g.tagDone.getLsbD tag = true) → TakesTrap s g (.cpy o) 11 1 tag) ∧
    (Issues s g (.comb o) → (g.tagBusy.getLsbD tag = true ∨ g.tagDone.getLsbD tag = true) → TakesTrap s g (.comb o) 11 1 tag) ∧
    (Issues s g (.comb o) → g.tagBusy.getLsbD tag = false → g.tagDone.getLsbD tag = false → g.getS o.sb2.toNat = 0 →
      ∃ t h, exec (.comb o) s = .next t ∧ Retired s t g h (g.pc + 8) ∧ h.tagDone = g.tagDone ||| BitVec.ofNat 64 (2 ^ tag) ∧
        h.tagBusy = g.tagBusy ∧ SameGroup g h { tags := True }) ∧
    (∀ (s1 : State) (ps : List (Nat × Nat × Bool)) (li ci : Nat), Issues s g (.comb o) → g.tagBusy.getLsbD tag = false → g.tagDone.getLsbD tag = false →
      let a := (g.getS o.sb1.toNat).toNat
      let n := (g.getS o.sb2.toNat).toNat
      let first := a / 8 * 8
      let size := (a + n + 7) / 8 * 8 - first
      let d : CopyEnd := { isStash := false, addr := g.getS o.sb1.toNat, core := 0, base := 0, ystr := 0, zstr := 0 }
      n ≠ 0 → s.pagesOf g .write ((List.range ((first % 65536 + size + 65535) / 65536)).map fun i => (first / 65536 + i) % 2 ^ 48) = (.ok ps, s1) →
      s1.group? g.id.key = some g → s1.freeLock g.id.core = some li → s1.freeCmd g.id.core = some ci →
      s1.lockClash g.id.core g.id.vf d (a, a + n) none = none → Untraced s1 g.id.vf →
      ∃ t h c e, exec (.comb o) s = .next t ∧ Retired { s1 with copies := s1.copies ++ [c], locks := s1.locks ++ [e] } t g h (g.pc + 8) ∧
        busy h ∧ SameGroup g h { tags := True } ∧ c.group = g.id.key ∧ c.tag = tag ∧ c.slot = ci ∧ c.isComb = true ∧ c.dst = d ∧ c.xlen = n ∧
        c.done = 0 ∧ c.cancelled = false ∧ c.sco = o.sco ∧ e.core = g.id.core ∧ e.idx = li ∧ e.tag = tag ∧ e.nosrc = true ∧ e.dsp = false ∧
        e.dlo = g.getS o.sb1.toNat ∧ e.dhi = BitVec.ofNat 64 (a + n)) ∧
    (∀ (d r : CopyEnd) (s1 s2 : State) (dp sp : List (Nat × Nat × Bool)) (li ci : Nat), Issues s g (.cpy o) → CopyOk s g o d r →
      let db := boundingRange shape (g.getS (o.a.toNat + 1))
      let sb := boundingRange shape (g.getS o.a.toNat)
      let dr := d.range db.1 db.2
      let rr := r.range sb.1 sb.2
      (d.isStash = true → ∀ k, (s.row k).checked = false) → s.pagesOf g .write (d.pages shape) = (.ok dp, s1) → s1.pagesOf g .read (r.pages shape) = (.ok sp, s2) →
      s2.group? g.id.key = some g → (d.isStash = r.isStash → (d.isStash = true → d.core = r.core) → dr.2 ≤ rr.1 ∨ rr.2 ≤ dr.1) →
      s2.freeLock g.id.core = some li → s2.freeCmd g.id.core = some ci →
      s2.copyFits g.id.vf (shapeX shape * shapeY shape * shapeZ shape) = true → s2.lockClash g.id.core g.id.vf d dr (some (r, rr)) = none →
      Untraced s2 g.id.vf →
      ∃ t h c e, exec (.cpy o) s = .next t ∧ Retired { s2 with copies := s2.copies ++ [c], locks := s2.locks ++ [e] } t g h (g.pc + 8) ∧
        busy h ∧ SameGroup g h { tags := True } ∧
        c.group = g.id.key ∧ c.tag = tag ∧ c.slot = ci ∧ c.isComb = false ∧ c.dst = d ∧ c.src = r ∧ c.done = 0 ∧ c.cancelled = false ∧
        c.xlen = shapeX shape ∧ c.ycnt = shapeY shape ∧ c.zcnt = shapeZ shape ∧ c.sco = o.sco ∧
        e.core = g.id.core ∧ e.idx = li ∧ e.tag = tag ∧ e.dsp = d.isStash ∧ e.ssp = r.isStash ∧ e.nosrc = false ∧
        e.dlo = BitVec.ofNat 64 dr.1 ∧ e.dhi = BitVec.ofNat 64 dr.2 ∧ e.slo = BitVec.ofNat 64 rr.1 ∧ e.shi = BitVec.ofNat 64 rr.2)

/-- R265, R270, R272, R273: which DONE tags each tag instruction observes, in a run without a log: an observed tag is FREE and its range
lock is gone; a tag that had faulted is observed and traps; `cpy.ffr` returns the lowest DONE tag or 64; `cpy.cancel` marks the group's
commands, unless DET = 1. `wait` with cp = 0 observes every DONE tag. -/
def Obligations.TagObservation : Prop :=
  ∀ (s : State) (g : Group), s.log g.id.vf = 0 → g.speculative = false →
    let observes (i : Instr) (m : Word) (w : Touched) (p : Group → Prop) : Prop :=
      ∃ t h, exec i s = .next t ∧ Retired { s with locks := releasedLocks s g (m &&& g.tagDone) } t g h (g.pc + 8) ∧
        h.tagDone = g.tagDone &&& ~~~m ∧ h.tagBusy = g.tagBusy ∧ h.tagFlt = g.tagFlt ∧ p h ∧ SameGroup g h { w with tags := True }
    (∀ o : OpE,
      let m := g.getS o.sb1.toNat
      (g.tagDone &&& m &&& g.tagFlt) = 0 →
      (Issues s g (.cpyWall o) → g.tagBusy &&& m = 0 → observes (.cpyWall o) m {} fun _ => True) ∧
      (Issues s g (.cpyWany o) → (g.tagBusy &&& m = 0 ∨ (s.det g.id.vf = false ∧ g.tagDone &&& m ≠ 0)) →
        observes (.cpyWany o) m {} fun _ => True) ∧
      (Issues s g (.cpyFfr o) → (s.det g.id.vf = true → g.tagBusy &&& m = 0) → g.tagDone &&& m = 0 →
        observes (.cpyFfr o) 0 { s := (· = o.d.toNat) } fun h => h.getS o.d.toNat = 64) ∧
      (∀ t, t < 64 → Issues s g (.cpyFfr o) → (s.det g.id.vf = true → g.tagBusy &&& m = 0) → (g.tagDone &&& m).getLsbD t = true →
        (∀ j, j < t → (g.tagDone &&& m).getLsbD j = false) →
        observes (.cpyFfr o) (BitVec.ofNat 64 (2 ^ t)) { s := (· = o.d.toNat) } fun h => h.getS o.d.toNat = BitVec.ofNat 64 t)) ∧
    (∀ (o : OpE) (t : Nat), Issues s g (.cpyWall o) → t < 64 →
      let m := g.getS o.sb1.toNat
      g.tagBusy &&& m = 0 → (g.tagDone &&& m &&& g.tagFlt).getLsbD t = true → (∀ j, j < t → (g.tagDone &&& m &&& g.tagFlt).getLsbD j = false) →
      ∃ (s1 : State) (h : Group), exec (.cpyWall o) s = .next (s1.takeTrap h { mkTrap 20 2 t with pc := g.pc }) ∧ h.tagDone.getLsbD t = false ∧
        h.tagFlt.getLsbD t = false ∧ SameGroup g h { tags := True } ∧ s1.mem = s.mem) ∧
    (∀ o : OpE, Issues s g (.cpyCancel o) →
      ∃ t h, ∃ copies : List CopyCmd, exec (.cpyCancel o) s = .next t ∧ Retired { s with copies } t g h (g.pc + 8) ∧ SameGroup g h {} ∧
        (s.det g.id.vf = true → copies = s.copies) ∧
        (s.det g.id.vf = false → copies.length = s.copies.length ∧ ∀ (n : Nat) (c : CopyCmd), s.copies[n]? = some c →
          ∃ d : CopyCmd, copies[n]? = some d ∧
            d = { c with cancelled := c.cancelled || (c.group == g.id.key && (g.getS o.sb1.toNat).getLsbD c.tag), cancelAt := d.cancelAt })) ∧
    (∀ o : OpI, Issues s g (.wait o) → g.failed = [] → g.ldcnt ≤ o.imm.toNat % 256 → g.stcnt ≤ o.imm.toNat / 2 ^ 8 % 256 → g.tagBusy = 0 →
      s.mxcnt g ≤ o.imm.toNat / 2 ^ 24 → o.imm.toNat / 2 ^ 16 % 256 = 0 → (g.tagDone &&& g.tagFlt) = 0 →
      observes (.wait o) (BitVec.allOnes 64) {} fun _ => True)

/-- R192 to R194, R237: arrival at a barrier needs every live thread of the group in M, leaves the group waiting at its word and marks its
team's arrival state; it traps otherwise, and in a grid that is not cooperative for `bar.g`. A team barrier waits for every live thread of the
team, and for its running stream; when all are there each waiting group goes on at the following word with the team's table, and the arrival
state is empty. The order of the two traps is log entry 29. -/
def Obligations.Barriers : Prop :=
  (
    ∀ (s : State) (g : Group) (t : Team) (i : Instr) (n : Nat),
      ((∃ o, i = .barT o ∧ n = o.d.toNat) ∨ (∃ o, i = .barC o ∧ n = 16) ∨ (∃ o, i = .barG o ∧ n = 17)) → Issues s g i →
      s.team? g.id.team = some t →
      (g.mask &&& g.live ≠ g.live → TakesTrap s g i 13 1 n) ∧
      (g.mask &&& g.live = g.live → n = 17 → s.coop g = false → TakesTrap s g i 13 2 0) ∧
      (g.mask &&& g.live = g.live → (n = 17 → s.coop g = true) → g.ops = [] → g.fqHeld = [] → g.failed = [] → Untraced s g.id.vf →
        ∃ s1 h, exec i s = .next s1 ∧ s1.group? g.id.key = some h ∧ h.wait = .bar n ∧ h.pc = g.pc ∧ h.ltime = g.ltime ∧
          SameGroup { g with wait := .bar n } h {} ∧ SameMachine s s1 ∧ SameOthers s s1 g.id.key ∧
          s1.team? g.id.team = some { t with arrive := putNth t.arrive n (nth 0 t.arrive n ||| (1#17 <<< g.id.tidx)) })) ∧
  (
    ∀ (s : State) (t : Team) (n : Nat), s.team? t.key = some t → n < 16 → KeysOk s → t.arrive.length = 18 →
      let members := s.teamGroups t.key
      let done := exec (.barrierComplete (.team t.key n)) s
      ((∃ g ∈ members, g.live ≠ 0 ∧ (nth 0 t.arrive n).getLsbD g.id.tidx = false) → done = .next s) ∧
      (t.seqr.run = true → t.seqr.barw ≠ some n → done = .next s) ∧
      ((∀ g ∈ members, g.live ≠ 0 → (nth 0 t.arrive n).getLsbD g.id.tidx = true) → t.filed = [] → t.drawn = [] → (∀ b ∈ s.bins, b.team ≠ t.key) →
        (t.seqr.run = true → t.seqr.barw = some n) → (∃ g ∈ members, g.wait = .bar n ∧ g.live ≠ 0) →
        (∀ g ∈ members, Untraced s g.id.vf) →
        ∃ s1 u, done = .next s1 ∧ s1.team? t.key = some u ∧ nth 0 u.arrive n = 0 ∧ s1.mem = s.mem ∧
          ∀ g ∈ members, g.wait = .bar n → ∃ h, s1.group? g.id.key = some h ∧ h.wait = .run ∧ h.pc = g.pc + 8 ∧ h.ltime = g.ltime + 1 ∧
            h.view = u.table ∧ h.fmtPend = [] ∧ h.regs = g.regs))

/-- R176, R177, R188 to R190: `reform` removes the threads of M from their group and its stack, and the group goes on at the topmost entry
with a lane left, or has no thread left; with DET = 1 each thread is filed under the following word in the named set. It traps on scale
registers that differ from their launch values, and in a matrix group. A ready bin, or a composed set, is drawn into a vacant slot of its team:
a new group with its threads' lanes stands at their key with an empty stack. -/
def Obligations.Reforming : Prop :=
  (
    ∀ (s : State) (g : Group) (t : Team) (o : OpI), Issues s g (.reform o) → g.fqHeld = [] → s.team? g.id.team = some t →
      let m := g.mask &&& g.live
      let plain : Prop := ∀ n, n < 64 → g.getZ n = zDefault
      (∀ n, n < 64 → g.getZ n ≠ zDefault → (∀ j, j < n → g.getZ j = zDefault) → TakesTrap s g (.reform o) 15 1 n) ∧
      (plain → t.mx.contains g.id.grpid = true → TakesTrap s g (.reform o) 15 2 g.id.quad) ∧
      (plain → t.mx.contains g.id.grpid = false → g.fmtPend = [] → g.ops = [] → g.tagBusy = 0 → g.tagDone = 0 → g.failed = [] →
        g.dv.length = 16 → g.dvDepth ≤ 16 →
        let filed (s1 : State) : Prop := s.det g.id.vf = true → ∃ u fs, s1.team? t.key = some u ∧ u.filed = t.filed ++ fs ∧
          fs.map (fun f => f.lane) = lanesOf m ∧ ∀ f ∈ fs, f.pc = g.pc + 8 ∧ f.set = o.imm.toNat % 16 ∧ f.quad = g.id.quad
        (∀ k, k < g.dvDepth → g.leftAt m k ≠ 0 → (∀ j, k < j → j < g.dvDepth → g.leftAt m j = 0) →
          ((g.entryAt k).isPath = true ∨ (g.entryAt k).pc ≠ 0) →
          ∃ s1 h, exec (.reform o) s = .next s1 ∧ s1.group? g.id.key = some h ∧ h.pc = (g.entryAt k).pc ∧ h.mask = g.leftAt m k ∧
            h.live = g.live &&& ~~~m ∧ h.dvDepth = k ∧ h.ltime = g.ltime + 1 ∧ s1.mem = s.mem ∧ filed s1) ∧
        ((∀ k, k < g.dvDepth → g.leftAt m k = 0) →
          ∃ s1 h, exec (.reform o) s = .next s1 ∧ s1.group? g.id.key = some h ∧ h.wait = .ended ∧ h.mask = 0 ∧ h.live = g.live &&& ~~~m ∧
            s1.mem = s.mem ∧ filed s1))) ∧
  (
    ∀ (s : State) (t : Team) (v : Nat × Nat × Nat × Nat), s.team? t.key = some t → (∀ g ∈ s.groups, s.isDone g = false) →
      let draws (i : Instr) (quad : Nat) (key : Word) (fs : List Filed) (p : State → Prop) : Prop := ∃ s1 g, exec i s = .next s1 ∧ s1.groups = s.groups ++ [g] ∧
        g.pc = key ∧ (∀ l, l < 32 → (g.live.getLsbD l = true ↔ ∃ f ∈ fs, f.lane = l)) ∧ g.mask = g.live ∧ g.dvDepth = 0 ∧ g.wait = .run ∧
        g.id.team = t.key ∧ g.id.quad = quad ∧ g.id.slot = v.2.1 ∧ p s1
      t.slotOn v.1 = some v →
      (∀ b, (s.bins.find? fun x => x.id == b.id) = some b → b.team = t.key → b.quad = v.1 → b.threads ≠ [] →
        (∀ f ∈ b.threads, f.donor.id.team = t.key) →
        (b.ready = true) → (∀ c ∈ s.bins.takeWhile fun x => x.id != b.id, c.team ≠ t.key) → (∀ f ∈ b.threads, s.log f.donor.id.vf ≠ 2) →
        draws (.binDraw b.id) v.1 b.key b.threads fun s1 => s1.bins = s.bins.filter fun x => x.id != b.id) ∧
      (∀ d, t.filed = [] → (t.drawn.find? fun x => x.quad == v.1) = some d → d.threads ≠ [] → (∀ f ∈ d.threads, f.donor.id.team = t.key) →
        draws (.reformDraw t.key v.1) v.1 d.key d.threads fun _ => True))

/-- R296 to R299: `acc.rd` delivers columns l and 32 + l of a tile row, rounded to binary32 under WIDE and their bits under NARROW, and STEPS; with DET = 1 one that conflicts is a
timing read, refused with RAWCLK = 0. `acc.wr` and `acc.zero` write the active lanes' columns. A tile beyond the claim and a row beyond 31 trap. -/
def Obligations.TileWords : Prop :=
  ∀ (s : State) (g : Group) (t : Team) (o : OpE) (key : Nat), s.team? g.id.team = some t → g.speculative = false → s.log g.id.vf = 0 →
    s.tileKey g o.sco.toNat = some key →
    let act := g.active o.pred
    let row := if o.md = 1 then (g.getS o.sb1.toNat).toNat else o.num.toNat
    let d := o.d.toNat
    let a := o.a.toNat
    let old (c : Nat) : BitVec 40 := Sparse.get 0 s.tileVals c
    let fits : Prop := o.sco.toNat < t.accClaim ∧ row < 32
    (Issues s g (.accRd o) → d + 2 ≤ g.id.claim → a < g.id.claim → d + 2 ≤ 768 → a < 768 → a ≠ d → a ≠ d + 1 → fits →
      let clash : Prop := s.det g.id.vf = true ∧ act ≠ 0 ∧ (s.conflictAt (tileLoc key row) (s.confOf g g.ltime false false false) g.mxSeen).isSome = true
      (clash → s.rawclk g.id.vf = false → TakesTrap s g (.accRd o) 16 1 (0x1000 + 32 * o.sco.toNat + row)) ∧
      (¬ clash ∨ s.rawclk g.id.vf = true → ∃ s1 h cs, exec (.accRd o) s = .next s1 ∧ Retired { s with conflicts := cs } s1 g h (g.pc + 8) ∧
        (let out (x : BitVec 40) : Lane := if s.wide g.id.vf then tileOut x else x.extractLsb' 8 32
         ∀ l, l < 32 → act.getLsbD l = true → h.getV d l = out (old (cell key row l)) ∧
          h.getV (d + 1) l = out (old (cell key row (32 + l))) ∧ h.getV a l = Sparse.get 0 s.tileSteps key) ∧
        SameGroup g h { v := fun n l => act.getLsbD l = true ∧ (n = d ∨ n = d + 1 ∨ n = a) } ∧
        (∀ loc, loc ≠ tileLoc key row → Sparse.get { accesses := [] } cs loc = Sparse.get { accesses := [] } s.conflicts loc) ∧
        (s.det g.id.vf = false → cs = s.conflicts))) ∧
    (let writes (i : Instr) (rows : Nat → Prop) (lo hi : Nat → Lane) : Prop :=
       ∃ s1 h vals, exec i s = .next s1 ∧ Retired { s with tileVals := vals } s1 g h (g.pc + 8) ∧ SameGroup g h {} ∧
        (∀ r l, rows r → l < 32 → act.getLsbD l = true →
          Sparse.get 0 vals (cell key r l) = tileOf (lo l) ∧ Sparse.get 0 vals (cell key r (32 + l)) = tileOf (hi l)) ∧
        ∀ c, (∀ r l, rows r → l < 32 → act.getLsbD l = true → c ≠ cell key r l ∧ c ≠ cell key r (32 + l)) → Sparse.get 0 vals c = old c
     (Issues s g (.accWr o) → a + 2 ≤ g.id.claim → a + 2 ≤ 768 → fits → s.det g.id.vf = false →
       writes (.accWr o) (· = row) (g.getV a) (g.getV (a + 1))) ∧
     (Issues s g (.accZero o) → fits → s.det g.id.vf = false →
       writes (.accZero o) (fun r => if o.md = 2 then r < 32 else r = row) (fun _ => 0) (fun _ => 0))) ∧
    (Issues s g (.accZero o) → t.accClaim ≤ o.sco.toNat → TakesTrap s g (.accZero o) 12 18 o.sco.toNat) ∧
    (Issues s g (.accZero o) → o.sco.toNat < t.accClaim → 32 ≤ row → TakesTrap s g (.accZero o) 12 19 row)

/-- R285: `mxgo` starts the team's stream at the address its register names, or at the kernel's, with the team's table as its view; it traps in
a team without matrix groups, while a stream runs, and on a start that is 0 or no multiple of 8. -/
def Obligations.StartingTheStream : Prop :=
  ∀ (s : State) (g : Group) (t : Team) (c : Cluster) (o : OpE), Issues s g (.mxgo o) → g.speculative = false → s.team? g.id.team = some t →
    s.cluster? g.id.cluster = some c →
    let named := g.getS o.sb1.toNat
    let start := if named = 0 then s.nodeWord c.vf c.gslot c.node 7 else named
    (t.mx = [] → TakesTrap s g (.mxgo o) 12 17 0) ∧
    (t.mx ≠ [] → t.seqr.run = true → TakesTrap s g (.mxgo o) 12 16 (aligned8 t.seqr.mxpc).toNat) ∧
    (t.mx ≠ [] → t.seqr.run = false → (start = 0 ∨ start.toNat % 8 ≠ 0) → TakesTrap s g (.mxgo o) 8 2 start.toNat) ∧
    (t.mx ≠ [] → t.seqr.run = false → start ≠ 0 → start.toNat % 8 = 0 →
      ∃ s1 h q, exec (.mxgo o) s = .next s1 ∧ Retired (s.setTeam { t with seqr := q }) s1 g h (g.pc + 8) ∧ SameGroup g h {} ∧
        q.run = true ∧ q.flt = false ∧ q.mxpc = start ∧ q.owner = g.id.key ∧ q.view = t.table ∧ q.pend = [] ∧ q.word = none ∧
        q.flight = t.seqr.flight)

/-- R286, R289 to R295, R50: what each stream word does when it issues with DET = 0, and the stream faults of an invalid entry, a tile and rows
beyond the claim. -/
def Obligations.StreamWords : Prop :=
  ∀ (s : State) (k : Nat) (t : Team) (c : Cluster) (o : OpQ), StreamReady s k t c →
    let q := t.seqr
    let n := o.tgt.toNat
    -- the word has issued: the sequencer is `q1` at the following word
    let issued (i : Instr) (p : State → Sequencer → Prop) : Prop := ∃ s1 u, exec i s = .next s1 ∧ s1.team? k = some u ∧
      u.seqr.mxpc = q.mxpc + 8 ∧ u.seqr.word = none ∧ s1.mem = s.mem ∧ s1.groups = s.groups ∧ p s1 u.seqr
    let flaw (i : Instr) (code more : Nat) : Prop := ∃ s1 u, exec i s = .next s1 ∧ s1.team? k = some u ∧
      u.seqr = { q with faultPost := some { mkTrap 12 code ((aligned8 q.mxpc).toNat + 2 ^ 64 * more) with async := true, pc := q.mxpc } } ∧
      s1.tileVals = s.tileVals ∧ s1.locks = s.locks
    -- `mx.zero`
    (q.flight.length < 8 → t.accClaim ≤ n → flaw (.mxZero o) 3 n) ∧
    (q.flight.length < 8 → n < t.accClaim → issued (.mxZero o) fun s1 q1 => s1.tileVals = s.tileVals ∧ s1.locks = s.locks ∧
      ∃ op, q1.flight = q.flight ++ [op] ∧ op.isZero = true ∧ op.tile = n) ∧
    (8 ≤ q.flight.length → exec (.mxZero o) s = .next s ∧ exec (.mxMma o) s = .next s) ∧
    -- `mx.bar` and `mx.end`
    (q.flight = [] → issued (.mxBar o) fun _ q1 => q1.barw = some n ∧ q1.flight = [] ∧ q1.run = true) ∧
    (q.flight = [] → issued (.mxEnd o) fun s1 q1 => q1.run = false ∧ q1.pend = [] ∧ s1.tileVals = (s.retireTiles t).tileVals) ∧
    (q.flight ≠ [] → exec (.mxBar o) s = .next s ∧ exec (.mxEnd o) s = .next s) ∧
    -- `mx.fmt`: entry n from the first bytes of a row
    (t.stashRows ≤ o.arow.toNat → flaw (.mxFmt o) 5 o.arow.toNat) ∧
    (o.arow.toNat < t.stashRows → s.locks = [] → s.log c.vf = 0 → s.linkUp = true → (s.row (t.core * 4096 + t.stashBase + o.arow.toNat)).st ≠ .i → n < q.view.length →
      let w : BitVec 32 := BitVec.ofNat 32 (leNat (Memory.readN s.stash (t.core * Config.stashBytes + (t.stashBase + o.arow.toNat) * 128) 4))
      (Fmt.entryRefusal w = 0 → issued (.mxFmt o) fun _ q1 => nth 0 q1.view n = w ∧ q1.pend = q.pend ++ [(n, w)] ∧ q1.flight = q.flight)) ∧
    -- `mx.mma`
    (let na := o.fmt.toNat
     let nb := o.fb.toNat
     let fa := Fmt.Entry.of (nth 0 q.view na)
     let fb := Fmt.Entry.of (nth 0 q.view nb)
     let rows := bRows fb + if fb.sc ≠ 0 then 1 else 0
     q.flight.length < 8 →
     (fa.v = false → flaw (.mxMma o) 2 na) ∧ (fa.v = true → fb.v = false → flaw (.mxMma o) 2 nb) ∧
     (fa.v = true → fb.v = true → t.accClaim ≤ n → flaw (.mxMma o) 3 n) ∧
     (fa.v = true → fb.v = true → n < t.accClaim → t.claim < o.brow.toNat + rows → flaw (.mxMma o) 4 0) ∧
     (fa.v = true → fb.v = true → n < t.accClaim → o.brow.toNat + rows ≤ t.claim → o.arow.toNat + aRows fa ≤ t.stashRows → s.locks = [] →
       issued (.mxMma o) fun s1 q1 => s1.tileVals = s.tileVals ∧ ∃ op e, q1.flight = q.flight ++ [op] ∧ op.isZero = false ∧ op.tile = n ∧ op.done = 0 ∧
         op.arow = o.arow.toNat ∧ op.steps = 64 / stepTerms fa fb ∧ s1.locks = [e] ∧ e.core = t.core ∧ e.dsp = true ∧ e.nosrc = true ∧
         e.dlo = BitVec.ofNat 64 ((t.stashBase + o.arow.toNat) * 128) ∧
         e.dhi = BitVec.ofNat 64 ((t.stashBase + o.arow.toNat) * 128 + aRows fa * 128) ∧
         (∀ qd g, qd < 4 → s.matrixGroup t qd = some g → ∀ j l, j < rows → l < 32 → nth 0 (nth [] op.b qd) (j * 32 + l) = g.getV (o.brow.toNat + j) l)))

/-- R286, R289, R293 to R295: the sequencer's events. A fetch keeps the word at MXPC; a step of `mx.mma` adds its products to every value of the
tile and counts in STEPS, `mx.zero` clears the tile; a stream stopped at a fault ends once it has nothing in flight, and the fault goes to a
group. -/
def Obligations.StreamEvents : Prop :=
  ∀ (s : State) (t : Team) (c : Cluster), s.team? t.key = some t → s.cluster? t.cluster = some c → c.residence = .resident →
    (c.halting = true → c.atck = true) → s.log c.vf = 0 → s.linkUp = true →
    let q := t.seqr
    (∀ (s1 : State) (g : Group) (pa mt : Nat), q.run = true → q.word = none → q.faultPost = none → q.fault = none → q.barw = none →
      s.group? q.owner = some g → s.translate g.asker .fetch q.mxpc = (.ok (pa, mt), s1) → s1.rows = [] → s1.teams = s.teams →
      let w : Word := BitVec.ofNat 64 (leNat (Memory.readN s1.mem pa 8))
      (∃ i, Dec.stream w = .ok i) →
      ∃ s2, exec (.streamFetch t.key false) s = .next s2 ∧ s2.team? t.key = some { t with seqr := { q with word := some w } } ∧ s2.mem = s1.mem) ∧
    (∀ x : MxOp, q.flight = [x] →
      (x.isZero = true → ∃ s2, exec (.mxStepComplete t.key 0) s = .next s2 ∧ s2.team? t.key = some { t with seqr := { q with flight := [] } } ∧
        s2.mem = s.mem ∧ (∀ k, Sparse.get 0 s2.tileVals k = if (t.tileKeys x.tile).contains (k / 2048) then 0 else Sparse.get 0 s.tileVals k) ∧
        ∀ k, Sparse.get 0 s2.tileSteps k = if (t.tileKeys x.tile).contains k then 0 else Sparse.get 0 s.tileSteps k) ∧
      (x.isZero = false → s.rows = [] → (t.tileKeys x.tile).Nodup →
        let fa := Fmt.Entry.of x.fa
        let fb := Fmt.Entry.of x.fb
        let n := stepTerms fa fb
        let base := t.core * Config.stashBytes + (t.stashBase + x.arow) * 128
        ∃ s2 u, exec (.mxStepComplete t.key 0) s = .next s2 ∧ s2.team? t.key = some u ∧ s2.mem = s.mem ∧ s2.stash = s.stash ∧
          u.seqr.flight = (if x.steps ≤ x.done + 1 then [] else [{ x with done := x.done + 1 }]) ∧
          (∀ qd key r col, qd < 4 → (t.tileKeys x.tile)[qd]? = some key → r < 32 → col < 64 →
            Sparse.get 0 s2.tileVals (cell key r col) = dotStep (s.wide c.vf) (Sparse.get 0 s.tileVals (cell key r col))
              ((List.range n).map fun i => ((aElem s.stash fa base (32 * qd + r) (x.done * n + i)).mul (bElem x.b fb (x.done * n + i) col)).1)) ∧
          ∀ key ∈ t.tileKeys x.tile, Sparse.get 0 s2.tileSteps key = Sparse.get 0 s.tileSteps key + 1)) ∧
    (∀ (x : TrapReq) (g : Group), q.faultPost = some x → q.flight = [] → s.group? q.owner = some g → g.live ≠ 0 →
      ∃ s2 u h, exec (.streamFault t.key) s = .next s2 ∧ s2.team? t.key = some u ∧ u.seqr.run = false ∧ u.seqr.flt = true ∧ u.seqr.fcode = x.code ∧
        u.seqr.faultPost = none ∧ s2.group? q.owner = some h ∧
        h = { g with wait := (match g.wait with | .bar _ => .run | w => w), trap := { g.trap with async := g.trap.async ++ [x] } } ∧
        (∀ n, g.wait = .bar n → g.id.team = t.key → n < t.arrive.length → g.id.tidx < 17 → (nth 0 u.arrive n).getLsbD g.id.tidx = false) ∧
        s2.tileVals = (s.retireTiles t).tileVals)
/-- R379 to R383, R367, R368: `fsend` and `fsend.s` check their destination, capture sixteen words and leave a message pending; `frecv` names an enabled
mailbox of its virtual function and leaves a read pending; `dlink.stat` reads the partition's share of the link and its queued ratio;
`dlink.turn` queues its ratio with DLB = 1, in place of the one queued before, and has no effect with DLB = 0. -/
def Obligations.FabricWords : Prop :=
  ∀ (s : State) (g : Group), g.speculative = false → s.log g.id.vf = 0 →
    let sends (i : Instr) (d : Word) (kind : BitVec 2) (word : Nat → Lane) : Prop := ∃ t h m op, exec i s = .next t ∧
      Retired s t g h (g.pc + 8) ∧ SameGroup g h { ops := True } ∧ (∃ old, h.ops = old ++ [op] ∧ old.map MemOp.bare = g.ops.map MemOp.bare) ∧
      op.kind = .fsend m ∧ op.parts = [] ∧ op.ltime = g.ltime ∧
      m.dst = d ∧ m.kind = kind ∧ m.payload = (List.range 16).map word ∧ m.srcDev = BitVec.ofNat 13 s.deviceNum ∧
      m.srcVf = BitVec.ofNat 8 g.id.vf ∧ m.grp = BitVec.ofNat 4 g.id.grpid
    (∀ o : OpE,
      let d := g.getS o.sb1.toNat
      let a := g.getS o.sb2.toNat
      let bad : Prop := d &&& 0xFFFFFFFFC0C0E000 ≠ 0 ∨ 12 ≤ dstPart d
      let far : Prop := s.podSize ≤ dstDev d ∨ (dstDev d ≠ s.deviceNum ∧ s.routeSet (dstDev d) = [])
      let room : Prop := g.stcnt < 255 ∧ s.streamLoad d < 256
      (Issues s g (.fsend o) → g.Names o.a 1 (fun l => l < 16 ∧ g.live.getLsbD l = true) →
        (bad → TakesTrap s g (.fsend o) 21 1 (d.toNat + 2 ^ 72 * dstDev d)) ∧
        (¬ bad → far → TakesTrap s g (.fsend o) 21 2 (d.toNat + 2 ^ 72 * dstDev d)) ∧
        (s.Reaches d → room → sends (.fsend o) d 0 fun l => g.fetchV o.a 0 l)) ∧
      (Issues s g (.fsendS o) →
        (bad → TakesTrap s g (.fsendS o) 21 1 (d.toNat + 2 ^ 72 * dstDev d)) ∧
        (¬ bad → far → TakesTrap s g (.fsendS o) 21 2 (d.toNat + 2 ^ 72 * dstDev d)) ∧
        (∀ b, s.Reaches d → a.toNat < 2 ^ 32 → s.stashByte g a = .ok b →
          (a.toNat % 64 ≠ 0 → TakesTrap s g (.fsendS o) 8 3 (a.toNat + 2 ^ 64 * 6)) ∧
          (a.toNat % 64 = 0 → room → s.linkUp = true → s.locks = [] → s.det g.id.vf = false → (s.row (b / 128)).st ≠ .i → (∀ x ∈ g.ops, x.space ≠ .stash) →
            sends (.fsendS o) d 1 fun j => chunk (Memory.readN s.stash b 64) j)))) ∧
    (∀ o : OpE, Issues s g (.frecv o) → o.d.toNat < g.id.claim → o.d.toNat < 768 →
      let w := g.getS o.sb1.toNat
      let mb := w.toNat % 64
      let held : Prop := ∃ x, ((s.vf g.id.vf).mboxes.find? fun e => e.1 == mb) = some (mb, x) ∧ x.v = true
      (64 ≤ w.toNat → TakesTrap s g (.frecv o) 21 1 w.toNat) ∧
      (w.toNat < 64 → ¬ held → TakesTrap s g (.frecv o) 21 3 mb) ∧
      (w.toNat < 64 → held → g.ldcnt < 255 →
        ∃ t h op, exec (.frecv o) s = .next t ∧ Retired s t g h (g.pc + 8) ∧ SameGroup g h { ops := True } ∧
          (∃ old, h.ops = old ++ [op] ∧ old.map MemOp.bare = g.ops.map MemOp.bare) ∧ op.kind = .frecv o.a.toNat mb ∧ op.parts.map (fun p => (p.lane, p.reg)) = (lanesOf g.live).map fun l => (l, o.d.toNat))) ∧
    (∀ o : OpE, Issues s g (.dlinkStat o) →
      let l := nth DieLink.reset s.links (leafOf g.id.core)
      let queued (p : Partition) : Nat := Sparse.get 0 l.queued p.num
      (s.timingRefused g.id.vf = true → TakesTrap s g (.dlinkStat o) 16 1 0x2000) ∧
      (∀ (p : Partition) (x : LinkShare), s.timingRefused g.id.vf = false → s.partOf g.id.vf = some p →
        (l.shares.find? fun y => y.part == p.num) = some x →
        ∃ t h, exec (.dlinkStat o) s = .next t ∧ Retired s t g h (g.pc + 8) ∧ SameGroup g h { s := (· = o.d.toNat) } ∧
          h.getS o.d.toNat = BitVec.ofNat 64 (x.n + 2 ^ 8 * (((l.dirs.drop x.base).take x.n).countP fun b => b)
            + 2 ^ 16 * queued p + (if queued p = 0 then 0 else 2 ^ 19) + 2 ^ 20 * (s.dlb g.id.vf).toNat + 2 ^ 32 * (x.turns % 2 ^ 32)))) ∧
    (∀ (o : OpI) (p : Partition), Issues s g (.dlinkTurn o) → s.partOf g.id.vf = some p →
      let leaf := leafOf g.id.core
      let l := nth DieLink.reset s.links leaf
      let links := if s.dlb g.id.vf then putNth s.links leaf { l with queued := Sparse.set 0 l.queued p.num o.imm.toNat } else s.links
      ∃ t h, exec (.dlinkTurn o) s = .next t ∧ Retired { s with links } t g h (g.pc + 8) ∧ SameGroup g h {})

/-- R206, R373, R375 to R378, R380, R385, R386: what the fabric does. A port accepts a group's oldest message with the next number of its stream
and the port of its route; a message that is next in its stream is written to its mailbox's ring, is discarded with a NACK where no
mailbox is enabled, and is held where the ring is full; a NACK is counted; a lost port leaves every route; a mailbox is enabled at the
address its base maps to; a packet in transit touches no memory; a remote copy writes where its virtual function accepts it, and is
answered. -/
def Obligations.FabricEvents : Prop :=
  ∀ s : State,
    (∀ (key : Nat) (g : Group) (o : MemOp) (rest : List MemOp) (m : Msg), s.group? key = some g → g.ops = o :: rest → o.kind = .fsend m →
      s.streamLoad m.dst < 256 → dstDev m.dst = s.deviceNum ∨ (s.log g.id.vf ≠ 2 ∧ s.routeSet (dstDev m.dst) ≠ []) →
      let k := dstDev m.dst * 4 + dstCls m.dst
      let n := Sparse.get 0 s.fabric.seqOut k
      Does s (.fabricAccept key o.id) fun t => t.group? key = some { g with ops := rest } ∧ t.mem = s.mem ∧
        (∃ x, t.fabric.sent = s.fabric.sent ++ [x] ∧ x.msg = { m with seq := BitVec.ofNat 32 n } ∧ x.cls = dstCls m.dst ∧ x.vf = g.id.vf ∧
          x.num = Sparse.get 0 s.streams k ∧ x.port = s.portFor (dstDev m.dst) (dstCls m.dst)) ∧
        Sparse.get 0 t.fabric.seqOut k = (n + 1) % 2 ^ 32) ∧
    (∀ m : Msg, dstDev m.dst = s.deviceNum → dstPart m.dst < 12 → m.srcDev.toNat ≠ s.deviceNum → s.fabric.held = [] → s.rows = [] →
      let k := m.srcDev.toNat * 4 + dstCls m.dst
      let mb := dstMbx m.dst
      let p := s.part (dstPart m.dst)
      m.seq.toNat = Sparse.get 0 s.fabric.seqIn k →
      (s.mailboxOwner p mb = none → Does s (.fabricArrival m) fun t => t.mem = s.mem ∧ t.vfs = s.vfs ∧ t.fabric.held = [] ∧
        t.fabric.replies = s.fabric.replies ++ [.nack m.srcDev.toNat m.srcVf.toNat p.num mb 1] ∧ Sparse.get 0 t.fabric.seqIn k = (m.seq.toNat + 1) % 2 ^ 32) ∧
      (∀ v x, s.mailboxOwner p mb = some (v, x) → (p.mode.extractLsb' 2 2).toNat ≠ 2 →
        (256 ≤ x.count → Does s (.fabricArrival m) fun t => t.mem = s.mem ∧ t.vfs = s.vfs ∧ t.fabric.held.map (·.msg) = [m] ∧
          t.fabric.seqIn = s.fabric.seqIn) ∧
        (x.count < 256 → s.linkUp = true → Does s (.fabricArrival m) fun t => t.fabric.held = [] ∧
          t.mem = Memory.writeN s.mem (x.pa + 128 * ((x.head + x.count) % 256)) (msgEntry m) ∧
          t.mbox v mb = { x with count := x.count + 1, arr := x.arr + 1 } ∧ Sparse.get 0 t.fabric.seqIn k = (m.seq.toNat + 1) % 2 ^ 32))) ∧
    (∀ vf dev part mbx reason : Nat, vf < 192 → s.HasVf vf → reason = 1 ∨ reason = 2 → dev < 8192 → part < 16 → mbx < 64 →
      Does s (.nackReceive vf dev part mbx reason) fun t => t.mem = s.mem ∧ t.fabric = s.fabric ∧
        (t.vf vf).fnack.toNat = dev + 2 ^ 14 * part + 2 ^ 18 * mbx + 2 ^ 24 * reason + 2 ^ 32 * (((s.vf vf).fnack.toNat / 2 ^ 32 + 1) % 2 ^ 32)) ∧
    (∀ port : Nat, Does s (.portDown port) fun t => t.fabric.portsUp = putNth s.fabric.portsUp port false ∧ t.mem = s.mem ∧ t.groups = s.groups ∧
      ∀ m ∈ t.fabric.sent, (∃ x ∈ s.fabric.sent, m.msg = x.msg) ∧ (dstDev m.msg.dst = t.deviceNum ∨ t.routeSet (dstDev m.msg.dst) ≠ [])) ∧
    (∀ (vf mb : Nat) (w : Word) (p : Partition), vf < 192 → mb < 64 → s.HasVf vf → s.partOf vf = some p →
      (w.getLsbD 0 = false → (s.mbox vf mb).v = true → Does s (.mailboxEnable vf mb w) fun t => (t.mbox vf mb).v = false ∧
        (t.mbox vf mb).count = 0 ∧ t.mem = s.mem) ∧
      (∀ (s1 : State) (e : Word) (lv : Nat), w.getLsbD 0 = true → s.mailboxOwner p mb = none →
        let base : Word := BitVec.ofNat 64 (w.toNat / 2 ^ 15 * 2 ^ 15)
        s.stage2 vf base.toNat 1 0 7 = (.ok (e, lv), s1) → s1.vfs = s.vfs → entryMt e = 0 → e.getLsbD 3 = true →
        (rangeOf (leafPa e lv base.toNat) = some 0 ∨ rangeOf (leafPa e lv base.toNat) = some 1) →
        Does s (.mailboxEnable vf mb w) fun t => t.mem = s1.mem ∧
          t.mbox vf mb = { base, pa := leafPa e lv base.toNat, leaf := w.toNat / 2 ^ 13 % 4, err := false, v := true, arr := 0, head := 0, count := 0 })) ∧
    (∀ dev cls : Nat, Does s (.transitForward dev cls) fun t => t.mem = s.mem ∧ t.stash = s.stash ∧ t.groups = s.groups ∧ t.vfs = s.vfs ∧
      t.fabric = s.fabric) ∧
    (∀ (dev vf : Nat) (a : Word) (bs : List Byte), vf < 192 →
      ((s.vf vf).frcopy.getLsbD 0 = false → bs.length ≤ 4096 → Does s (.remoteCopyWrite dev vf a bs) fun t => t.mem = s.mem ∧
        t.groups = s.groups ∧ t.fabric.replies = s.fabric.replies ++ [.copied dev vf false]) ∧
      (∀ (s1 : State) (pa : Nat), (s.vf vf).frcopy.getLsbD 0 = true → 0 < bs.length → bs.length ≤ 128 →
        s.schedXlate vf .write (pageParts a.toNat bs.length) = (.ok [(pa, bs.length)], s1) → pa % 128 + bs.length ≤ 128 → s1.log vf = 0 → s1.rows = [] →
        s1.linkUp = true → Does s (.remoteCopyWrite dev vf a bs) fun t => t.mem = Memory.writeN s1.mem pa bs ∧ t.groups = s1.groups ∧
          t.fabric.replies = s1.fabric.replies ++ [.copied dev vf true]))

/-- R360 to R363, R370 to R372: turn windows and the turning of bundles, retries and retraining of the Wiuno link, the companion processor's
accesses to memory and its snoops. -/
def Obligations.LinkEvents : Prop :=
  ∀ s : State,
    (s.ns / 2000 ≤ s.window → exec .turnWindow s = .next s) ∧
    (∀ (leaf : Nat) (l : DieLink), leaf < 4 → s.links[leaf]? = some l →
      (s.window < s.ns / 2000 → l.turning = [] → l.due = false → (∀ x ∈ l.shares, (s.part x.part).mode.getLsbD 4 = true) →
        (l.shares.map fun x => x.part).Nodup →
        let shares := l.shares.map fun (x : LinkShare) =>
          let r := Sparse.get 0 l.queued x.part
          if r = 0 then x else { x with target := readBundles x.n r }
        Does s .turnWindow fun t => t.window = s.ns / 2000 ∧ t.mem = s.mem ∧
          ∃ m, t.links[leaf]? = some m ∧ m.shares = shares ∧ m.turning = DieLink.toTurn { l with shares } ∧ m.darkEnd = s.ns + 12 ∧
            m.dirs = l.dirs ∧ ∀ p, Sparse.get 0 m.queued p = if l.shares.any fun x => x.part == p then 0 else Sparse.get 0 l.queued p) ∧
      (∀ (b : Nat) (r : List Nat), l.turning = b :: r →
        let shares := l.shares.map fun (x : LinkShare) => if x.base ≤ b ∧ b < x.base + x.n then { x with turns := x.turns + 1 } else x
        (s.ns < l.darkEnd → exec (.bundleTurnEnd leaf) s = .next s) ∧
        (l.darkEnd ≤ s.ns → Does s (.bundleTurnEnd leaf) fun t => t.mem = s.mem ∧
          t.links[leaf]? = some { l with turning := r, darkEnd := l.darkEnd + 12, dirs := putNth l.dirs b (!nth false l.dirs b), shares }))) ∧
    (∀ n : Nat, s.wiuno.up = true → s.wiuno.training = false →
      exec (.linkRetry n) s = .next { s with wiuno := { s.wiuno with retries := min n 16, training := decide (16 ≤ n) } }) ∧
    (∀ ok : Bool, s.wiuno.training = true → Does s (.linkRetrain ok) fun t => t.wiuno = { s.wiuno with training := false, retries := 0, up := ok } ∧
      (ok = true → t.parts = s.parts) ∧
      (ok = false → ∀ n, n < 12 → s.HasPart n → (s.part n).force.nonEmpty = true → ∃ x, (t.part n).host.queue = (s.part n).host.queue ++ [x])) ∧
    (∀ (pa n : Nat) (data : Option Nat), s.wiuno.up = true → s.wiuno.training = false → 0 < n → pa % 128 + n ≤ 128 → pa + n ≤ 0x8000000000 →
      s.rows = [] → s.log (((s.partMapping pa).map Partition.spineVf).getD 192) = 0 →
      Does s (.companionAccess pa n data) fun t =>
        (match data with
          | some d => t.mem = Memory.writeN s.mem pa (leBytes n d) ∧ (∀ x ∈ t.slices, x.line ≠ pa / 128) ∧
              ∃ e ∈ t.dir, e.line = pa / 128 ∧ e.host = .modified
          | none => t.mem = s.mem ∧ ∃ e ∈ t.dir, e.line = pa / 128 ∧ e.host = .shared)) ∧
    (∀ (line : Nat) (excl : Bool), s.wiuno.up = true → s.wiuno.training = false → rangeOf (line * 128) = some 1 → s.rows = [] →
      Does s (.wiunoSnoop line excl) fun t => t.mem = s.mem ∧
        (if excl then (∀ e ∈ t.l3, e.line ≠ line) ∧ ∀ x ∈ t.slices, x.line ≠ line
         else (∀ e ∈ t.l3, e.line = line → e.dirty = false) ∧ ∀ x ∈ t.slices, x.line = line → x.dirty = 0))

/-- R199, R200, R204, R210, R212, R213, R214, R217, R316, R318, R343: a touched row that is mapped and unfilled receives its line; a recalled row in D is
written back, its dirty bytes alone, and is unfilled; a sweep leaves only lines in allowed ways; corrected errors are counted; a
containment event halts a partition's clusters and queues its record, and off the paths of lost dirty data changes no memory;
invalidations of both stages leave no translation they name; a line of HBM lies in one pseudo-channel, and the line of Example 10.1 in the
slice, the bank and the pseudo-channel that the example gives. -/
def Obligations.MemoryEvents : Prop :=
  ∀ s : State,
    (∀ (core row : Nat) (x : Nat × Nat) (r : Row), core < 256 → row < 4096 → s.rows = [(core * 4096 + row, r)] → s.toucher (core * 4096 + row) = some x →
      (r.st ≠ .i → exec (.stashFill core row) s = .next s) ∧
      (r.st = .i → (∀ x ∈ s.slices, x.dz = false) → Does s (.stashFill core row) fun t => t.mem = s.mem ∧
        t.stash = Memory.writeN s.stash ((core * 4096 + row) * 128) (Memory.readN s.mem (r.line * 128) 128) ∧
        t.row (core * 4096 + row) = { r with st := .v, dirty := 0 })) ∧
    (∀ (key : Nat) (r : Row), s.rows = [(key, r)] → (∀ g ∈ s.groups, g.ops = []) →
      (r.st = .d → Does s (.rowRecall r.line) fun t => t.stash = s.stash ∧ t.row key = { r with st := .i, dirty := 0 } ∧
        (∀ i, i < 128 → Memory.read t.mem (r.line * 128 + i) =
          if r.dirty.getLsbD i then Memory.read s.stash (key * 128 + i) else Memory.read s.mem (r.line * 128 + i)) ∧
        (∀ a, (a < r.line * 128 ∨ r.line * 128 + 128 ≤ a) → Memory.read t.mem a = Memory.read s.mem a) ∧ ∀ x ∈ t.slices, x.line ≠ r.line) ∧
      (r.st = .v → Does s (.rowRecall r.line) fun t => t.mem = s.mem ∧ t.stash = s.stash ∧ t.row key = { r with st := .i })) ∧
    (∀ leaf slice : Nat, Does s (.sliceSweep leaf slice) fun t => t.mem = s.mem ∧
      ∀ x ∈ t.slices, x ∈ s.slices ∧ (x.leaf = leaf → x.slice = slice → (s.part x.part).force.pway.getLsbD x.way = true)) ∧
    (∀ line n : Nat,
      (s.partMapping (line * 128) = none → exec (.patrolScrub line n) s = .next s) ∧
      (∀ p, s.partMapping (line * 128) = some p → Does s (.patrolScrub line n) fun t => t.mem = s.mem ∧
        (t.part p.num).cecnt = p.cecnt + BitVec.ofNat 64 n)) ∧
    (∀ p pa level path : Nat, p < 12 → s.HasPart p → s.log (s.part p).spineVf = 0 →
      Does s (.containmentEvent p pa level path) fun t => (3 < path → t.mem = s.mem ∧ t.stash = s.stash) ∧
        (∀ c ∈ t.clusters, c.residence = .resident → ((s.part p).vfsOf 65535).contains c.vf = true → c.halting = true) ∧
        ∃ x : RingPost, (t.part p).host.queue = (s.part p).host.queue ++ [x] ∧ x.group = none ∧ x.bytes.take 4 = leBytes 4 (2 ^ 31 + 20 * 2 ^ 11 + 7)) ∧
    (∀ (vf : Nat) (w : Word), vf < 192 → s.HasVf vf → (s.vf vf).tlbi = some w →
      (s.quietVf vf = false → exec (.tlbiComplete vf) s = .next s) ∧
      (s.quietVf vf = true → Does s (.tlbiComplete vf) fun t => (t.vf vf).tlbi = none ∧ t.mem = s.mem ∧
        ∀ e ∈ t.tlb, e ∈ s.tlb ∧ ¬ (e.vf = vf ∧ e.uses w = true))) ∧
    (∀ (p : Nat) (w : Word), p < 12 → s.HasPart p →
      (w.toNat / 4 % 2 ^ 14 ≠ 0 → Does s (.ps2inv p w) fun t => (t.part p).ps2pend = (s.part p).ps2pend ∧ t.mem = s.mem ∧
        (t.part p).cmdst = if (s.part p).cmdst = 1 then 1 else 2) ∧
      (w.toNat / 4 % 2 ^ 14 = 0 → w.getLsbD 1 = false → Does s (.ps2inv p w) fun t => t.mem = s.mem ∧
        (t.part p).ps2pend = some (match (s.part p).ps2pend with | some v => ((v ||| w) &&& 2) ||| 1 | none => w))) ∧
    (∀ (p : Nat) (w : Word), p < 12 → s.HasPart p → (s.part p).ps2pend = some w →
      let vs := (s.part p).vfsOf 65535
      (vs.all s.quietVf = false → exec (.stage2InvalComplete p) s = .next s) ∧
      (vs.all s.quietVf = true → (w.getLsbD 1 = true → s.quietRows vs (s.inPages (s.part p) w) = true) →
        Does s (.stage2InvalComplete p) fun t => (t.part p).ps2pend = none ∧ (w.getLsbD 1 = false → t.mem = s.mem) ∧
          ∀ e ∈ t.tlb, e ∈ s.tlb ∧ e.vf ∉ vs)) ∧
    (∀ pa i : Nat, pa % 128 = 0 → i < 128 → hbmPlace (pa + i) = hbmPlace pa ∧ (hbmPlace pa).stack < 8 ∧ (hbmPlace pa).channel < 32 ∧
      (hbmPlace pa).pseudo < 2) ∧
    (hbmPlace 0x100000080 = { stack := 0, channel := 1, pseudo := 1 } ∧ sliceOf (0x100000080 / 128) = 65 ∧ bankOf (0x100000080 / 128) = 3)

/-- R302, R306, R311, R319, R417, R418, R330: how a pending trap that no handler takes ends. A fatal trap retires the grid of its cluster
and fails the node; a replayable fault queues its record and stops the group at its word; a debug event stops it too, and a breakpoint
at its next word raises one; a group that has reached no checkpoint within 20 µs of a HALT stops where it stands. -/
def Obligations.TrapEvents : Prop :=
  ∀ (s : State) (key : Nat) (g : Group), s.group? key = some g → s.log g.id.vf = 0 →
    let stops (i : Instr) (t : TrapReq) (w : Wait) : Prop := Does s i fun u => u.mem = s.mem ∧ ∃ h, u.group? key = some h ∧ h.wait = w ∧ h.pc = t.pc ∧
      h.regs = g.regs ∧ h.mask = g.mask ∧ h.live = g.live ∧ h.ltime = g.ltime ∧ h.trap = { g.trap with entry := none }
    (∀ t : TrapReq, g.trap.entry = some t → Drained g → s.standing g = true →
      (∀ (c : Cluster) (m : Team), ToFatal s g t → s.attached g.id.vf = false → s.cluster? g.id.cluster = some c → s.team? g.id.team = some m →
        m.cluster = c.key →
        Does s (.fatalTrap key) fun u => u.mem = s.mem ∧ (∃ h, u.group? key = some h ∧ h.live = 0 ∧ h.wait = .ended) ∧
          ∀ x l, s.slot? g.id.vf c.gslot = some x → x.running = some l → l.failure = none →
            ∃ y k, u.slot? g.id.vf c.gslot = some y ∧ y.running = some k ∧ k.failure = some (33, c.node, (t.cause false).toNat)) ∧
      ((t.grp = 6 ∧ (t.code = 1 ∨ t.code = 3 ∨ t.code = 4)) ∨ (t.grp = 7 ∧ 1 ≤ t.code ∧ t.code ≤ 4) →
        let r : RingRef := faultRing s g.id.vf t
        (s.ring r).enabled = true → stops (.replayableFault key) t (.fault r none) ∧
          Does s (.replayableFault key) fun u => (u.ring r).queue = (s.ring r).queue ++
            [{ bytes := recordBytes t true (s.ring r).nextFid g.place g.id.vf t.pc, group := some g.id.key }]) ∧
      (t.grp = 18 → stops (.debugEvent key) t (.debug none))) ∧
    (∀ n, n < 2 → (∀ j, j < n → (nth (0 : Word) g.cmp.ibp j).getLsbD 0 = false) → s.attached g.id.vf = true → g.exempt = false → g.wait = .run →
      g.trap.entry = none → g.live ≠ 0 → s.standing g = true → (nth (0 : Word) g.cmp.ibp n).getLsbD 0 = true → aligned8 (nth (0 : Word) g.cmp.ibp n) = g.pc →
      exec (.debugEvent key) s = .next (s.takeTrap g { mkTrap 18 2 (g.pc.toNat + 2 ^ 64 * n) with pc := g.pc })) ∧
    (∀ c : Cluster, s.cluster? g.id.cluster = some c → c.residence = .resident → c.halting = true → c.atck = true → g.wait = .run →
      g.trap.entry = none →
      (s.ns < c.told + 20000 → exec (.atckTimeout key) s = .next s) ∧
      (c.told + 20000 ≤ s.ns → Does s (.atckTimeout key) fun u => u.group? key = some { g with wait := .stopped } ∧ u.mem = s.mem))

/-- R311 to R314: the oldest record of a ring is written at its head, which advances, and the companion processor is told; a full ring
takes none; a replay command releases the groups it names, and a released group issues its word again. -/
def Obligations.FaultService : Prop :=
  ∀ s : State,
    (∀ (ring : RingRef) (q : RingPost) (rest : List RingPost),
      let x := s.ring ring
      let n := x.base.toNat % 32
      x.queue = q :: rest → x.enabled = true →
      ((x.head - x.tail).toNat = 2 ^ n → exec (.faultRecordPost ring) s = .next s) ∧
      (∀ (s1 : State) (pa : Nat), (x.head - x.tail).toNat ≠ 2 ^ n → (s.setRing ring { x with queue := rest }).ringSlot ring = (.ok (some pa), s1) →
        s1.ring ring = { x with queue := rest } → s1.rows = [] → s1.linkUp = true → s1.log (leNat ((q.bytes.drop 22).take 2)) = 0 →
        Does s (.faultRecordPost ring) fun t => t.mem = Memory.writeN s1.mem pa q.bytes ∧ t.ring ring = { x with queue := rest, head := x.head + 1 } ∧
          t.irqs = s1.irqs ++ [.ring ring] ∧
          ∀ k g r, q.group = some k → s1.group? k = some g → g.wait = .fault r none →
            t.group? k = some { g with wait := .fault r (some (leNat ((q.bytes.drop 4).take 4))) })) ∧
    (∀ (ring : RingRef) (w : Word), (∀ p, ring ≠ .debug p) → (s.ring ring).enabled = true → w.toNat / 2 ^ 32 % 2 ^ 31 = 0 → s.waitingTags ring = [] →
      Does s (.freplay ring w) fun t => t.groups = s.groups ∧ t.mem = s.mem ∧ (t.ring ring).queue = (s.ring ring).queue ∧
        ∀ g ∈ s.groups, ∀ n, g.wait = .fault ring (some n) → (w.getLsbD 63 = true ∨ n = w.toNat % 2 ^ 32) → (t.ring ring).released.contains n = true) ∧
    (∀ (key n : Nat) (g : Group) (r : RingRef), s.group? key = some g → g.wait = .fault r (some n) →
      ((s.ring r).released.contains n = false → exec (.faultReplay key) s = .next s) ∧
      ((s.ring r).released.contains n = true → Does s (.faultReplay key) fun t =>
        t.group? key = some { g with wait := .run, replays := g.replays + 1, again := true } ∧ t.mem = s.mem))

/-- R415, R418 to R420, R432: the debug agent. A token is written and unlocks; a stopped group resumes at its word or at the address set;
the selected item of a stopped group is written; the device-debug token unlocks. -/
def Obligations.DebugAgent : Prop :=
  ∀ s : State,
    (∀ (p : Nat) (w : Word), p < 12 → s.HasPart p →
      (Does s (.dbgtok p w) fun t => (t.part p).dbg.token = some w ∧ (t.part p).dbg.unl = false ∧ t.mem = s.mem) ∧
      ((s.part p).dbg.token = some w → Does s (.dbgunlk p w) fun t => (t.part p).dbg.unl = true ∧ t.mem = s.mem ∧ t.groups = s.groups) ∧
      ((s.part p).dbg.token ≠ some w → (s.part p).dbg.failTimes = [] → Does s (.dbgunlk p w) fun t => (t.part p).dbg.unl = (s.part p).dbg.unl ∧
        (t.part p).dbg.failTimes = [s.ns] ∧ t.mem = s.mem)) ∧
    (∀ (p : Nat) (w : Word) (g : Group), p < 12 → (s.part p).dbg.unl = true → s.log g.id.vf ≠ 1 →
      (s.stoppedGroup (s.part p) (w.toNat % 2 ^ 32) = some g → Does s (.dbgres p w) fun t => t.mem = s.mem ∧
        t.group? g.id.key = some { g with wait := .run, exempt := true, pc := if w.getLsbD 63 then aligned8 g.dbgpc else g.pc }) ∧
      (∀ n, s.stoppedGroup (s.part p) ((s.part p).dbg.sel.toNat / 2 ^ 32) = some g →
        (n < 64 → (s.part p).dbg.sel.toNat % 2 ^ 24 = 0x8000 + n → Does s (.dbgdatWrite p w) fun t =>
          t.group? g.id.key = some (g.setS n w) ∧ t.mem = s.mem) ∧
        (∀ l, l < 32 → n < g.id.claim → n < 768 → (s.part p).dbg.sel.toNat % 2 ^ 24 = 0x20000 + 32 * n + l → Does s (.dbgdatWrite p w) fun t =>
          t.group? g.id.key = some (g.setV n l (w.setWidth 32)) ∧ t.mem = s.mem))) ∧
    (∀ (p : Nat) (w : Word), (s.part p).dbg.unl = false → exec (.dbgres p w) s = .next s ∧ exec (.dbgdatWrite p w) s = .next s) ∧
    (∀ w : Word,
      (w.extractLsb' 8 56 = Config.fusedToken → Does s (.dbgkey w) fun t => t.device.dbgUnlocked = true ∧ t.mem = s.mem) ∧
      (w.extractLsb' 8 56 ≠ Config.fusedToken → s.device.dbgFails = [] → Does s (.dbgkey w) fun t =>
        t.device.dbgUnlocked = s.device.dbgUnlocked ∧ t.device.dbgFails = [s.ns] ∧ t.mem = s.mem))

/-- R160, R164 to R166, R404: a trigger joins the queue of its slot, or is refused with code 1 or 2; a graph image is taken whole or refused with
code 1 or 4; both are discarded while the partition replays; a launch starts with the oldest request, its roots ready and queued, its
other nodes waiting. -/
def Obligations.GraphRequests : Prop :=
  ∀ (s : State) (vf k : Nat) (w : Word), s.HasVf vf → w.toNat % 64 = k →
    let slots := (s.soft vf).toNat / 2 ^ 48 % 2 ^ 7
    let last (t : State) (code : Nat) : Prop := (t.vf vf).gstat = BitVec.ofNat 64 (k + 2 ^ 24 * code)
    let pending : Prop := ∃ x, s.slot? vf k = some x ∧ (x.running.isSome = true ∨ x.queue ≠ [])
    (s.replaying vf = true → exec (.trig vf w) s = .next s ∧ exec (.gload vf w) s = .next s) ∧
    (s.replaying vf = false →
      (slots ≤ k ∨ s.slot? vf k = none → Does s (.trig vf w) fun t => last t 1 ∧ t.mem = s.mem ∧ (t.vf vf).slots = (s.vf vf).slots) ∧
      (∀ x, k < slots → s.slot? vf k = some x →
        (4 ≤ x.queue.length → Does s (.trig vf w) fun t => last t 2 ∧ t.mem = s.mem ∧ t.slot? vf k = some x) ∧
        (x.queue.length < 4 → Does s (.trig vf w) fun t => last t 0 ∧ t.mem = s.mem ∧ t.slot? vf k = some { x with queue := x.queue ++ [w] })) ∧
      (slots ≤ k → Does s (.gload vf w) fun t => last t 1 ∧ t.mem = s.mem ∧ (t.vf vf).slots = (s.vf vf).slots) ∧
      (k < slots → (w.toNat / 64 % 4 ≠ 0 ∨ pending) → Does s (.gload vf w) fun t => last t 4 ∧ t.mem = s.mem ∧ (t.vf vf).slots = (s.vf vf).slots) ∧
      (∀ (s1 s2 : State) (hb bs : List Byte),
        let img := w.toNat / 256 * 256
        let h := wordsOf hb
        let n := (nth (0 : Word) h 0).toNat
        let nodes := (List.range n).map fun i => ((wordsOf bs).drop (32 * i)).take 32
        k < slots → w.toNat / 64 % 4 = 0 → ¬ pending → s.schedRead vf img 256 = (.ok hb, s1) → 0 < n → n < 2 ^ 16 →
        (nth (0 : Word) h 1).toNat % 16 = 0 → (∀ x ∈ h.drop 2, x = 0) → n + s1.nodesHeld vf k ≤ (s.soft vf).toNat / 2 ^ 32 % 2 ^ 16 →
        s1.schedRead vf (img + 256) (256 * n) = (.ok bs, s2) → s2.HasVf vf →
        (graphOk nodes = false → Does s (.gload vf w) fun t => last t 4 ∧ t.mem = s2.mem) ∧
        (graphOk nodes = true → Does s (.gload vf w) fun t => last t 0 ∧ t.mem = s2.mem ∧ ∃ y, t.slot? vf k = some y ∧ y.nodes = nodes ∧
          y.compl = nth 0 h 1 ∧ y.count = 0 ∧ y.queue = [] ∧ y.running = none))) ∧
    (∀ (x : GraphSlot) (r : Word) (rest : List Word), s.slot? vf k = some x → x.running = none → x.queue = r :: rest → r.toNat < 64 →
      (s.vf vf).queues.length = 4 →
      Does s (.launchStart vf k) fun t => t.mem = s.mem ∧ (∃ y l, t.slot? vf k = some y ∧ y.running = some l ∧ y.queue = rest ∧ y.count = x.count + 1 ∧
          y.nodes = x.nodes ∧ l.count = (x.count + 1) % 2 ^ 42 ∧ l.failure = none) ∧
        ∀ (i : Nat) (rcd : List Word), x.nodes[i]? = some rcd →
          (∃ n, t.node? vf k i = some n ∧ n.state = if nodeDeps rcd = 0 then .ready else .waiting) ∧
          (nodeDeps rcd = 0 → ∃ q ∈ nth [] (t.vf vf).queues (nodeClass rcd), q.gslot = k ∧ q.node = i))

/-- R163, R165, R168 to R171, R180, R31: the dispatcher starts a copy node, and places the next cluster of a kernel, whose groups are as a launch
leaves them; event nodes complete on their condition or write; a kernel completes once every cluster has retired; a launch writes its
completion record and frees its slot; a cluster that is over leaves with its teams. -/
def Obligations.NodesAndClusters : Prop :=
  ∀ s : State,
    (∀ h : Head, s.heads 0 = [h] → s.log h.vf = 0 → nodeType h.rcd = 1 → (copyNode h.rcd).ok = true → s.node? h.vf h.item.gslot h.item.node = some h.run →
      Does s .dispatchStep fun t => t.mem = s.mem ∧ t.node? h.vf h.item.gslot h.item.node = some { h.run with
          state := .running, copy := some { todo := List.range (copyNode h.rcd).chunks, running := [], total := (copyNode h.rcd).chunks, parked := none, ready := h.item.time } } ∧
        ∀ q ∈ (t.vf h.vf).queues, ∀ i ∈ q, ¬ (i.gslot = h.item.gslot ∧ i.node = h.item.node)) ∧
    (∀ (h : Head) (r : Rect), s.heads 0 = [h] → s.log h.vf = 0 → nodeType h.rcd = 0 → h.run.state = .running → h.refused (s.det h.vf) = none →
      (s.det h.vf = true ∨ (nth (0 : Word) h.rcd 0).getLsbD 8 = false) → s.clusters = [] → s.rows = [] → (∀ g ∈ s.groups, g.ops = []) →
      s.findRect (s.part h.p.num) h.cls (shapeOf h.rcd) (fun _ => false) = some r →
      s.claimFits (s.part h.p.num) h.vf (shapeOf h.rcd).dirty = true →
      Does s .dispatchStep fun t => t.mem = s.mem ∧ (∃ c, t.clusters = [c] ∧ c.vf = h.vf ∧ c.clustid = h.run.placed ∧ c.residence = .resident ∧
          c.gslot = h.item.gslot ∧ c.node = h.item.node) ∧
        ∃ new : List Group, t.groups = s.groups ++ new ∧ new.length = (r.takes.map fun k => k.slots.length).sum ∧
          ∀ g ∈ new, Fresh g h.rcd ∧ g.id.vf = h.vf ∧ g.id.claim = (shapeOf h.rcd).regs) ∧
    (∀ (vf k idx : Nat) (x : GraphSlot) (n : NodeRun) (p : Partition), s.slot? vf k = some x → s.node? vf k idx = some n → n.state = .running →
      let r := nth [] x.nodes idx
      (s.partOf vf = some p → p.stopped vf (nodeClass r) = false → n.wait = none →
        (∀ s1 bs, nodeType r = 2 → s.schedRead vf (nth (0 : Word) r 6).toNat 8 = (.ok bs, s1) → s1.node? vf k idx = some n →
          (leNat bs < (nth (0 : Word) r 7).toNat → exec (.eventWaitPoll vf k idx) s = .next s1) ∧
          ((nth (0 : Word) r 7).toNat ≤ leNat bs → Does s (.eventWaitPoll vf k idx) fun t => t.mem = s1.mem ∧ t.NodeDone vf k idx)) ∧
        (∀ s1, nodeType r = 3 → s.schedWrite vf (nth (0 : Word) r 6).toNat (leBytes 8 (nth (0 : Word) r 7).toNat) = (.ok (), s1) →
          s1.node? vf k idx = some n → Does s (.eventWaitPoll vf k idx) fun t => t.mem = s1.mem ∧ t.NodeDone vf k idx)) ∧
      (nodeType r = 0 → n.retired ≠ gridOfRec r → exec (.kernelComplete vf k idx) s = .next s) ∧
      (nodeType r = 0 → n.placed = gridOfRec r → n.retired = gridOfRec r → s.slots = [] →
        Does s (.kernelComplete vf k idx) fun t => t.mem = s.mem ∧ t.NodeDone vf k idx)) ∧
    (∀ (vf k : Nat) (x y : GraphSlot) (l : Launch) (s1 : State), s.slot? vf k = some x → x.running = some l → x.pl = 0 → l.waiting = none → l.failure = none →
      l.noRecord = false → (∀ n ∈ l.nodes, n.state = .done) → s.schedWrite vf x.compl.toNat (leBytes 8 l.count ++ leBytes 8 0) = (.ok (), s1) →
      s1.log vf = 0 → s1.slot? vf k = some y →
      Does s (.launchComplete vf k) fun t => t.mem = s1.mem ∧ t.slot? vf k = some { y with running := none, done := y.done + 1 }) ∧
    (∀ (key : Nat) (c : Cluster), s.reap.cluster? key = some c →
      (s.reap.clusterOver c = false → exec (.clusterRetire key) s = .next s.reap) ∧
      (s.reap.clusterOver c = true → Does s (.clusterRetire key) fun t => t.cluster? key = none ∧ ∀ m ∈ t.teams, m.cluster ≠ key))

/-- R265, R269, R270, R273: a copy within global memory moves its bytes, and a command all of whose pieces have performed makes its tag DONE and
goes; a source error makes it DONE with its fault bit; a cancelled command stops with what it has written. -/
def Obligations.CopiesEnd : Prop :=
  ∀ (s : State) (g : Group) (c : CopyCmd), s.cmdOf g.id.key c.tag = some c → s.group? g.id.key = some g → c.tag < 64 →
    (s.copies.find? fun x => x.serial == c.serial) = some c → s.mayMove c = true → s.log c.vf = 0 → Untraced s c.vf →
    let total := c.xlen * c.ycnt * c.zcnt
    let bit : Word := BitVec.ofNat 64 (2 ^ c.tag)
    let done (t : State) (fault : Bool) : Prop := t.group? g.id.key = some { g with
        tagBusy := g.tagBusy &&& ~~~bit, tagDone := g.tagDone ||| bit, tagFlt := if fault then g.tagFlt ||| bit else g.tagFlt } ∧
      ∀ x ∈ t.copies, x ∈ s.copies ∧ x.serial ≠ c.serial
    ((c.isComb = true ∧ s.det c.vf = false) ∨ (c.isComb = false ∧ total ≤ c.done) → ∀ n,
      Does s (.copyComplete g.id.key c.tag n) fun t => done t false ∧ t.mem = s.mem ∧ t.stash = s.stash) ∧
    (c.isComb = false → c.done < total → Does s (.copyComplete g.id.key c.tag 0) fun t => done t true ∧ t.mem = s.mem ∧ t.stash = s.stash) ∧
    (∀ sb db su du, c.isComb = false → c.dst.isStash = false → c.src.isStash = false → c.ycnt = 1 → c.zcnt = 1 → c.done = 0 → 0 < c.xlen →
      s.det c.vf = false → Unshared s → s.linkUp = true → (c.endParts c.src 0 c.xlen ++ c.endParts c.dst 0 c.xlen).all (s.partAffords c) = true →
      let a := c.src.addr.toNat
      let d := c.dst.addr.toNat
      a % 128 + c.xlen ≤ 128 → d % 16 + c.xlen ≤ 16 → (c.pages.find? fun p => p.1 == a / 65536) = some (a / 65536, sb, su) →
      (c.pages.find? fun p => p.1 == d / 65536) = some (d / 65536, db, du) →
      Does s (.copyComplete g.id.key c.tag 1) fun t => done t false ∧ t.stash = s.stash ∧
        t.mem = Memory.writeN s.mem (db + d % 65536) (Memory.readN s.mem (sb + a % 65536) c.xlen)) ∧
    (c.cancelled = false → exec (.copyCancelStop g.id.key c.tag 0) s = .next s) ∧
    (c.cancelled = true → s.det c.vf = false → Does s (.copyCancelStop g.id.key c.tag 0) fun t => done t false ∧ t.mem = s.mem ∧ t.stash = s.stash)

/-- R277 to R280, R332, R385: a free engine takes the next chunk of a copy node's command; a chunk that has performed is counted, and the last one completes the
node; uncorrectable source data fails it with code 32 and a remote refusal with code 35; the budgets of a VF and class are refilled
at every unit, up to 64 KiB, and never at a rate of 0. -/
def Obligations.SpineCopies : Prop :=
  ∀ s : State,
    let node (t : State) (c : SpineCmd) (n : NodeRun) : Prop := t.node? c.vf c.gslot c.node = some n
    let finished (t : State) (c : SpineCmd) : Prop := ∃ n, node t c n ∧ n.state = .done ∧ n.copy = none
    (∀ (e n : Nat) (p : Partition) (c : SpineCmd) (s1 : State) (m : NodeRun), e < 8 →
      (∀ p ∈ s.parts, ∀ c ∈ s.spineCmds p, ∀ r ∈ c.prog.running, r.1 ≠ e) → s.nextChunk = some (p, c, n) → s.moveChunk c n false = .done s1 [] →
      Untraced s1 c.vf → node s1 c m →
      Does s (.spineChunkSelect e) fun t => t.mem = s1.mem ∧
        node t c { m with copy := some { c.prog with todo := c.prog.todo.erase n, running := c.prog.running ++ [(e, n)] } }) ∧
    (∀ (e n : Nat) (c : SpineCmd) (m : NodeRun), e < 8 → s.onEngine e = some (c, n) →
      let rest := c.prog.running.erase (e, n)
      (∀ err, err ≠ 0 → node s c m → Does s (.spineChunkComplete e err) fun t => t.mem = s.mem ∧ node t c { m with copy := none, state := .failed }) ∧
      (∀ s1, s.moveChunk c n true = .done s1 [] → c.rcd.away s1 = false → Untraced s1 c.vf → node s1 c m →
        (c.prog.todo = [] ∧ rest = [] → Does s (.spineChunkComplete e 0) fun t => t.mem = s1.mem ∧ finished t c) ∧
        (¬ (c.prog.todo = [] ∧ rest = []) → Does s (.spineChunkComplete e 0) fun t => t.mem = s1.mem ∧
          node t c { m with copy := some { c.prog with running := rest } }))) ∧
    (∀ (vf k idx n : Nat) (p : Partition) (c : SpineCmd) (m : NodeRun), s.partOf vf = some p →
      ((s.spineCmds p).find? fun c => c.vf == vf && c.gslot == k && c.node == idx) = some c → node s c m →
      (c.prog.running.contains (8, n) = false → ∀ ok, exec (.remoteCopyAck vf k idx n ok) s = .next s) ∧
      (c.prog.running.contains (8, n) = true →
        (Does s (.remoteCopyAck vf k idx n false) fun t => t.mem = s.mem ∧ node t c { m with copy := none, state := .failed }) ∧
        (c.prog.todo = [] → c.prog.running = [(8, n)] → Does s (.remoteCopyAck vf k idx n true) fun t => t.mem = s.mem ∧ finished t c))) ∧
    (∀ vf cls n : Nat, cls < 4 → vf < 192 → Sparse.wf 0 s.spent = true →
      (s.rateOf vf cls = 0 → exec (.budgetRefill vf cls n) s = .next s) ∧
      (s.rateOf vf cls ≠ 0 → Does s (.budgetRefill vf cls n) fun t => t.mem = s.mem ∧ t.groups = s.groups ∧ t.vfs = s.vfs ∧
        (∀ unit, Sparse.get 0 s.spent (budgetKey unit vf cls) ≤ 65536 → t.budget unit vf cls = min 65536 (s.budget unit vf cls + n)) ∧
        ∀ unit v k, v < 256 → k < 4 → v ≠ vf ∨ k ≠ cls → t.budget unit v k = s.budget unit v k))

/-- R327 to R330: a cluster that is told to stop stands once every group of it is at rest, each group as it was but for its latches (R22); it
is spilled whole for an anchor, and goes on where it stands when it may. -/
def Obligations.Preemption : Prop :=
  ∀ (s : State) (key : Nat) (c : Cluster), s.cluster? key = some c →
    (s.reap = s → s.clusterOver c = false → c.residence = .resident → c.halting = true → s.log c.vf = 0 →
      (s.atRest c = false → exec (.preemption key) s = .next s) ∧
      (s.atRest c = true → Does s (.preemption key) fun t => t.mem = s.mem ∧ t.stash = s.stash ∧
        t.cluster? key = some { c with residence := .halted, halting := false, atck := false } ∧
        ∀ k h, s.group? k = some h → ∃ x, t.group? k = some x ∧ SameGroup h x {} ∧ x.pc = h.pc ∧ x.ltime = h.ltime ∧
          (h.id.cluster = key → x.latchA = none ∧ x.latchB = none))) ∧
    (∀ p : Partition, s.partOf c.vf = some p →
      (s.spillable c = false → exec (.spill key) s = .next s) ∧
      (s.spillable c = true → p.log.anchorWait.isSome = true → (∃ t ∈ s.clusterTeams key, ∃ u ∈ t.units, t.out.contains u = false) →
        Does s (.spill key) fun t =>
        (t.cluster? key).map (·.residence) = some .saved ∧ ∀ k, k ≠ key → t.cluster? k = s.cluster? k) ∧
      (p.mayResume c = false → exec (.clusterRestore key) s = .next s) ∧
      (p.mayResume c = true → c.residence = .halted → c.cause ≠ 6 → (s.clusterTeams key) ≠ [] → s.partly c = false →
        exec (.clusterRestore key) s = .next (s.setCluster { c with residence := .resident, cause := 0 })))

/-- R3, R4, R179, R322, R323, R327, R333, R433: the partition's mode word and commands. A reserved mode is ignored, and another mode bit
while clusters are resident; a command during another sets RBUSY and does nothing; a bad layout answers 2, one during an eviction 4, an
APPLY that breaks its rules 5 or 6; APPLY of an empty partition puts the staged registers in force; HALT stops the clusters of the VF
slots it names, RESUME lets them go on, DISCARD ends those that are not saved. -/
def Obligations.PartitionCommands : Prop :=
  ∀ (s : State) (n : Nat) (w : Word), n < 12 → s.HasPart n →
    let p := s.part n
    let m : BitVec 16 := w.extractLsb' 16 16
    let vs := p.vfsOf m.toNat
    let busy (i : Instr) : Prop := exec i s = .next (s.setPart { p with rbusy := true })
    let answers (i : Instr) (code : Nat) : Prop := Does s i fun t => (t.part n).cmdst = code ∧ t.mem = s.mem ∧ t.clusters = s.clusters ∧ t.groups = s.groups
    let legal : Prop := w.toNat / 2 ^ 32 = 0 ∧ w.toNat / 2 ^ 9 % 2 ^ 7 = 0 ∧ m ≠ 0
    -- the mode word
    (w.toNat / 256 ≠ 0 ∨ w.toNat / 2 ^ 6 % 4 = 3 ∨ w.toNat / 4 % 4 = 3 → exec (.pmodeWrite n w) s = .next s) ∧
    (w.toNat < 256 → w.toNat / 2 ^ 6 % 4 ≠ 3 → w.toNat / 4 % 4 ≠ 3 →
      let new : BitVec 32 := if w.getLsbD 0 then w.setWidth 32 &&& ~~~2 else w.setWidth 32
      ((new ^^^ p.mode) &&& ~~~0xC0 ≠ 0 → s.anyResident p = true → exec (.pmodeWrite n w) s = .next s) ∧
      (w.toNat / 4 % 4 ≠ 1 → s.anyResident p = false → Does s (.pmodeWrite n w) fun t => (t.part n).mode = new ∧ t.mem = s.mem)) ∧
    -- one command at a time
    (p.cmdst = 1 → busy (.partitionHalt n w) ∧ busy (.resume n w) ∧ busy (.discard n w) ∧ (7 ≤ s.device.step → busy (.applyCmd n))) ∧
    (p.cmdst ≠ 1 → ¬ legal → answers (.partitionHalt n w) 2 ∧ answers (.resume n w) 2 ∧ answers (.discard n w) 2) ∧
    (p.cmdst ≠ 1 → legal → p.evf &&& m ≠ 0 → answers (.partitionHalt n w) 4 ∧ answers (.resume n w) 4 ∧ answers (.discard n w) 4) ∧
    (p.cmdst ≠ 1 → legal → p.evf &&& m = 0 →
      (Does s (.partitionHalt n w) fun t => (t.part n).held = p.held ||| m ∧ t.mem = s.mem ∧ t.groups = s.groups ∧
        (∀ c ∈ t.clusters, c.residence = .resident → vs.contains c.vf = true → c.halting = true) ∧ (s.clusters = [] → (t.part n).cmdst = 0)) ∧
      (Does s (.resume n w) fun t => (t.part n).held = p.held &&& ~~~m ∧ (t.part n).hlt = p.hlt &&& ~~~m ∧ (t.part n).cmdst = 0 ∧ t.mem = s.mem ∧
        (∀ c ∈ t.clusters, vs.contains c.vf = true → c.halting = false ∧ c.resumable = true) ∧
        ∀ g ∈ t.groups, (∃ c ∈ s.clusters, c.key = g.id.cluster ∧ vs.contains c.vf = true) → g.wait ≠ .stopped) ∧
      (Does s (.discard n w) fun t => (t.part n).cmdst = 0 ∧ t.mem = s.mem ∧
        ∀ c ∈ t.clusters, vs.contains c.vf = true → (c ∈ s.clusters ∧ c.residence = .saved) ∨ (c.residence = .resident ∧ c.halting = false))) ∧
    -- APPLY
    (s.device.step < 7 → exec (.applyCmd n) s = .next s) ∧
    (7 ≤ s.device.step → p.cmdst ≠ 1 →
      (p.evf ≠ 0 → answers (.applyCmd n) 4) ∧
      (p.evf = 0 → s.applyBad n p.stagedRegs = true → answers (.applyCmd n) 5) ∧
      (p.evf = 0 → s.applyBad n p.stagedRegs = false → s.vfInUse n p.stagedRegs = true → answers (.applyCmd n) 6) ∧
      (p.evf = 0 → s.applyBad n p.stagedRegs = false → s.vfInUse n p.stagedRegs = false → s.clusters = [] →
        Does s (.applyCmd n) fun t => (t.part n).force = p.stagedRegs ∧ (t.part n).cmdst = 0 ∧ (t.part n).applying = none))

/-- R338 to R341: posting a deadline, its refusals, the switch of queues that will not complete in time, and the report that ends the
eviction. -/
def Obligations.Evictions : Prop :=
  ∀ (s : State) (n : Nat) (w : Word), n < 12 → s.HasPart n →
    let p := s.part n
    let m : BitVec 16 := w.extractLsb' 48 16
    let soft (t : State) (code : Nat) : Prop := (t.part n).cmdst = if p.cmdst = 1 then 1 else code
    let legal : Prop := m ≠ 0 ∧ m &&& ~~~p.force.validSlots = 0 ∧ w.toNat / 2 ^ 32 % 2 ^ 16 = 0 ∧ w.toNat % 2 ^ 32 ≠ 0
    (¬ legal → Does s (.deadlinePost n w) fun t => soft t 2 ∧ (t.part n).evf = p.evf ∧ t.clusters = s.clusters) ∧
    (legal → p.evf ≠ 0 → Does s (.deadlinePost n w) fun t => soft t 4 ∧ (t.part n).evf = p.evf ∧ t.clusters = s.clusters) ∧
    (legal → p.evf = 0 → Does s (.deadlinePost n w) fun t => soft t 0 ∧ (t.part n).evf = m ∧ (t.part n).stateCode = 3 ∧ t.mem = s.mem ∧
      ∃ e, (t.part n).evict = some e ∧ e.vfm = m ∧ e.t0 = s.ns ∧ e.limit = w.toNat % 2 ^ 32 * 1000 ∧
        ∀ c ∈ t.clusters, c.residence = .resident → (∃ q ∈ e.queues, q.decision = 2 ∧ q.vf = c.vf ∧ q.cls = c.cls) → c.halting = true) ∧
    (p.evict = none → exec (.deadlineSwitch n) s = .next s) ∧
    (∀ e, p.evict = some e →
      let m1 := 20000 * 1280 + s.evictBytes p e.vfm.toNat
      (m1 + s.ns * 1280 < (e.t0 + e.limit) * 1280 → exec (.deadlineSwitch n) s = .next s) ∧
      ((e.t0 + e.limit) * 1280 ≤ m1 + s.ns * 1280 → Does s (.deadlineSwitch n) fun t => t.mem = s.mem ∧ ∃ d, (t.part n).evict = some d ∧
        d.queues.length = e.queues.length ∧ (∀ q ∈ d.queues, q.decision = 1 → ∃ q0 ∈ e.queues, q0.decision = 1 ∧ s.vacantQueue q0 = true) ∧
        ∀ c ∈ t.clusters, c.residence = .resident → (∃ q ∈ d.queues, q.decision = 2 ∧ q.vf = c.vf ∧ q.cls = c.cls) → c.halting = true) ∧
      ((∀ q ∈ e.queues, q.vacantAt.isSome = true) → s.log p.spineVf = 0 → s.rows = [] → s.linkUp = true → Does s (.evictionReport n) fun t =>
        (t.part n).evict = none ∧ (t.part n).evf = 0 ∧ (t.part n).held = p.held ||| e.vfm ∧ t.irqs = s.irqs ++ [.evicted n] ∧
        t.mem = Memory.writeN s.mem (p.pdlrep.toNat / 4096 * 4096) (e.report s.ns)))

/-- R394, R399, R400, R401, R403 to R406, R410, R417: signatures close and open, with the events that a record has no room for; a held record is
written once it fits; anchors are taken and confirmed; a replay is armed, refused, loaded, stopped at its breakpoint, ended and aborted,
and keeps the code and signature of its last divergence; a replay that makes no progress for 10 ms diverges with the code of what it
waits for, and a logged pop that waits as long with code 8. -/
def Obligations.SignaturesAndReplay : Prop :=
  ∀ (s : State) (n : Nat), n < 12 → s.HasPart n →
    let p := s.part n
    let vs := p.vfsOf 65535
    let halts (t : State) : Prop := ∀ c ∈ t.clusters, c.residence = .resident → vs.contains c.vf = true → c.halting = true
    let code (t : State) (x : Nat) : Prop := (t.part n).log.rpstat.toNat % 256 = x
    let keeps (t : State) (x : Nat) : Prop := (t.part n).log.rpstat = (p.log.rpstat &&& ~~~0xFFFF) ||| BitVec.ofNat 64 x
    -- boundaries and records
    (∀ (u : Team) (c : Cluster), s.team? u.key = some u → s.cluster? u.cluster = some c → s.log c.vf = 1 → s.attached c.vf = false →
      u.sig.mark = true → s.settledSig u.key = true →
      Does s (.signatureBoundary u.key) fun t => ∃ v, t.team? u.key = some v ∧ v.sig.sign = u.sig.sign + 1 ∧ v.sig.mark = false ∧
        v.sig.events = (fitEvents (recordLimit - u.fixedWords) u.sig.events).2) ∧
    (∀ (x : LogPost) (r : List LogPost), p.log.pending = x :: r → s.rows = [] → 0 < p.ringSize →
      let at' := p.log.qrhead.toNat % p.ringSize
      at' + x.words.length * 8 ≤ p.ringSize → p.fits x.words.length (usesReserve x.words) = true →
      Does s (.logStall n) fun t => (t.part n).log.pending = r ∧
        (t.part n).log.qrhead = BitVec.ofNat 64 (p.log.qrhead.toNat + x.words.length * 8) ∧
        t.mem = Memory.writeN s.mem (p.ringBase + at') (x.words.flatMap fun w => leBytes 8 w.toNat)) ∧
    -- anchors
    (∀ k, p.cmdst ≠ 1 →
      ((p.mode.extractLsb' 2 2).toNat ≠ 1 ∨ k ≤ p.log.rrstat.toNat / 2 ^ 32 → Does s (.anchor n k) fun t => (t.part n).cmdst = 2 ∧
        t.clusters = s.clusters ∧ t.mem = s.mem) ∧
      ((p.mode.extractLsb' 2 2).toNat = 1 → p.log.rrstat.toNat / 2 ^ 32 < k → k < 2 ^ 32 → p.evf ≠ 0 → Does s (.anchor n k) fun t =>
        (t.part n).cmdst = 4 ∧ t.clusters = s.clusters ∧ t.mem = s.mem) ∧
      ((p.mode.extractLsb' 2 2).toNat = 1 → p.log.rrstat.toNat / 2 ^ 32 < k → k < 2 ^ 32 → p.evf = 0 →
        (∃ c ∈ s.clusters, vs.contains c.vf = true ∧ c.residence = .resident) → (∀ a ∈ p.log.anchors, a.num ≠ k) →
        Does s (.anchor n k) fun t => (t.part n).cmdst = 1 ∧ (t.part n).log.anchorWait = some k ∧ halts t ∧ t.mem = s.mem) ∧
      (∀ off, p.log.anchorAt = some (k, off) → Does s (.anchdone n k) fun t => (t.part n).log.qrold = off ∧ (t.part n).cmdst = 0 ∧
        t.mem = s.mem ∧ t.clusters = s.clusters)) ∧
    -- a replay
    (∀ k, p.cmdst ≠ 1 →
      ((p.mode.extractLsb' 2 2).toNat ≠ 2 → Does s (.replay n k) fun t => (t.part n).log.rpstat = (p.log.rpstat &&& ~~~0xFF00) ||| 0x600 ∧ t.mem = s.mem) ∧
      (s.replayRefused p k = none → Does s (.replay n k) fun t => keeps t 2 ∧ (t.part n).log.loading = some k ∧ t.mem = s.mem) ∧
      ((p.mode.extractLsb' 2 2).toNat = 2 → Does s (.abort n) fun t => keeps t 1 ∧ (t.part n).log.loading = none ∧
        (t.part n).cmdst = 0 ∧ t.mem = s.mem ∧ ∀ c ∈ t.clusters, vs.contains c.vf = true → c.residence = .resident)) ∧
    (∀ (k : Nat) (a : Anchor), p.log.loading = some k → (p.log.anchors.find? fun a => a.num == k) = some a → p.log.rpstat.toNat % 256 = 2 →
      Does s (.replayLoaded n) fun t => keeps t 3 ∧ (t.part n).log.loading = none ∧ t.mem = s.mem ∧ (∀ g ∈ a.groups, g ∈ t.groups) ∧
        ∀ c ∈ a.clusters, { c with resumable := true, cause := 0 } ∈ t.clusters) ∧
    (∀ u, (s.teams.find? fun u => s.atBreak p u) = some u → Does s (.replayBreakpoint n) fun t => code t 3 ∧ (t.part n).log.breaking = true ∧
      (t.part n).log.rpstat.toNat / 2 ^ 32 = u.sig.sign % 2 ^ 32 ∧ halts t ∧ t.mem = s.mem ∧ t.groups = s.groups) ∧
    (p.log.rpstat.toNat % 256 = 3 → p.log.brkTaken = true → p.log.breaking = true →
      ((∃ c ∈ s.clusters, vs.contains c.vf = true ∧ c.residence = .resident) → exec (.replayBreakpoint n) s = .next s) ∧
      ((∀ c ∈ s.clusters, vs.contains c.vf = true → c.residence ≠ .resident) → Does s (.replayBreakpoint n) fun t => keeps t 4 ∧
        t.mem = s.mem ∧ t.groups = s.groups ∧ t.clusters = s.clusters)) ∧
    (p.log.rpstat.toNat % 256 ≠ 3 → exec (.endOfLog n) s = .next s) ∧
    (p.log.rpstat.toNat % 256 = 3 → p.log.spine = [] → p.log.replayStop = 0 →
      (∀ g ∈ s.groups, vs.contains g.id.vf = true → g.wait = .ended ∨ ∃ b, g.wait = .bar b) →
      Does s (.endOfLog n) fun t => keeps t 6 ∧ halts t ∧ t.mem = s.mem ∧ t.groups = s.groups) ∧
    -- a held access, and no progress for 10 ms
    (∀ (key id : Nat) (g : Group) (o : MemOp), key ≠ 0 → s.group? key = some g → s.log g.id.vf = 2 → (g.ops.find? fun x => x.id == id) = some o →
      ∃ t, exec (.replayHoldRelease key id) s = .next t ∧
        (if o.kind.isLoad then exec (.loadDataReturn key id 0) s = .next t else exec (.storePerformed key id 0) s = .next t)) ∧
    (∀ (key : Nat) (g : Group), s.group? key = some g → s.log g.id.vf = 2 → s.partOf g.id.vf = some p →
      let diverges (i : Instr) (x : Nat) : Prop := Does s i fun t => code t 5 ∧ (t.part n).log.rpstat.toNat / 2 ^ 16 % 2 ^ 16 = x ∧ t.mem = s.mem
      let still : Prop := p.log.progressAt + 10000000 ≤ s.ns
      (still → s.holds g = true → diverges (.heldAccessTimeout key) 6) ∧
      (still → ∀ u, s.team? g.id.team = some u → (∃ e ∈ u.sig.events, e.code = 5 ∧ ∀ b ∈ s.bins, b.team = u.key → matchesRfm b e = false) →
        diverges (.rfmTimeout key) 7) ∧
      ((∃ o ∈ g.ops, (∃ c mb, o.kind = .frecv c mb) ∧ (s.logged { g with ltime := o.ltime } 7).isSome = true ∧ o.since + 10000000 ≤ s.ns) → diverges (.arrTimeout key) 8))

/-- R159, R195, R326, R371, R421, R422, R430 to R434: bring-up goes step by step, stops at a step that fails, and zeroes HBM in step 4; LOAD starts the firmware or
stops at step 3; FABRST numbers every stream anew when nothing is in flight; a level-3 alarm erases every partition and halts the part;
power-off loses all; the clock is lowered above the power limit and at 95 °C, and the part powers off at 110 °C; a quadrant samples its
next group; a register write reaches the window of its sender, and any other is an alarm. -/
def Obligations.DeviceEvents : Prop :=
  ∀ s : State,
    let d := s.device
    -- bring-up
    (d.step ≠ 0 → exec .powerGood s = .next s) ∧
    (d.step = 0 → exec .powerGood s = .next { s with device := { d with step := 1, off := false } }) ∧
    (∀ e : Nat, d.err = 0 → 0 < d.step → d.step < 7 → d.step ≠ 3 →
      (e % 256 ≠ 0 → exec (.bringUpStepDone e) s = .next { s with device := { d with err := e % 256 } }) ∧
      (e % 256 = 0 → Does s (.bringUpStepDone e) fun t => t.device.step = d.step + 1 ∧ t.groups = s.groups ∧
        (d.step = 4 → ∀ a, a < 0x8000000000 → Memory.read t.mem a = 0) ∧ (d.step ≠ 4 → t.mem = s.mem) ∧ (d.step = 1 → t.wiuno.up = true) ∧
        (d.step = 2 → t.device.keys = true) ∧ (d.step = 6 → t.fabric.portsUp = List.replicate 128 true))) ∧
    (∀ w : Word, d.err = 0 →
      let a : Word := BitVec.ofNat 64 (w.toNat / 4096 * 4096)
      (d.step ≠ 3 → exec (.load w) s = .next s) ∧
      (d.step = 3 → Config.imageAccepted a = true → Does s (.load w) fun t => t.device = { d with step := 4, loadImg := some a } ∧ t.mem = s.mem) ∧
      (d.step = 3 → Config.imageAccepted a = false → Does s (.load w) fun t => t.device.step = 3 ∧ t.device.err ≠ 0 ∧ t.mem = s.mem)) ∧
    (s.fabricQuiet = true → Does s .fabrst fun t => t.fabric.seqIn = [] ∧ t.fabric.seqOut = [] ∧ t.device.err = (if d.err = 0x40 then 0 else d.err) ∧ t.mem = s.mem) ∧
    (s.fabricQuiet = false → Does s .fabrst fun t => t.fabric = s.fabric ∧ t.device.err = 0x40 ∧ t.mem = s.mem) ∧
    -- alarms, power and cooling
    (∀ i, i = .glitchSensor ∨ i = .fuseSenseCheck → Does s i fun t => t.device.alarms = d.alarms + 1 ∧ 3 ≤ t.device.level ∧ t.device.keys = false ∧
      ∀ n, n < 12 → (t.part n).stateCode = 0 ∧ (s.HasPart n → (t.part n).keyed = false)) ∧
    (Does s .powerOff fun t => t.mem = [] ∧ t.groups = [] ∧ t.clusters = [] ∧ t.device = { Device.reset with off := true } ∧ t.agenda = s.agenda) ∧
    (∀ mw : Nat,
      (s.powerLimit < mw → Does s (.powerWindow mw) fun t => t.device = { d with mhz := max 25 (d.mhz - 25) } ∧ t.mem = s.mem) ∧
      (mw ≤ s.powerLimit → Does s (.powerWindow mw) fun t => (t.device = d ∨ t.device = { d with mhz := min 1500 (d.mhz + 25) }) ∧ t.mem = s.mem)) ∧
    (∀ c : Nat, (c < 95 → exec (.thermalSensor c) s = .next s) ∧
      (95 ≤ c → c < 110 → Does s (.thermalSensor c) fun t => t.device = { d with mhz := max 25 (d.mhz - 25) } ∧ t.mem = s.mem) ∧
      (110 ≤ c → Does s (.thermalSensor c) fun t => t.device.off = true ∧ t.device.step = 0 ∧ t.groups = [])) ∧
    -- sampling
    (∀ (core quad : Nat) (p : Partition) (g : Group) (c : Cluster), (s.parts.find? fun p => coreBit p.force.pcore core) = some p → quad < 4 →
      let k := p.force.smpctl.toNat % 32
      let x := Sparse.get Sampler.idle s.samplers (core * 4 + quad)
      (k = 0 ∨ s.clock / 2 ^ k = x.time / 2 ^ k → exec (.pcSample core quad) s = .next s) ∧
      (k ≠ 0 → s.clock / 2 ^ k ≠ x.time / 2 ^ k → s.groups = [g] → g.id.core = core → g.id.quad = quad → g.id.slot < 16 →
        (p.slotOf g.id.vf).isSome = true → s.cluster? g.id.cluster = some c → c.residence ≠ .saved → s.isOut g = false → Untraced s g.id.vf →
        Does s (.pcSample core quad) fun t => t.groups = s.groups ∧ t.mem = s.mem ∧
          Sparse.get Sampler.idle t.samplers (core * 4 + quad) = { slot := g.id.slot, time := s.clock })) ∧
    -- register windows
    (∀ (pa : Nat) (w : Word), s.linkUp = false → exec (.registerWrite .companion pa w) s = .next s) ∧
    (∀ (n : Nat) (w : Word) (from' : Sender), n < 192 → s.HasVf n → (from' = .companion ∧ s.linkUp = true) ∨ from' = .group n →
      Does s (.registerWrite from' ((0xF00020000 + n) * 0x10000 + 0x18) w) fun t => (t.vf n).stvec = w &&& ~~~6 ∧ t.mem = s.mem ∧ t.groups = s.groups) ∧
    (∀ (v n off : Nat) (w : Word), off < 0x1000 → off % 8 = 0 →
      let refused (base : Nat) : Prop := Does s (.registerWrite (.group v) (base * 0x10000 + off) w) fun t =>
        t.device.alarms = d.alarms + 1 ∧ t.mem = s.mem ∧ t.vfs = s.vfs ∧ t.parts = s.parts ∧ t.groups = s.groups
      refused 0xF00000000 ∧ (n < 12 → refused (0xF00010000 + n)) ∧ (n < 192 → n ≠ v → refused (0xF00020000 + n)))

/-- R431: the attestation link answers each request with its response once what it needs has been negotiated, refuses algorithms other than ECDSA
P-384 with SHA-384 and certificate slots other than 0, and answers ERROR to every request once the package has halted. The response codes are those of
SPDM (log entry 7), the order of negotiation is part of them. -/
def Obligations.Attestation : Prop :=
  ∀ (s : State) (asym hash slot nonce index : Nat), s.linkUp = true →
    let ph := s.device.spdm.phase
    let answers (i : Instr) (phase code : Nat) : Prop := ∃ payload : List Byte, exec i s = .next { s with device := { s.device with spdm := { phase, response := code, payload } } }
    let all : List Instr := [.getVersion, .getCapabilities, .negotiateAlgorithms asym hash, .getDigests, .getCertificate slot, .challenge slot nonce,
      .getMeasurements index]
    (3 ≤ s.device.level → ∀ i ∈ all, answers i ph 0x7F) ∧
    (s.device.level < 3 →
      answers .getVersion 1 0x04 ∧
      (1 ≤ ph → answers .getCapabilities (max 2 ph) 0x61) ∧
      (2 ≤ ph → asym.testBit 7 = true ∧ hash.testBit 1 = true → answers (.negotiateAlgorithms asym hash) 3 0x63) ∧
      (2 ≤ ph → ¬ (asym.testBit 7 = true ∧ hash.testBit 1 = true) → answers (.negotiateAlgorithms asym hash) ph 0x7F) ∧
      (3 ≤ ph → answers .getDigests 3 0x01) ∧
      (3 ≤ ph → answers (.getCertificate slot) (if slot = 0 then 3 else ph) (if slot = 0 then 0x02 else 0x7F)) ∧
      (3 ≤ ph → answers (.challenge slot nonce) (if slot = 0 then 3 else ph) (if slot = 0 then 0x03 else 0x7F)) ∧
      (3 ≤ ph → answers (.getMeasurements index) (if index ≤ 4 ∨ index = 255 then 3 else ph) (if index ≤ 4 ∨ index = 255 then 0x60 else 0x7F)) ∧
      (ph < 1 → ∀ i ∈ all.drop 1, answers i ph 0x7F))


/-- R100, R148, R175, R255, R330, R395, R302, R311, R319, R418: the words and the deliveries of traps that change little beside the group's place each come to their
next state, from conditions on the state alone: `fence` with nothing older outstanding, `yield`, `ckpt`, `sig.mark` with LOG = OFF, `brk` with no
debug agent attached and `halt` at level 2 retire at the following word; a pending fatal trap ends its group, a pending replayable fault
and a pending debug event stop theirs at the faulting word, and a group that reaches no checkpoint within 20 µs stops. R394, R400, R401,
R403 to R406, R410: each event of a log and of a replay takes place. R159, R422, R430, R432 to R434: each event of bring-up, of the
sensors, of power and of the register windows takes place. -/
def Obligations.FormsComplete : Prop :=
  ∀ s : State,
    -- words of a group
    (∀ (g : Group) (i : Instr), Issues s g i → g.ops = [] → g.failed = [] → s.log g.id.vf = 0 → s.attached g.id.vf = false →
      ((∃ o, i = .fence o) ∨ (∃ o, i = .brk o) ∨ (∃ o, i = .yield o ∨ i = .ckpt o ∨ i = .sigMark o ∨ (i = .halt o ∧ g.trap.lvl = 2))) →
      Does s i fun t => t.mem = s.mem ∧ ∃ h, t.group? g.id.key = some h ∧ h.pc = g.pc + 8 ∧ h.ltime = g.ltime + 1 ∧
        (∀ n, h.getS n = g.getS n) ∧ ∀ n l, l < 32 → h.getV n l = g.getV n l) ∧
    (∀ (g : Group) (o : OpA) (c : Cluster), Issues s g (.halt o) → g.ops = [] → g.trap.lvl = 2 → s.cluster? g.id.cluster = some c →
      Does s (.halt o) fun t => ∃ d, t.cluster? g.id.cluster = some d ∧ d.halting = true ∧ d.resumable = false) ∧
    -- deliveries of a trap
    (∀ (key : Nat) (g : Group), s.group? key = some g → s.log g.id.vf = 0 → s.standing g = true → g.ops = [] →
      (∀ t : TrapReq, g.trap.entry = some t →
        (∀ (c : Cluster) (m : Team), ToFatal s g t → s.attached g.id.vf = false → s.cluster? g.id.cluster = some c → s.team? g.id.team = some m →
          m.cluster = c.key → Does s (.fatalTrap key) fun u => ∃ h, u.group? key = some h ∧ h.live = 0 ∧ h.wait = .ended) ∧
        (t.grp = 7 → 1 ≤ t.code ∧ t.code ≤ 4 → (s.ring (faultRing s g.id.vf t)).enabled = true → Does s (.replayableFault key) fun u =>
          ∃ h, u.group? key = some h ∧ h.wait = .fault (faultRing s g.id.vf t) none ∧ h.pc = t.pc) ∧
        (t.grp = 18 → Does s (.debugEvent key) fun u => ∃ h, u.group? key = some h ∧ h.wait = .debug none ∧ h.pc = t.pc)) ∧
      (∀ c : Cluster, g.trap.entry = none → g.wait = .run → s.cluster? g.id.cluster = some c → c.halting = true → c.atck = true →
        c.told + 20000 ≤ s.ns → Does s (.atckTimeout key) fun u => ∃ h, u.group? key = some h ∧ h.wait = .stopped ∧ h.pc = g.pc)) ∧
    -- a log and its replay
    (∀ n : Nat, n < 12 → s.HasPart n →
      let p := s.part n
      let code (t : State) (x : Nat) : Prop := (t.part n).log.rpstat.toNat % 256 = x
      (∀ (u : Team) (c : Cluster), s.team? u.key = some u → s.cluster? u.cluster = some c → s.log c.vf = 1 → s.attached c.vf = false →
        u.sig.mark = true → s.settledSig u.key = true →
        Does s (.signatureBoundary u.key) fun t => ∃ v, t.team? u.key = some v ∧ v.sig.sign = u.sig.sign + 1) ∧
      (∀ x, p.log.pending = [x] → 0 < p.ringSize → p.log.qrhead.toNat % p.ringSize + x.words.length * 8 ≤ p.ringSize →
        p.fits x.words.length (usesReserve x.words) = true → Does s (.logStall n) fun t => (t.part n).log.pending = []) ∧
      (p.cmdst ≠ 1 →
        (∀ k, (p.mode.extractLsb' 2 2).toNat = 1 → p.log.rrstat.toNat / 2 ^ 32 < k → k < 2 ^ 32 → p.evf = 0 → (∀ a ∈ p.log.anchors, a.num ≠ k) →
          (∃ c ∈ s.clusters, (p.vfsOf 65535).contains c.vf = true ∧ c.residence = .resident) →
          Does s (.anchor n k) fun t => (t.part n).log.anchorWait = some k) ∧
        (∀ k off, p.log.anchorAt = some (k, off) → Does s (.anchdone n k) fun t => (t.part n).log.qrold = off) ∧
        (∀ k, s.replayRefused p k = none → Does s (.replay n k) fun t => code t 2) ∧
        ((p.mode.extractLsb' 2 2).toNat = 2 → Does s (.abort n) fun t => code t 1)) ∧
      (∀ k a, p.log.loading = some k → (p.log.anchors.find? fun a => a.num == k) = some a → code s 2 → Does s (.replayLoaded n) fun t => code t 3) ∧
      (∀ u, (s.teams.find? fun u => s.atBreak p u) = some u → Does s (.replayBreakpoint n) fun t => (t.part n).log.breaking = true) ∧
      (code s 3 → p.log.spine = [] → p.log.replayStop = 0 → (∀ g ∈ s.groups, g.wait = .ended) → Does s (.endOfLog n) fun t => code t 6) ∧
      (∀ (key : Nat) (g : Group), s.group? key = some g → s.log g.id.vf = 2 → s.partOf g.id.vf = some p →
        (∀ (id : Nat) (o : MemOp), key ≠ 0 → (g.ops.find? fun x => x.id == id) = some o →
          Does s (.replayHoldRelease key id) fun t => t = s.perform key id 0) ∧
        (p.log.progressAt + 10000000 ≤ s.ns →
          (s.holds g = true → Does s (.heldAccessTimeout key) fun t => code t 5) ∧
          (∀ u, s.team? g.id.team = some u → s.bins = [] → (∃ e ∈ u.sig.events, e.code = 5) → Does s (.rfmTimeout key) fun t => code t 5)) ∧
        ((∃ o ∈ g.ops, (∃ c mb, o.kind = .frecv c mb) ∧ (s.logged { g with ltime := o.ltime } 7).isSome = true ∧ o.since + 10000000 ≤ s.ns) →
          Does s (.arrTimeout key) fun t => code t 5))) ∧
    -- the device
    (s.device.step = 0 → Does s .powerGood fun t => t.device.step = 1) ∧
    (s.device.err = 0 → 0 < s.device.step → s.device.step < 7 → s.device.step ≠ 3 →
      Does s (.bringUpStepDone 0) fun t => t.device.step = s.device.step + 1 ∧ t.device.err = 0) ∧
    (∀ w : Word, s.device.err = 0 → s.device.step = 3 →
      Does s (.load w) fun t => t.device.step = if Config.imageAccepted (BitVec.ofNat 64 (w.toNat / 4096 * 4096)) then 4 else 3) ∧
    (s.fabricQuiet = true → Does s .fabrst fun t => t.fabric.seqIn = [] ∧ t.fabric.seqOut = []) ∧
    (∀ w : Word, w.extractLsb' 8 56 = Config.fusedToken → Does s (.dbgkey w) fun t => t.device.dbgUnlocked = true) ∧
    (∀ i, i = .glitchSensor ∨ i = .fuseSenseCheck → Does s i fun t => 3 ≤ t.device.level ∧ t.device.keys = false) ∧
    (Does s .powerOff fun t => t.mem = [] ∧ t.groups = [] ∧ t.device.step = 0 ∧ t.device.off = true) ∧
    (∀ mw : Nat, s.powerLimit < mw → Does s (.powerWindow mw) fun t => t.device.mhz = max 25 (s.device.mhz - 25)) ∧
    (∀ c : Nat, 95 ≤ c → c < 110 → Does s (.thermalSensor c) fun t => t.device.mhz = max 25 (s.device.mhz - 25)) ∧
    (∀ (n : Nat) (w : Word), n < 192 → s.HasVf n → s.linkUp = true →
      Does s (.registerWrite .companion ((0xF00020000 + n) * 0x10000 + 0x18) w) fun t => (t.vf n).stvec = w &&& ~~~6) ∧
    (∀ (core quad : Nat) (p : Partition) (g : Group), (s.parts.find? fun p => coreBit p.force.pcore core) = some p → quad < 4 →
      let k := p.force.smpctl.toNat % 32
      k ≠ 0 → s.clock / 2 ^ k ≠ (Sparse.get Sampler.idle s.samplers (core * 4 + quad)).time / 2 ^ k → s.groups = [g] → g.id.core = core →
      g.id.quad = quad → g.id.slot < 16 → (p.slotOf g.id.vf).isSome = true → s.isOut g = false → Untraced s g.id.vf →
      Does s (.pcSample core quad) fun t => Sparse.get Sampler.idle t.samplers (core * 4 + quad) = { slot := g.id.slot, time := s.clock })
end

