-- ==== Sys2Proof/Laws/State.lean ====
section
/-! SUPPORT. One lemma for each field an update of the state or of a group leaves alone. -/
namespace Sys2Proof.Machine

-- ## State.setGroup
@[simp] theorem State.setGroup_clock (s : State) (x : Group) : (s.setGroup x).clock = s.clock := rfl
@[simp] theorem State.setGroup_ns (s : State) (x : Group) : (s.setGroup x).ns = s.ns := rfl
@[simp] theorem State.setGroup_frac (s : State) (x : Group) : (s.setGroup x).frac = s.frac := rfl
@[simp] theorem State.setGroup_fresh (s : State) (x : Group) : (s.setGroup x).fresh = s.fresh := rfl
@[simp] theorem State.setGroup_nextKey (s : State) (x : Group) : (s.setGroup x).nextKey = s.nextKey := rfl
@[simp] theorem State.setGroup_agenda (s : State) (x : Group) : (s.setGroup x).agenda = s.agenda := rfl
@[simp] theorem State.setGroup_cur (s : State) (x : Group) : (s.setGroup x).cur = s.cur := rfl
@[simp] theorem State.setGroup_mem (s : State) (x : Group) : (s.setGroup x).mem = s.mem := rfl
@[simp] theorem State.setGroup_stash (s : State) (x : Group) : (s.setGroup x).stash = s.stash := rfl
@[simp] theorem State.setGroup_rows (s : State) (x : Group) : (s.setGroup x).rows = s.rows := rfl
@[simp] theorem State.setGroup_tileVals (s : State) (x : Group) : (s.setGroup x).tileVals = s.tileVals := rfl
@[simp] theorem State.setGroup_tileSteps (s : State) (x : Group) : (s.setGroup x).tileSteps = s.tileSteps := rfl
@[simp] theorem State.setGroup_slices (s : State) (x : Group) : (s.setGroup x).slices = s.slices := rfl
@[simp] theorem State.setGroup_l3 (s : State) (x : Group) : (s.setGroup x).l3 = s.l3 := rfl
@[simp] theorem State.setGroup_dir (s : State) (x : Group) : (s.setGroup x).dir = s.dir := rfl
@[simp] theorem State.setGroup_spent (s : State) (x : Group) : (s.setGroup x).spent = s.spent := rfl
@[simp] theorem State.setGroup_sends (s : State) (x : Group) : (s.setGroup x).sends = s.sends := rfl
@[simp] theorem State.setGroup_tlb (s : State) (x : Group) : (s.setGroup x).tlb = s.tlb := rfl
@[simp] theorem State.setGroup_walks (s : State) (x : Group) : (s.setGroup x).walks = s.walks := rfl
@[simp] theorem State.setGroup_scopes (s : State) (x : Group) : (s.setGroup x).scopes = s.scopes := rfl
@[simp] theorem State.setGroup_orders (s : State) (x : Group) : (s.setGroup x).orders = s.orders := rfl
@[simp] theorem State.setGroup_conflicts (s : State) (x : Group) : (s.setGroup x).conflicts = s.conflicts := rfl
@[simp] theorem State.setGroup_slots (s : State) (x : Group) : (s.setGroup x).slots = s.slots := rfl
@[simp] theorem State.setGroup_locks (s : State) (x : Group) : (s.setGroup x).locks = s.locks := rfl
@[simp] theorem State.setGroup_copies (s : State) (x : Group) : (s.setGroup x).copies = s.copies := rfl
@[simp] theorem State.setGroup_shadows (s : State) (x : Group) : (s.setGroup x).shadows = s.shadows := rfl
@[simp] theorem State.setGroup_teams (s : State) (x : Group) : (s.setGroup x).teams = s.teams := rfl
@[simp] theorem State.setGroup_clusters (s : State) (x : Group) : (s.setGroup x).clusters = s.clusters := rfl
@[simp] theorem State.setGroup_bins (s : State) (x : Group) : (s.setGroup x).bins = s.bins := rfl
@[simp] theorem State.setGroup_vfs (s : State) (x : Group) : (s.setGroup x).vfs = s.vfs := rfl
@[simp] theorem State.setGroup_parts (s : State) (x : Group) : (s.setGroup x).parts = s.parts := rfl
@[simp] theorem State.setGroup_links (s : State) (x : Group) : (s.setGroup x).links = s.links := rfl
@[simp] theorem State.setGroup_window (s : State) (x : Group) : (s.setGroup x).window = s.window := rfl
@[simp] theorem State.setGroup_fabric (s : State) (x : Group) : (s.setGroup x).fabric = s.fabric := rfl
@[simp] theorem State.setGroup_streams (s : State) (x : Group) : (s.setGroup x).streams = s.streams := rfl
@[simp] theorem State.setGroup_wiuno (s : State) (x : Group) : (s.setGroup x).wiuno = s.wiuno := rfl
@[simp] theorem State.setGroup_device (s : State) (x : Group) : (s.setGroup x).device = s.device := rfl
@[simp] theorem State.setGroup_irqs (s : State) (x : Group) : (s.setGroup x).irqs = s.irqs := rfl
@[simp] theorem State.setGroup_trace (s : State) (x : Group) : (s.setGroup x).trace = s.trace := rfl
@[simp] theorem State.setGroup_samplers (s : State) (x : Group) : (s.setGroup x).samplers = s.samplers := rfl
@[simp] theorem State.setGroup_samples (s : State) (x : Group) : (s.setGroup x).samples = s.samples := rfl
-- ## State.dropGroup
@[simp] theorem State.dropGroup_clock (s : State) (k : Nat) : (s.dropGroup k).clock = s.clock := rfl
@[simp] theorem State.dropGroup_ns (s : State) (k : Nat) : (s.dropGroup k).ns = s.ns := rfl
@[simp] theorem State.dropGroup_frac (s : State) (k : Nat) : (s.dropGroup k).frac = s.frac := rfl
@[simp] theorem State.dropGroup_fresh (s : State) (k : Nat) : (s.dropGroup k).fresh = s.fresh := rfl
@[simp] theorem State.dropGroup_nextKey (s : State) (k : Nat) : (s.dropGroup k).nextKey = s.nextKey := rfl
@[simp] theorem State.dropGroup_agenda (s : State) (k : Nat) : (s.dropGroup k).agenda = s.agenda := rfl
@[simp] theorem State.dropGroup_cur (s : State) (k : Nat) : (s.dropGroup k).cur = s.cur := rfl
@[simp] theorem State.dropGroup_mem (s : State) (k : Nat) : (s.dropGroup k).mem = s.mem := rfl
@[simp] theorem State.dropGroup_stash (s : State) (k : Nat) : (s.dropGroup k).stash = s.stash := rfl
@[simp] theorem State.dropGroup_rows (s : State) (k : Nat) : (s.dropGroup k).rows = s.rows := rfl
@[simp] theorem State.dropGroup_tileVals (s : State) (k : Nat) : (s.dropGroup k).tileVals = s.tileVals := rfl
@[simp] theorem State.dropGroup_tileSteps (s : State) (k : Nat) : (s.dropGroup k).tileSteps = s.tileSteps := rfl
@[simp] theorem State.dropGroup_slices (s : State) (k : Nat) : (s.dropGroup k).slices = s.slices := rfl
@[simp] theorem State.dropGroup_l3 (s : State) (k : Nat) : (s.dropGroup k).l3 = s.l3 := rfl
@[simp] theorem State.dropGroup_dir (s : State) (k : Nat) : (s.dropGroup k).dir = s.dir := rfl
@[simp] theorem State.dropGroup_spent (s : State) (k : Nat) : (s.dropGroup k).spent = s.spent := rfl
@[simp] theorem State.dropGroup_sends (s : State) (k : Nat) : (s.dropGroup k).sends = s.sends := rfl
@[simp] theorem State.dropGroup_tlb (s : State) (k : Nat) : (s.dropGroup k).tlb = s.tlb := rfl
@[simp] theorem State.dropGroup_walks (s : State) (k : Nat) : (s.dropGroup k).walks = s.walks := rfl
@[simp] theorem State.dropGroup_scopes (s : State) (k : Nat) : (s.dropGroup k).scopes = s.scopes := rfl
@[simp] theorem State.dropGroup_orders (s : State) (k : Nat) : (s.dropGroup k).orders = s.orders := rfl
@[simp] theorem State.dropGroup_conflicts (s : State) (k : Nat) : (s.dropGroup k).conflicts = s.conflicts := rfl
@[simp] theorem State.dropGroup_slots (s : State) (k : Nat) : (s.dropGroup k).slots = s.slots := rfl
@[simp] theorem State.dropGroup_locks (s : State) (k : Nat) : (s.dropGroup k).locks = s.locks := rfl
@[simp] theorem State.dropGroup_copies (s : State) (k : Nat) : (s.dropGroup k).copies = s.copies := rfl
@[simp] theorem State.dropGroup_teams (s : State) (k : Nat) : (s.dropGroup k).teams = s.teams := rfl
@[simp] theorem State.dropGroup_clusters (s : State) (k : Nat) : (s.dropGroup k).clusters = s.clusters := rfl
@[simp] theorem State.dropGroup_bins (s : State) (k : Nat) : (s.dropGroup k).bins = s.bins := rfl
@[simp] theorem State.dropGroup_vfs (s : State) (k : Nat) : (s.dropGroup k).vfs = s.vfs := rfl
@[simp] theorem State.dropGroup_parts (s : State) (k : Nat) : (s.dropGroup k).parts = s.parts := rfl
@[simp] theorem State.dropGroup_links (s : State) (k : Nat) : (s.dropGroup k).links = s.links := rfl
@[simp] theorem State.dropGroup_window (s : State) (k : Nat) : (s.dropGroup k).window = s.window := rfl
@[simp] theorem State.dropGroup_fabric (s : State) (k : Nat) : (s.dropGroup k).fabric = s.fabric := rfl
@[simp] theorem State.dropGroup_streams (s : State) (k : Nat) : (s.dropGroup k).streams = s.streams := rfl
@[simp] theorem State.dropGroup_wiuno (s : State) (k : Nat) : (s.dropGroup k).wiuno = s.wiuno := rfl
@[simp] theorem State.dropGroup_device (s : State) (k : Nat) : (s.dropGroup k).device = s.device := rfl
@[simp] theorem State.dropGroup_irqs (s : State) (k : Nat) : (s.dropGroup k).irqs = s.irqs := rfl
@[simp] theorem State.dropGroup_trace (s : State) (k : Nat) : (s.dropGroup k).trace = s.trace := rfl
@[simp] theorem State.dropGroup_samplers (s : State) (k : Nat) : (s.dropGroup k).samplers = s.samplers := rfl
@[simp] theorem State.dropGroup_samples (s : State) (k : Nat) : (s.dropGroup k).samples = s.samples := rfl
-- ## State.setTeam
@[simp] theorem State.setTeam_clock (s : State) (x : Team) : (s.setTeam x).clock = s.clock := rfl
@[simp] theorem State.setTeam_ns (s : State) (x : Team) : (s.setTeam x).ns = s.ns := rfl
@[simp] theorem State.setTeam_frac (s : State) (x : Team) : (s.setTeam x).frac = s.frac := rfl
@[simp] theorem State.setTeam_fresh (s : State) (x : Team) : (s.setTeam x).fresh = s.fresh := rfl
@[simp] theorem State.setTeam_nextKey (s : State) (x : Team) : (s.setTeam x).nextKey = s.nextKey := rfl
@[simp] theorem State.setTeam_agenda (s : State) (x : Team) : (s.setTeam x).agenda = s.agenda := rfl
@[simp] theorem State.setTeam_cur (s : State) (x : Team) : (s.setTeam x).cur = s.cur := rfl
@[simp] theorem State.setTeam_mem (s : State) (x : Team) : (s.setTeam x).mem = s.mem := rfl
@[simp] theorem State.setTeam_stash (s : State) (x : Team) : (s.setTeam x).stash = s.stash := rfl
@[simp] theorem State.setTeam_rows (s : State) (x : Team) : (s.setTeam x).rows = s.rows := rfl
@[simp] theorem State.setTeam_tileVals (s : State) (x : Team) : (s.setTeam x).tileVals = s.tileVals := rfl
@[simp] theorem State.setTeam_tileSteps (s : State) (x : Team) : (s.setTeam x).tileSteps = s.tileSteps := rfl
@[simp] theorem State.setTeam_slices (s : State) (x : Team) : (s.setTeam x).slices = s.slices := rfl
@[simp] theorem State.setTeam_l3 (s : State) (x : Team) : (s.setTeam x).l3 = s.l3 := rfl
@[simp] theorem State.setTeam_dir (s : State) (x : Team) : (s.setTeam x).dir = s.dir := rfl
@[simp] theorem State.setTeam_spent (s : State) (x : Team) : (s.setTeam x).spent = s.spent := rfl
@[simp] theorem State.setTeam_sends (s : State) (x : Team) : (s.setTeam x).sends = s.sends := rfl
@[simp] theorem State.setTeam_tlb (s : State) (x : Team) : (s.setTeam x).tlb = s.tlb := rfl
@[simp] theorem State.setTeam_walks (s : State) (x : Team) : (s.setTeam x).walks = s.walks := rfl
@[simp] theorem State.setTeam_scopes (s : State) (x : Team) : (s.setTeam x).scopes = s.scopes := rfl
@[simp] theorem State.setTeam_orders (s : State) (x : Team) : (s.setTeam x).orders = s.orders := rfl
@[simp] theorem State.setTeam_conflicts (s : State) (x : Team) : (s.setTeam x).conflicts = s.conflicts := rfl
@[simp] theorem State.setTeam_slots (s : State) (x : Team) : (s.setTeam x).slots = s.slots := rfl
@[simp] theorem State.setTeam_locks (s : State) (x : Team) : (s.setTeam x).locks = s.locks := rfl
@[simp] theorem State.setTeam_copies (s : State) (x : Team) : (s.setTeam x).copies = s.copies := rfl
@[simp] theorem State.setTeam_groups (s : State) (x : Team) : (s.setTeam x).groups = s.groups := rfl
@[simp] theorem State.setTeam_shadows (s : State) (x : Team) : (s.setTeam x).shadows = s.shadows := rfl
@[simp] theorem State.setTeam_clusters (s : State) (x : Team) : (s.setTeam x).clusters = s.clusters := rfl
@[simp] theorem State.setTeam_bins (s : State) (x : Team) : (s.setTeam x).bins = s.bins := rfl
@[simp] theorem State.setTeam_vfs (s : State) (x : Team) : (s.setTeam x).vfs = s.vfs := rfl
@[simp] theorem State.setTeam_parts (s : State) (x : Team) : (s.setTeam x).parts = s.parts := rfl
@[simp] theorem State.setTeam_links (s : State) (x : Team) : (s.setTeam x).links = s.links := rfl
@[simp] theorem State.setTeam_window (s : State) (x : Team) : (s.setTeam x).window = s.window := rfl
@[simp] theorem State.setTeam_fabric (s : State) (x : Team) : (s.setTeam x).fabric = s.fabric := rfl
@[simp] theorem State.setTeam_streams (s : State) (x : Team) : (s.setTeam x).streams = s.streams := rfl
@[simp] theorem State.setTeam_wiuno (s : State) (x : Team) : (s.setTeam x).wiuno = s.wiuno := rfl
@[simp] theorem State.setTeam_device (s : State) (x : Team) : (s.setTeam x).device = s.device := rfl
@[simp] theorem State.setTeam_irqs (s : State) (x : Team) : (s.setTeam x).irqs = s.irqs := rfl
@[simp] theorem State.setTeam_trace (s : State) (x : Team) : (s.setTeam x).trace = s.trace := rfl
@[simp] theorem State.setTeam_samplers (s : State) (x : Team) : (s.setTeam x).samplers = s.samplers := rfl
@[simp] theorem State.setTeam_samples (s : State) (x : Team) : (s.setTeam x).samples = s.samples := rfl
-- ## State.setCluster
@[simp] theorem State.setCluster_clock (s : State) (x : Cluster) : (s.setCluster x).clock = s.clock := rfl
@[simp] theorem State.setCluster_ns (s : State) (x : Cluster) : (s.setCluster x).ns = s.ns := rfl
@[simp] theorem State.setCluster_frac (s : State) (x : Cluster) : (s.setCluster x).frac = s.frac := rfl
@[simp] theorem State.setCluster_fresh (s : State) (x : Cluster) : (s.setCluster x).fresh = s.fresh := rfl
@[simp] theorem State.setCluster_nextKey (s : State) (x : Cluster) : (s.setCluster x).nextKey = s.nextKey := rfl
@[simp] theorem State.setCluster_agenda (s : State) (x : Cluster) : (s.setCluster x).agenda = s.agenda := rfl
@[simp] theorem State.setCluster_cur (s : State) (x : Cluster) : (s.setCluster x).cur = s.cur := rfl
@[simp] theorem State.setCluster_mem (s : State) (x : Cluster) : (s.setCluster x).mem = s.mem := rfl
@[simp] theorem State.setCluster_stash (s : State) (x : Cluster) : (s.setCluster x).stash = s.stash := rfl
@[simp] theorem State.setCluster_rows (s : State) (x : Cluster) : (s.setCluster x).rows = s.rows := rfl
@[simp] theorem State.setCluster_tileVals (s : State) (x : Cluster) : (s.setCluster x).tileVals = s.tileVals := rfl
@[simp] theorem State.setCluster_tileSteps (s : State) (x : Cluster) : (s.setCluster x).tileSteps = s.tileSteps := rfl
@[simp] theorem State.setCluster_slices (s : State) (x : Cluster) : (s.setCluster x).slices = s.slices := rfl
@[simp] theorem State.setCluster_l3 (s : State) (x : Cluster) : (s.setCluster x).l3 = s.l3 := rfl
@[simp] theorem State.setCluster_dir (s : State) (x : Cluster) : (s.setCluster x).dir = s.dir := rfl
@[simp] theorem State.setCluster_spent (s : State) (x : Cluster) : (s.setCluster x).spent = s.spent := rfl
@[simp] theorem State.setCluster_sends (s : State) (x : Cluster) : (s.setCluster x).sends = s.sends := rfl
@[simp] theorem State.setCluster_tlb (s : State) (x : Cluster) : (s.setCluster x).tlb = s.tlb := rfl
@[simp] theorem State.setCluster_walks (s : State) (x : Cluster) : (s.setCluster x).walks = s.walks := rfl
@[simp] theorem State.setCluster_scopes (s : State) (x : Cluster) : (s.setCluster x).scopes = s.scopes := rfl
@[simp] theorem State.setCluster_orders (s : State) (x : Cluster) : (s.setCluster x).orders = s.orders := rfl
@[simp] theorem State.setCluster_conflicts (s : State) (x : Cluster) : (s.setCluster x).conflicts = s.conflicts := rfl
@[simp] theorem State.setCluster_slots (s : State) (x : Cluster) : (s.setCluster x).slots = s.slots := rfl
@[simp] theorem State.setCluster_locks (s : State) (x : Cluster) : (s.setCluster x).locks = s.locks := rfl
@[simp] theorem State.setCluster_copies (s : State) (x : Cluster) : (s.setCluster x).copies = s.copies := rfl
@[simp] theorem State.setCluster_groups (s : State) (x : Cluster) : (s.setCluster x).groups = s.groups := rfl
@[simp] theorem State.setCluster_shadows (s : State) (x : Cluster) : (s.setCluster x).shadows = s.shadows := rfl
@[simp] theorem State.setCluster_teams (s : State) (x : Cluster) : (s.setCluster x).teams = s.teams := rfl
@[simp] theorem State.setCluster_bins (s : State) (x : Cluster) : (s.setCluster x).bins = s.bins := rfl
@[simp] theorem State.setCluster_vfs (s : State) (x : Cluster) : (s.setCluster x).vfs = s.vfs := rfl
@[simp] theorem State.setCluster_parts (s : State) (x : Cluster) : (s.setCluster x).parts = s.parts := rfl
@[simp] theorem State.setCluster_links (s : State) (x : Cluster) : (s.setCluster x).links = s.links := rfl
@[simp] theorem State.setCluster_window (s : State) (x : Cluster) : (s.setCluster x).window = s.window := rfl
@[simp] theorem State.setCluster_fabric (s : State) (x : Cluster) : (s.setCluster x).fabric = s.fabric := rfl
@[simp] theorem State.setCluster_streams (s : State) (x : Cluster) : (s.setCluster x).streams = s.streams := rfl
@[simp] theorem State.setCluster_wiuno (s : State) (x : Cluster) : (s.setCluster x).wiuno = s.wiuno := rfl
@[simp] theorem State.setCluster_device (s : State) (x : Cluster) : (s.setCluster x).device = s.device := rfl
@[simp] theorem State.setCluster_irqs (s : State) (x : Cluster) : (s.setCluster x).irqs = s.irqs := rfl
@[simp] theorem State.setCluster_trace (s : State) (x : Cluster) : (s.setCluster x).trace = s.trace := rfl
@[simp] theorem State.setCluster_samplers (s : State) (x : Cluster) : (s.setCluster x).samplers = s.samplers := rfl
@[simp] theorem State.setCluster_samples (s : State) (x : Cluster) : (s.setCluster x).samples = s.samples := rfl
-- ## State.setVf
@[simp] theorem State.setVf_clock (s : State) (x : Vf) : (s.setVf x).clock = s.clock := rfl
@[simp] theorem State.setVf_ns (s : State) (x : Vf) : (s.setVf x).ns = s.ns := rfl
@[simp] theorem State.setVf_frac (s : State) (x : Vf) : (s.setVf x).frac = s.frac := rfl
@[simp] theorem State.setVf_fresh (s : State) (x : Vf) : (s.setVf x).fresh = s.fresh := rfl
@[simp] theorem State.setVf_nextKey (s : State) (x : Vf) : (s.setVf x).nextKey = s.nextKey := rfl
@[simp] theorem State.setVf_agenda (s : State) (x : Vf) : (s.setVf x).agenda = s.agenda := rfl
@[simp] theorem State.setVf_cur (s : State) (x : Vf) : (s.setVf x).cur = s.cur := rfl
@[simp] theorem State.setVf_mem (s : State) (x : Vf) : (s.setVf x).mem = s.mem := rfl
@[simp] theorem State.setVf_stash (s : State) (x : Vf) : (s.setVf x).stash = s.stash := rfl
@[simp] theorem State.setVf_rows (s : State) (x : Vf) : (s.setVf x).rows = s.rows := rfl
@[simp] theorem State.setVf_tileVals (s : State) (x : Vf) : (s.setVf x).tileVals = s.tileVals := rfl
@[simp] theorem State.setVf_tileSteps (s : State) (x : Vf) : (s.setVf x).tileSteps = s.tileSteps := rfl
@[simp] theorem State.setVf_slices (s : State) (x : Vf) : (s.setVf x).slices = s.slices := rfl
@[simp] theorem State.setVf_l3 (s : State) (x : Vf) : (s.setVf x).l3 = s.l3 := rfl
@[simp] theorem State.setVf_dir (s : State) (x : Vf) : (s.setVf x).dir = s.dir := rfl
@[simp] theorem State.setVf_spent (s : State) (x : Vf) : (s.setVf x).spent = s.spent := rfl
@[simp] theorem State.setVf_sends (s : State) (x : Vf) : (s.setVf x).sends = s.sends := rfl
@[simp] theorem State.setVf_tlb (s : State) (x : Vf) : (s.setVf x).tlb = s.tlb := rfl
@[simp] theorem State.setVf_walks (s : State) (x : Vf) : (s.setVf x).walks = s.walks := rfl
@[simp] theorem State.setVf_scopes (s : State) (x : Vf) : (s.setVf x).scopes = s.scopes := rfl
@[simp] theorem State.setVf_orders (s : State) (x : Vf) : (s.setVf x).orders = s.orders := rfl
@[simp] theorem State.setVf_conflicts (s : State) (x : Vf) : (s.setVf x).conflicts = s.conflicts := rfl
@[simp] theorem State.setVf_slots (s : State) (x : Vf) : (s.setVf x).slots = s.slots := rfl
@[simp] theorem State.setVf_locks (s : State) (x : Vf) : (s.setVf x).locks = s.locks := rfl
@[simp] theorem State.setVf_copies (s : State) (x : Vf) : (s.setVf x).copies = s.copies := rfl
@[simp] theorem State.setVf_groups (s : State) (x : Vf) : (s.setVf x).groups = s.groups := rfl
@[simp] theorem State.setVf_shadows (s : State) (x : Vf) : (s.setVf x).shadows = s.shadows := rfl
@[simp] theorem State.setVf_teams (s : State) (x : Vf) : (s.setVf x).teams = s.teams := rfl
@[simp] theorem State.setVf_clusters (s : State) (x : Vf) : (s.setVf x).clusters = s.clusters := rfl
@[simp] theorem State.setVf_bins (s : State) (x : Vf) : (s.setVf x).bins = s.bins := rfl
@[simp] theorem State.setVf_parts (s : State) (x : Vf) : (s.setVf x).parts = s.parts := rfl
@[simp] theorem State.setVf_links (s : State) (x : Vf) : (s.setVf x).links = s.links := rfl
@[simp] theorem State.setVf_window (s : State) (x : Vf) : (s.setVf x).window = s.window := rfl
@[simp] theorem State.setVf_fabric (s : State) (x : Vf) : (s.setVf x).fabric = s.fabric := rfl
@[simp] theorem State.setVf_streams (s : State) (x : Vf) : (s.setVf x).streams = s.streams := rfl
@[simp] theorem State.setVf_wiuno (s : State) (x : Vf) : (s.setVf x).wiuno = s.wiuno := rfl
@[simp] theorem State.setVf_device (s : State) (x : Vf) : (s.setVf x).device = s.device := rfl
@[simp] theorem State.setVf_irqs (s : State) (x : Vf) : (s.setVf x).irqs = s.irqs := rfl
@[simp] theorem State.setVf_trace (s : State) (x : Vf) : (s.setVf x).trace = s.trace := rfl
@[simp] theorem State.setVf_samplers (s : State) (x : Vf) : (s.setVf x).samplers = s.samplers := rfl
@[simp] theorem State.setVf_samples (s : State) (x : Vf) : (s.setVf x).samples = s.samples := rfl
-- ## State.setPart
@[simp] theorem State.setPart_clock (s : State) (x : Partition) : (s.setPart x).clock = s.clock := rfl
@[simp] theorem State.setPart_ns (s : State) (x : Partition) : (s.setPart x).ns = s.ns := rfl
@[simp] theorem State.setPart_frac (s : State) (x : Partition) : (s.setPart x).frac = s.frac := rfl
@[simp] theorem State.setPart_fresh (s : State) (x : Partition) : (s.setPart x).fresh = s.fresh := rfl
@[simp] theorem State.setPart_nextKey (s : State) (x : Partition) : (s.setPart x).nextKey = s.nextKey := rfl
@[simp] theorem State.setPart_agenda (s : State) (x : Partition) : (s.setPart x).agenda = s.agenda := rfl
@[simp] theorem State.setPart_cur (s : State) (x : Partition) : (s.setPart x).cur = s.cur := rfl
@[simp] theorem State.setPart_mem (s : State) (x : Partition) : (s.setPart x).mem = s.mem := rfl
@[simp] theorem State.setPart_stash (s : State) (x : Partition) : (s.setPart x).stash = s.stash := rfl
@[simp] theorem State.setPart_rows (s : State) (x : Partition) : (s.setPart x).rows = s.rows := rfl
@[simp] theorem State.setPart_tileVals (s : State) (x : Partition) : (s.setPart x).tileVals = s.tileVals := rfl
@[simp] theorem State.setPart_tileSteps (s : State) (x : Partition) : (s.setPart x).tileSteps = s.tileSteps := rfl
@[simp] theorem State.setPart_slices (s : State) (x : Partition) : (s.setPart x).slices = s.slices := rfl
@[simp] theorem State.setPart_l3 (s : State) (x : Partition) : (s.setPart x).l3 = s.l3 := rfl
@[simp] theorem State.setPart_dir (s : State) (x : Partition) : (s.setPart x).dir = s.dir := rfl
@[simp] theorem State.setPart_spent (s : State) (x : Partition) : (s.setPart x).spent = s.spent := rfl
@[simp] theorem State.setPart_sends (s : State) (x : Partition) : (s.setPart x).sends = s.sends := rfl
@[simp] theorem State.setPart_tlb (s : State) (x : Partition) : (s.setPart x).tlb = s.tlb := rfl
@[simp] theorem State.setPart_walks (s : State) (x : Partition) : (s.setPart x).walks = s.walks := rfl
@[simp] theorem State.setPart_scopes (s : State) (x : Partition) : (s.setPart x).scopes = s.scopes := rfl
@[simp] theorem State.setPart_orders (s : State) (x : Partition) : (s.setPart x).orders = s.orders := rfl
@[simp] theorem State.setPart_conflicts (s : State) (x : Partition) : (s.setPart x).conflicts = s.conflicts := rfl
@[simp] theorem State.setPart_slots (s : State) (x : Partition) : (s.setPart x).slots = s.slots := rfl
@[simp] theorem State.setPart_locks (s : State) (x : Partition) : (s.setPart x).locks = s.locks := rfl
@[simp] theorem State.setPart_copies (s : State) (x : Partition) : (s.setPart x).copies = s.copies := rfl
@[simp] theorem State.setPart_groups (s : State) (x : Partition) : (s.setPart x).groups = s.groups := rfl
@[simp] theorem State.setPart_shadows (s : State) (x : Partition) : (s.setPart x).shadows = s.shadows := rfl
@[simp] theorem State.setPart_teams (s : State) (x : Partition) : (s.setPart x).teams = s.teams := rfl
@[simp] theorem State.setPart_clusters (s : State) (x : Partition) : (s.setPart x).clusters = s.clusters := rfl
@[simp] theorem State.setPart_bins (s : State) (x : Partition) : (s.setPart x).bins = s.bins := rfl
@[simp] theorem State.setPart_vfs (s : State) (x : Partition) : (s.setPart x).vfs = s.vfs := rfl
@[simp] theorem State.setPart_links (s : State) (x : Partition) : (s.setPart x).links = s.links := rfl
@[simp] theorem State.setPart_window (s : State) (x : Partition) : (s.setPart x).window = s.window := rfl
@[simp] theorem State.setPart_fabric (s : State) (x : Partition) : (s.setPart x).fabric = s.fabric := rfl
@[simp] theorem State.setPart_streams (s : State) (x : Partition) : (s.setPart x).streams = s.streams := rfl
@[simp] theorem State.setPart_wiuno (s : State) (x : Partition) : (s.setPart x).wiuno = s.wiuno := rfl
@[simp] theorem State.setPart_device (s : State) (x : Partition) : (s.setPart x).device = s.device := rfl
@[simp] theorem State.setPart_irqs (s : State) (x : Partition) : (s.setPart x).irqs = s.irqs := rfl
@[simp] theorem State.setPart_trace (s : State) (x : Partition) : (s.setPart x).trace = s.trace := rfl
@[simp] theorem State.setPart_samplers (s : State) (x : Partition) : (s.setPart x).samplers = s.samplers := rfl
@[simp] theorem State.setPart_samples (s : State) (x : Partition) : (s.setPart x).samples = s.samples := rfl
-- ## State.tick
@[simp] theorem State.tick_fresh (s : State) : (s.tick).fresh = s.fresh := rfl
@[simp] theorem State.tick_nextKey (s : State) : (s.tick).nextKey = s.nextKey := rfl
@[simp] theorem State.tick_agenda (s : State) : (s.tick).agenda = s.agenda := rfl
@[simp] theorem State.tick_cur (s : State) : (s.tick).cur = s.cur := rfl
@[simp] theorem State.tick_mem (s : State) : (s.tick).mem = s.mem := rfl
@[simp] theorem State.tick_stash (s : State) : (s.tick).stash = s.stash := rfl
@[simp] theorem State.tick_rows (s : State) : (s.tick).rows = s.rows := rfl
@[simp] theorem State.tick_tileVals (s : State) : (s.tick).tileVals = s.tileVals := rfl
@[simp] theorem State.tick_tileSteps (s : State) : (s.tick).tileSteps = s.tileSteps := rfl
@[simp] theorem State.tick_slices (s : State) : (s.tick).slices = s.slices := rfl
@[simp] theorem State.tick_l3 (s : State) : (s.tick).l3 = s.l3 := rfl
@[simp] theorem State.tick_dir (s : State) : (s.tick).dir = s.dir := rfl
@[simp] theorem State.tick_spent (s : State) : (s.tick).spent = s.spent := rfl
@[simp] theorem State.tick_sends (s : State) : (s.tick).sends = s.sends := rfl
@[simp] theorem State.tick_tlb (s : State) : (s.tick).tlb = s.tlb := rfl
@[simp] theorem State.tick_walks (s : State) : (s.tick).walks = s.walks := rfl
@[simp] theorem State.tick_scopes (s : State) : (s.tick).scopes = s.scopes := rfl
@[simp] theorem State.tick_orders (s : State) : (s.tick).orders = s.orders := rfl
@[simp] theorem State.tick_conflicts (s : State) : (s.tick).conflicts = s.conflicts := rfl
@[simp] theorem State.tick_slots (s : State) : (s.tick).slots = s.slots := rfl
@[simp] theorem State.tick_locks (s : State) : (s.tick).locks = s.locks := rfl
@[simp] theorem State.tick_copies (s : State) : (s.tick).copies = s.copies := rfl
@[simp] theorem State.tick_groups (s : State) : (s.tick).groups = s.groups := rfl
@[simp] theorem State.tick_shadows (s : State) : (s.tick).shadows = s.shadows := rfl
@[simp] theorem State.tick_teams (s : State) : (s.tick).teams = s.teams := rfl
@[simp] theorem State.tick_clusters (s : State) : (s.tick).clusters = s.clusters := rfl
@[simp] theorem State.tick_bins (s : State) : (s.tick).bins = s.bins := rfl
@[simp] theorem State.tick_vfs (s : State) : (s.tick).vfs = s.vfs := rfl
@[simp] theorem State.tick_parts (s : State) : (s.tick).parts = s.parts := rfl
@[simp] theorem State.tick_links (s : State) : (s.tick).links = s.links := rfl
@[simp] theorem State.tick_window (s : State) : (s.tick).window = s.window := rfl
@[simp] theorem State.tick_fabric (s : State) : (s.tick).fabric = s.fabric := rfl
@[simp] theorem State.tick_streams (s : State) : (s.tick).streams = s.streams := rfl
@[simp] theorem State.tick_wiuno (s : State) : (s.tick).wiuno = s.wiuno := rfl
@[simp] theorem State.tick_device (s : State) : (s.tick).device = s.device := rfl
@[simp] theorem State.tick_irqs (s : State) : (s.tick).irqs = s.irqs := rfl
@[simp] theorem State.tick_trace (s : State) : (s.tick).trace = s.trace := rfl
@[simp] theorem State.tick_samplers (s : State) : (s.tick).samplers = s.samplers := rfl
@[simp] theorem State.tick_samples (s : State) : (s.tick).samples = s.samples := rfl
-- ## State.setRow
@[simp] theorem State.setRow_clock (s : State) (k : Nat) (x : Row) : (s.setRow k x).clock = s.clock := rfl
@[simp] theorem State.setRow_ns (s : State) (k : Nat) (x : Row) : (s.setRow k x).ns = s.ns := rfl
@[simp] theorem State.setRow_frac (s : State) (k : Nat) (x : Row) : (s.setRow k x).frac = s.frac := rfl
@[simp] theorem State.setRow_fresh (s : State) (k : Nat) (x : Row) : (s.setRow k x).fresh = s.fresh := rfl
@[simp] theorem State.setRow_nextKey (s : State) (k : Nat) (x : Row) : (s.setRow k x).nextKey = s.nextKey := rfl
@[simp] theorem State.setRow_agenda (s : State) (k : Nat) (x : Row) : (s.setRow k x).agenda = s.agenda := rfl
@[simp] theorem State.setRow_cur (s : State) (k : Nat) (x : Row) : (s.setRow k x).cur = s.cur := rfl
@[simp] theorem State.setRow_mem (s : State) (k : Nat) (x : Row) : (s.setRow k x).mem = s.mem := rfl
@[simp] theorem State.setRow_stash (s : State) (k : Nat) (x : Row) : (s.setRow k x).stash = s.stash := rfl
@[simp] theorem State.setRow_tileVals (s : State) (k : Nat) (x : Row) : (s.setRow k x).tileVals = s.tileVals := rfl
@[simp] theorem State.setRow_tileSteps (s : State) (k : Nat) (x : Row) : (s.setRow k x).tileSteps = s.tileSteps := rfl
@[simp] theorem State.setRow_slices (s : State) (k : Nat) (x : Row) : (s.setRow k x).slices = s.slices := rfl
@[simp] theorem State.setRow_l3 (s : State) (k : Nat) (x : Row) : (s.setRow k x).l3 = s.l3 := rfl
@[simp] theorem State.setRow_dir (s : State) (k : Nat) (x : Row) : (s.setRow k x).dir = s.dir := rfl
@[simp] theorem State.setRow_spent (s : State) (k : Nat) (x : Row) : (s.setRow k x).spent = s.spent := rfl
@[simp] theorem State.setRow_sends (s : State) (k : Nat) (x : Row) : (s.setRow k x).sends = s.sends := rfl
@[simp] theorem State.setRow_tlb (s : State) (k : Nat) (x : Row) : (s.setRow k x).tlb = s.tlb := rfl
@[simp] theorem State.setRow_walks (s : State) (k : Nat) (x : Row) : (s.setRow k x).walks = s.walks := rfl
@[simp] theorem State.setRow_scopes (s : State) (k : Nat) (x : Row) : (s.setRow k x).scopes = s.scopes := rfl
@[simp] theorem State.setRow_orders (s : State) (k : Nat) (x : Row) : (s.setRow k x).orders = s.orders := rfl
@[simp] theorem State.setRow_conflicts (s : State) (k : Nat) (x : Row) : (s.setRow k x).conflicts = s.conflicts := rfl
@[simp] theorem State.setRow_slots (s : State) (k : Nat) (x : Row) : (s.setRow k x).slots = s.slots := rfl
@[simp] theorem State.setRow_locks (s : State) (k : Nat) (x : Row) : (s.setRow k x).locks = s.locks := rfl
@[simp] theorem State.setRow_copies (s : State) (k : Nat) (x : Row) : (s.setRow k x).copies = s.copies := rfl
@[simp] theorem State.setRow_groups (s : State) (k : Nat) (x : Row) : (s.setRow k x).groups = s.groups := rfl
@[simp] theorem State.setRow_shadows (s : State) (k : Nat) (x : Row) : (s.setRow k x).shadows = s.shadows := rfl
@[simp] theorem State.setRow_teams (s : State) (k : Nat) (x : Row) : (s.setRow k x).teams = s.teams := rfl
@[simp] theorem State.setRow_clusters (s : State) (k : Nat) (x : Row) : (s.setRow k x).clusters = s.clusters := rfl
@[simp] theorem State.setRow_bins (s : State) (k : Nat) (x : Row) : (s.setRow k x).bins = s.bins := rfl
@[simp] theorem State.setRow_vfs (s : State) (k : Nat) (x : Row) : (s.setRow k x).vfs = s.vfs := rfl
@[simp] theorem State.setRow_parts (s : State) (k : Nat) (x : Row) : (s.setRow k x).parts = s.parts := rfl
@[simp] theorem State.setRow_links (s : State) (k : Nat) (x : Row) : (s.setRow k x).links = s.links := rfl
@[simp] theorem State.setRow_window (s : State) (k : Nat) (x : Row) : (s.setRow k x).window = s.window := rfl
@[simp] theorem State.setRow_fabric (s : State) (k : Nat) (x : Row) : (s.setRow k x).fabric = s.fabric := rfl
@[simp] theorem State.setRow_streams (s : State) (k : Nat) (x : Row) : (s.setRow k x).streams = s.streams := rfl
@[simp] theorem State.setRow_wiuno (s : State) (k : Nat) (x : Row) : (s.setRow k x).wiuno = s.wiuno := rfl
@[simp] theorem State.setRow_device (s : State) (k : Nat) (x : Row) : (s.setRow k x).device = s.device := rfl
@[simp] theorem State.setRow_irqs (s : State) (k : Nat) (x : Row) : (s.setRow k x).irqs = s.irqs := rfl
@[simp] theorem State.setRow_trace (s : State) (k : Nat) (x : Row) : (s.setRow k x).trace = s.trace := rfl
@[simp] theorem State.setRow_samplers (s : State) (k : Nat) (x : Row) : (s.setRow k x).samplers = s.samplers := rfl
@[simp] theorem State.setRow_samples (s : State) (k : Nat) (x : Row) : (s.setRow k x).samples = s.samples := rfl
-- ## State.setCmd
@[simp] theorem State.setCmd_clock (s : State) (x : CopyCmd) : (s.setCmd x).clock = s.clock := rfl
@[simp] theorem State.setCmd_ns (s : State) (x : CopyCmd) : (s.setCmd x).ns = s.ns := rfl
@[simp] theorem State.setCmd_frac (s : State) (x : CopyCmd) : (s.setCmd x).frac = s.frac := rfl
@[simp] theorem State.setCmd_fresh (s : State) (x : CopyCmd) : (s.setCmd x).fresh = s.fresh := rfl
@[simp] theorem State.setCmd_nextKey (s : State) (x : CopyCmd) : (s.setCmd x).nextKey = s.nextKey := rfl
@[simp] theorem State.setCmd_agenda (s : State) (x : CopyCmd) : (s.setCmd x).agenda = s.agenda := rfl
@[simp] theorem State.setCmd_cur (s : State) (x : CopyCmd) : (s.setCmd x).cur = s.cur := rfl
@[simp] theorem State.setCmd_mem (s : State) (x : CopyCmd) : (s.setCmd x).mem = s.mem := rfl
@[simp] theorem State.setCmd_stash (s : State) (x : CopyCmd) : (s.setCmd x).stash = s.stash := rfl
@[simp] theorem State.setCmd_rows (s : State) (x : CopyCmd) : (s.setCmd x).rows = s.rows := rfl
@[simp] theorem State.setCmd_tileVals (s : State) (x : CopyCmd) : (s.setCmd x).tileVals = s.tileVals := rfl
@[simp] theorem State.setCmd_tileSteps (s : State) (x : CopyCmd) : (s.setCmd x).tileSteps = s.tileSteps := rfl
@[simp] theorem State.setCmd_slices (s : State) (x : CopyCmd) : (s.setCmd x).slices = s.slices := rfl
@[simp] theorem State.setCmd_l3 (s : State) (x : CopyCmd) : (s.setCmd x).l3 = s.l3 := rfl
@[simp] theorem State.setCmd_dir (s : State) (x : CopyCmd) : (s.setCmd x).dir = s.dir := rfl
@[simp] theorem State.setCmd_spent (s : State) (x : CopyCmd) : (s.setCmd x).spent = s.spent := rfl
@[simp] theorem State.setCmd_sends (s : State) (x : CopyCmd) : (s.setCmd x).sends = s.sends := rfl
@[simp] theorem State.setCmd_tlb (s : State) (x : CopyCmd) : (s.setCmd x).tlb = s.tlb := rfl
@[simp] theorem State.setCmd_walks (s : State) (x : CopyCmd) : (s.setCmd x).walks = s.walks := rfl
@[simp] theorem State.setCmd_scopes (s : State) (x : CopyCmd) : (s.setCmd x).scopes = s.scopes := rfl
@[simp] theorem State.setCmd_orders (s : State) (x : CopyCmd) : (s.setCmd x).orders = s.orders := rfl
@[simp] theorem State.setCmd_conflicts (s : State) (x : CopyCmd) : (s.setCmd x).conflicts = s.conflicts := rfl
@[simp] theorem State.setCmd_slots (s : State) (x : CopyCmd) : (s.setCmd x).slots = s.slots := rfl
@[simp] theorem State.setCmd_locks (s : State) (x : CopyCmd) : (s.setCmd x).locks = s.locks := rfl
@[simp] theorem State.setCmd_groups (s : State) (x : CopyCmd) : (s.setCmd x).groups = s.groups := rfl
@[simp] theorem State.setCmd_shadows (s : State) (x : CopyCmd) : (s.setCmd x).shadows = s.shadows := rfl
@[simp] theorem State.setCmd_teams (s : State) (x : CopyCmd) : (s.setCmd x).teams = s.teams := rfl
@[simp] theorem State.setCmd_clusters (s : State) (x : CopyCmd) : (s.setCmd x).clusters = s.clusters := rfl
@[simp] theorem State.setCmd_bins (s : State) (x : CopyCmd) : (s.setCmd x).bins = s.bins := rfl
@[simp] theorem State.setCmd_vfs (s : State) (x : CopyCmd) : (s.setCmd x).vfs = s.vfs := rfl
@[simp] theorem State.setCmd_parts (s : State) (x : CopyCmd) : (s.setCmd x).parts = s.parts := rfl
@[simp] theorem State.setCmd_links (s : State) (x : CopyCmd) : (s.setCmd x).links = s.links := rfl
@[simp] theorem State.setCmd_window (s : State) (x : CopyCmd) : (s.setCmd x).window = s.window := rfl
@[simp] theorem State.setCmd_fabric (s : State) (x : CopyCmd) : (s.setCmd x).fabric = s.fabric := rfl
@[simp] theorem State.setCmd_streams (s : State) (x : CopyCmd) : (s.setCmd x).streams = s.streams := rfl
@[simp] theorem State.setCmd_wiuno (s : State) (x : CopyCmd) : (s.setCmd x).wiuno = s.wiuno := rfl
@[simp] theorem State.setCmd_device (s : State) (x : CopyCmd) : (s.setCmd x).device = s.device := rfl
@[simp] theorem State.setCmd_irqs (s : State) (x : CopyCmd) : (s.setCmd x).irqs = s.irqs := rfl
@[simp] theorem State.setCmd_trace (s : State) (x : CopyCmd) : (s.setCmd x).trace = s.trace := rfl
@[simp] theorem State.setCmd_samplers (s : State) (x : CopyCmd) : (s.setCmd x).samplers = s.samplers := rfl
@[simp] theorem State.setCmd_samples (s : State) (x : CopyCmd) : (s.setCmd x).samples = s.samples := rfl
-- ## State.setBin
@[simp] theorem State.setBin_clock (s : State) (x : Bin) : (s.setBin x).clock = s.clock := rfl
@[simp] theorem State.setBin_ns (s : State) (x : Bin) : (s.setBin x).ns = s.ns := rfl
@[simp] theorem State.setBin_frac (s : State) (x : Bin) : (s.setBin x).frac = s.frac := rfl
@[simp] theorem State.setBin_fresh (s : State) (x : Bin) : (s.setBin x).fresh = s.fresh := rfl
@[simp] theorem State.setBin_nextKey (s : State) (x : Bin) : (s.setBin x).nextKey = s.nextKey := rfl
@[simp] theorem State.setBin_agenda (s : State) (x : Bin) : (s.setBin x).agenda = s.agenda := rfl
@[simp] theorem State.setBin_cur (s : State) (x : Bin) : (s.setBin x).cur = s.cur := rfl
@[simp] theorem State.setBin_mem (s : State) (x : Bin) : (s.setBin x).mem = s.mem := rfl
@[simp] theorem State.setBin_stash (s : State) (x : Bin) : (s.setBin x).stash = s.stash := rfl
@[simp] theorem State.setBin_rows (s : State) (x : Bin) : (s.setBin x).rows = s.rows := rfl
@[simp] theorem State.setBin_tileVals (s : State) (x : Bin) : (s.setBin x).tileVals = s.tileVals := rfl
@[simp] theorem State.setBin_tileSteps (s : State) (x : Bin) : (s.setBin x).tileSteps = s.tileSteps := rfl
@[simp] theorem State.setBin_slices (s : State) (x : Bin) : (s.setBin x).slices = s.slices := rfl
@[simp] theorem State.setBin_l3 (s : State) (x : Bin) : (s.setBin x).l3 = s.l3 := rfl
@[simp] theorem State.setBin_dir (s : State) (x : Bin) : (s.setBin x).dir = s.dir := rfl
@[simp] theorem State.setBin_spent (s : State) (x : Bin) : (s.setBin x).spent = s.spent := rfl
@[simp] theorem State.setBin_sends (s : State) (x : Bin) : (s.setBin x).sends = s.sends := rfl
@[simp] theorem State.setBin_tlb (s : State) (x : Bin) : (s.setBin x).tlb = s.tlb := rfl
@[simp] theorem State.setBin_walks (s : State) (x : Bin) : (s.setBin x).walks = s.walks := rfl
@[simp] theorem State.setBin_scopes (s : State) (x : Bin) : (s.setBin x).scopes = s.scopes := rfl
@[simp] theorem State.setBin_orders (s : State) (x : Bin) : (s.setBin x).orders = s.orders := rfl
@[simp] theorem State.setBin_conflicts (s : State) (x : Bin) : (s.setBin x).conflicts = s.conflicts := rfl
@[simp] theorem State.setBin_slots (s : State) (x : Bin) : (s.setBin x).slots = s.slots := rfl
@[simp] theorem State.setBin_locks (s : State) (x : Bin) : (s.setBin x).locks = s.locks := rfl
@[simp] theorem State.setBin_copies (s : State) (x : Bin) : (s.setBin x).copies = s.copies := rfl
@[simp] theorem State.setBin_groups (s : State) (x : Bin) : (s.setBin x).groups = s.groups := rfl
@[simp] theorem State.setBin_shadows (s : State) (x : Bin) : (s.setBin x).shadows = s.shadows := rfl
@[simp] theorem State.setBin_teams (s : State) (x : Bin) : (s.setBin x).teams = s.teams := rfl
@[simp] theorem State.setBin_clusters (s : State) (x : Bin) : (s.setBin x).clusters = s.clusters := rfl
@[simp] theorem State.setBin_vfs (s : State) (x : Bin) : (s.setBin x).vfs = s.vfs := rfl
@[simp] theorem State.setBin_parts (s : State) (x : Bin) : (s.setBin x).parts = s.parts := rfl
@[simp] theorem State.setBin_links (s : State) (x : Bin) : (s.setBin x).links = s.links := rfl
@[simp] theorem State.setBin_window (s : State) (x : Bin) : (s.setBin x).window = s.window := rfl
@[simp] theorem State.setBin_fabric (s : State) (x : Bin) : (s.setBin x).fabric = s.fabric := rfl
@[simp] theorem State.setBin_streams (s : State) (x : Bin) : (s.setBin x).streams = s.streams := rfl
@[simp] theorem State.setBin_wiuno (s : State) (x : Bin) : (s.setBin x).wiuno = s.wiuno := rfl
@[simp] theorem State.setBin_device (s : State) (x : Bin) : (s.setBin x).device = s.device := rfl
@[simp] theorem State.setBin_irqs (s : State) (x : Bin) : (s.setBin x).irqs = s.irqs := rfl
@[simp] theorem State.setBin_trace (s : State) (x : Bin) : (s.setBin x).trace = s.trace := rfl
@[simp] theorem State.setBin_samplers (s : State) (x : Bin) : (s.setBin x).samplers = s.samplers := rfl
@[simp] theorem State.setBin_samples (s : State) (x : Bin) : (s.setBin x).samples = s.samples := rfl
-- ## State.free
@[simp] theorem State.free_clock (s : State) : s.free.2.clock = s.clock := rfl
@[simp] theorem State.free_ns (s : State) : s.free.2.ns = s.ns := rfl
@[simp] theorem State.free_frac (s : State) : s.free.2.frac = s.frac := rfl
@[simp] theorem State.free_fresh (s : State) : s.free.2.fresh = s.fresh + 1 := rfl
@[simp] theorem State.free_nextKey (s : State) : s.free.2.nextKey = s.nextKey := rfl
@[simp] theorem State.free_agenda (s : State) : s.free.2.agenda = s.agenda := rfl
@[simp] theorem State.free_cur (s : State) : s.free.2.cur = s.cur := rfl
@[simp] theorem State.free_mem (s : State) : s.free.2.mem = s.mem := rfl
@[simp] theorem State.free_stash (s : State) : s.free.2.stash = s.stash := rfl
@[simp] theorem State.free_rows (s : State) : s.free.2.rows = s.rows := rfl
@[simp] theorem State.free_tileVals (s : State) : s.free.2.tileVals = s.tileVals := rfl
@[simp] theorem State.free_tileSteps (s : State) : s.free.2.tileSteps = s.tileSteps := rfl
@[simp] theorem State.free_slices (s : State) : s.free.2.slices = s.slices := rfl
@[simp] theorem State.free_l3 (s : State) : s.free.2.l3 = s.l3 := rfl
@[simp] theorem State.free_dir (s : State) : s.free.2.dir = s.dir := rfl
@[simp] theorem State.free_spent (s : State) : s.free.2.spent = s.spent := rfl
@[simp] theorem State.free_sends (s : State) : s.free.2.sends = s.sends := rfl
@[simp] theorem State.free_tlb (s : State) : s.free.2.tlb = s.tlb := rfl
@[simp] theorem State.free_walks (s : State) : s.free.2.walks = s.walks := rfl
@[simp] theorem State.free_scopes (s : State) : s.free.2.scopes = s.scopes := rfl
@[simp] theorem State.free_orders (s : State) : s.free.2.orders = s.orders := rfl
@[simp] theorem State.free_conflicts (s : State) : s.free.2.conflicts = s.conflicts := rfl
@[simp] theorem State.free_slots (s : State) : s.free.2.slots = s.slots := rfl
@[simp] theorem State.free_locks (s : State) : s.free.2.locks = s.locks := rfl
@[simp] theorem State.free_copies (s : State) : s.free.2.copies = s.copies := rfl
@[simp] theorem State.free_groups (s : State) : s.free.2.groups = s.groups := rfl
@[simp] theorem State.free_shadows (s : State) : s.free.2.shadows = s.shadows := rfl
@[simp] theorem State.free_teams (s : State) : s.free.2.teams = s.teams := rfl
@[simp] theorem State.free_clusters (s : State) : s.free.2.clusters = s.clusters := rfl
@[simp] theorem State.free_bins (s : State) : s.free.2.bins = s.bins := rfl
@[simp] theorem State.free_vfs (s : State) : s.free.2.vfs = s.vfs := rfl
@[simp] theorem State.free_parts (s : State) : s.free.2.parts = s.parts := rfl
@[simp] theorem State.free_links (s : State) : s.free.2.links = s.links := rfl
@[simp] theorem State.free_window (s : State) : s.free.2.window = s.window := rfl
@[simp] theorem State.free_fabric (s : State) : s.free.2.fabric = s.fabric := rfl
@[simp] theorem State.free_streams (s : State) : s.free.2.streams = s.streams := rfl
@[simp] theorem State.free_wiuno (s : State) : s.free.2.wiuno = s.wiuno := rfl
@[simp] theorem State.free_device (s : State) : s.free.2.device = s.device := rfl
@[simp] theorem State.free_irqs (s : State) : s.free.2.irqs = s.irqs := rfl
@[simp] theorem State.free_trace (s : State) : s.free.2.trace = s.trace := rfl
@[simp] theorem State.free_samplers (s : State) : s.free.2.samplers = s.samplers := rfl
@[simp] theorem State.free_samples (s : State) : s.free.2.samples = s.samples := rfl
-- ## Group.setV
@[simp] theorem Group.setV_id (g : Group) (n l : Nat) (x : Lane) : (g.setV n l x).id = g.id := rfl
@[simp] theorem Group.setV_live (g : Group) (n l : Nat) (x : Lane) : (g.setV n l x).live = g.live := rfl
@[simp] theorem Group.setV_mask (g : Group) (n l : Nat) (x : Lane) : (g.setV n l x).mask = g.mask := rfl
@[simp] theorem Group.setV_origin (g : Group) (n l : Nat) (x : Lane) : (g.setV n l x).origin = g.origin := rfl
@[simp] theorem Group.setV_pc (g : Group) (n l : Nat) (x : Lane) : (g.setV n l x).pc = g.pc := rfl
@[simp] theorem Group.setV_dv (g : Group) (n l : Nat) (x : Lane) : (g.setV n l x).dv = g.dv := rfl
@[simp] theorem Group.setV_dvDepth (g : Group) (n l : Nat) (x : Lane) : (g.setV n l x).dvDepth = g.dvDepth := rfl
@[simp] theorem Group.setV_fflags (g : Group) (n l : Nat) (x : Lane) : (g.setV n l x).fflags = g.fflags := rfl
@[simp] theorem Group.setV_seed (g : Group) (n l : Nat) (x : Lane) : (g.setV n l x).seed = g.seed := rfl
@[simp] theorem Group.setV_agelim (g : Group) (n l : Nat) (x : Lane) : (g.setV n l x).agelim = g.agelim := rfl
@[simp] theorem Group.setV_ltime (g : Group) (n l : Nat) (x : Lane) : (g.setV n l x).ltime = g.ltime := rfl
@[simp] theorem Group.setV_enacc (g : Group) (n l : Nat) (x : Lane) : (g.setV n l x).enacc = g.enacc := rfl
@[simp] theorem Group.setV_enBanked (g : Group) (n l : Nat) (x : Lane) : (g.setV n l x).enBanked = g.enBanked := rfl
@[simp] theorem Group.setV_pidx (g : Group) (n l : Nat) (x : Lane) : (g.setV n l x).pidx = g.pidx := rfl
@[simp] theorem Group.setV_pidxPc (g : Group) (n l : Nat) (x : Lane) : (g.setV n l x).pidxPc = g.pidxPc := rfl
@[simp] theorem Group.setV_view (g : Group) (n l : Nat) (x : Lane) : (g.setV n l x).view = g.view := rfl
@[simp] theorem Group.setV_fmtPend (g : Group) (n l : Nat) (x : Lane) : (g.setV n l x).fmtPend = g.fmtPend := rfl
@[simp] theorem Group.setV_tagBusy (g : Group) (n l : Nat) (x : Lane) : (g.setV n l x).tagBusy = g.tagBusy := rfl
@[simp] theorem Group.setV_tagDone (g : Group) (n l : Nat) (x : Lane) : (g.setV n l x).tagDone = g.tagDone := rfl
@[simp] theorem Group.setV_tagFlt (g : Group) (n l : Nat) (x : Lane) : (g.setV n l x).tagFlt = g.tagFlt := rfl
@[simp] theorem Group.setV_rq (g : Group) (n l : Nat) (x : Lane) : (g.setV n l x).rq = g.rq := rfl
@[simp] theorem Group.setV_fqHeld (g : Group) (n l : Nat) (x : Lane) : (g.setV n l x).fqHeld = g.fqHeld := rfl
@[simp] theorem Group.setV_fqSince (g : Group) (n l : Nat) (x : Lane) : (g.setV n l x).fqSince = g.fqSince := rfl
@[simp] theorem Group.setV_trap (g : Group) (n l : Nat) (x : Lane) : (g.setV n l x).trap = g.trap := rfl
@[simp] theorem Group.setV_sel (g : Group) (n l : Nat) (x : Lane) : (g.setV n l x).sel = g.sel := rfl
@[simp] theorem Group.setV_wait (g : Group) (n l : Nat) (x : Lane) : (g.setV n l x).wait = g.wait := rfl
@[simp] theorem Group.setV_ops (g : Group) (n l : Nat) (x : Lane) : (g.setV n l x).ops = g.ops := rfl
@[simp] theorem Group.setV_nextInst (g : Group) (n l : Nat) (x : Lane) : (g.setV n l x).nextInst = g.nextInst := rfl
@[simp] theorem Group.setV_failed (g : Group) (n l : Nat) (x : Lane) : (g.setV n l x).failed = g.failed := rfl
@[simp] theorem Group.setV_counts (g : Group) (n l : Nat) (x : Lane) : (g.setV n l x).counts = g.counts := rfl
@[simp] theorem Group.setV_cmp (g : Group) (n l : Nat) (x : Lane) : (g.setV n l x).cmp = g.cmp := rfl
@[simp] theorem Group.setV_exempt (g : Group) (n l : Nat) (x : Lane) : (g.setV n l x).exempt = g.exempt := rfl
@[simp] theorem Group.setV_dbgpc (g : Group) (n l : Nat) (x : Lane) : (g.setV n l x).dbgpc = g.dbgpc := rfl
@[simp] theorem Group.setV_replays (g : Group) (n l : Nat) (x : Lane) : (g.setV n l x).replays = g.replays := rfl
@[simp] theorem Group.setV_again (g : Group) (n l : Nat) (x : Lane) : (g.setV n l x).again = g.again := rfl
@[simp] theorem Group.setV_dig (g : Group) (n l : Nat) (x : Lane) : (g.setV n l x).dig = g.dig := rfl
@[simp] theorem Group.setV_mxSeen (g : Group) (n l : Nat) (x : Lane) : (g.setV n l x).mxSeen = g.mxSeen := rfl
-- ## Group.setX
@[simp] theorem Group.setX_id (g : Group) (n l : Nat) (x : Lane) : (g.setX n l x).id = g.id := rfl
@[simp] theorem Group.setX_live (g : Group) (n l : Nat) (x : Lane) : (g.setX n l x).live = g.live := rfl
@[simp] theorem Group.setX_mask (g : Group) (n l : Nat) (x : Lane) : (g.setX n l x).mask = g.mask := rfl
@[simp] theorem Group.setX_origin (g : Group) (n l : Nat) (x : Lane) : (g.setX n l x).origin = g.origin := rfl
@[simp] theorem Group.setX_pc (g : Group) (n l : Nat) (x : Lane) : (g.setX n l x).pc = g.pc := rfl
@[simp] theorem Group.setX_dv (g : Group) (n l : Nat) (x : Lane) : (g.setX n l x).dv = g.dv := rfl
@[simp] theorem Group.setX_dvDepth (g : Group) (n l : Nat) (x : Lane) : (g.setX n l x).dvDepth = g.dvDepth := rfl
@[simp] theorem Group.setX_fflags (g : Group) (n l : Nat) (x : Lane) : (g.setX n l x).fflags = g.fflags := rfl
@[simp] theorem Group.setX_seed (g : Group) (n l : Nat) (x : Lane) : (g.setX n l x).seed = g.seed := rfl
@[simp] theorem Group.setX_agelim (g : Group) (n l : Nat) (x : Lane) : (g.setX n l x).agelim = g.agelim := rfl
@[simp] theorem Group.setX_ltime (g : Group) (n l : Nat) (x : Lane) : (g.setX n l x).ltime = g.ltime := rfl
@[simp] theorem Group.setX_enacc (g : Group) (n l : Nat) (x : Lane) : (g.setX n l x).enacc = g.enacc := rfl
@[simp] theorem Group.setX_enBanked (g : Group) (n l : Nat) (x : Lane) : (g.setX n l x).enBanked = g.enBanked := rfl
@[simp] theorem Group.setX_pidx (g : Group) (n l : Nat) (x : Lane) : (g.setX n l x).pidx = g.pidx := rfl
@[simp] theorem Group.setX_pidxPc (g : Group) (n l : Nat) (x : Lane) : (g.setX n l x).pidxPc = g.pidxPc := rfl
@[simp] theorem Group.setX_view (g : Group) (n l : Nat) (x : Lane) : (g.setX n l x).view = g.view := rfl
@[simp] theorem Group.setX_fmtPend (g : Group) (n l : Nat) (x : Lane) : (g.setX n l x).fmtPend = g.fmtPend := rfl
@[simp] theorem Group.setX_tagBusy (g : Group) (n l : Nat) (x : Lane) : (g.setX n l x).tagBusy = g.tagBusy := rfl
@[simp] theorem Group.setX_tagDone (g : Group) (n l : Nat) (x : Lane) : (g.setX n l x).tagDone = g.tagDone := rfl
@[simp] theorem Group.setX_tagFlt (g : Group) (n l : Nat) (x : Lane) : (g.setX n l x).tagFlt = g.tagFlt := rfl
@[simp] theorem Group.setX_rq (g : Group) (n l : Nat) (x : Lane) : (g.setX n l x).rq = g.rq := rfl
@[simp] theorem Group.setX_fqHeld (g : Group) (n l : Nat) (x : Lane) : (g.setX n l x).fqHeld = g.fqHeld := rfl
@[simp] theorem Group.setX_fqSince (g : Group) (n l : Nat) (x : Lane) : (g.setX n l x).fqSince = g.fqSince := rfl
@[simp] theorem Group.setX_trap (g : Group) (n l : Nat) (x : Lane) : (g.setX n l x).trap = g.trap := rfl
@[simp] theorem Group.setX_sel (g : Group) (n l : Nat) (x : Lane) : (g.setX n l x).sel = g.sel := rfl
@[simp] theorem Group.setX_wait (g : Group) (n l : Nat) (x : Lane) : (g.setX n l x).wait = g.wait := rfl
@[simp] theorem Group.setX_ops (g : Group) (n l : Nat) (x : Lane) : (g.setX n l x).ops = g.ops := rfl
@[simp] theorem Group.setX_nextInst (g : Group) (n l : Nat) (x : Lane) : (g.setX n l x).nextInst = g.nextInst := rfl
@[simp] theorem Group.setX_failed (g : Group) (n l : Nat) (x : Lane) : (g.setX n l x).failed = g.failed := rfl
@[simp] theorem Group.setX_counts (g : Group) (n l : Nat) (x : Lane) : (g.setX n l x).counts = g.counts := rfl
@[simp] theorem Group.setX_cmp (g : Group) (n l : Nat) (x : Lane) : (g.setX n l x).cmp = g.cmp := rfl
@[simp] theorem Group.setX_exempt (g : Group) (n l : Nat) (x : Lane) : (g.setX n l x).exempt = g.exempt := rfl
@[simp] theorem Group.setX_dbgpc (g : Group) (n l : Nat) (x : Lane) : (g.setX n l x).dbgpc = g.dbgpc := rfl
@[simp] theorem Group.setX_replays (g : Group) (n l : Nat) (x : Lane) : (g.setX n l x).replays = g.replays := rfl
@[simp] theorem Group.setX_again (g : Group) (n l : Nat) (x : Lane) : (g.setX n l x).again = g.again := rfl
@[simp] theorem Group.setX_dig (g : Group) (n l : Nat) (x : Lane) : (g.setX n l x).dig = g.dig := rfl
@[simp] theorem Group.setX_mxSeen (g : Group) (n l : Nat) (x : Lane) : (g.setX n l x).mxSeen = g.mxSeen := rfl
-- ## Group.setP
@[simp] theorem Group.setP_id (g : Group) (n : Nat) (x : Lane) : (g.setP n x).id = g.id := by unfold Group.setP; split <;> rfl
@[simp] theorem Group.setP_live (g : Group) (n : Nat) (x : Lane) : (g.setP n x).live = g.live := by unfold Group.setP; split <;> rfl
@[simp] theorem Group.setP_mask (g : Group) (n : Nat) (x : Lane) : (g.setP n x).mask = g.mask := by unfold Group.setP; split <;> rfl
@[simp] theorem Group.setP_origin (g : Group) (n : Nat) (x : Lane) : (g.setP n x).origin = g.origin := by unfold Group.setP; split <;> rfl
@[simp] theorem Group.setP_pc (g : Group) (n : Nat) (x : Lane) : (g.setP n x).pc = g.pc := by unfold Group.setP; split <;> rfl
@[simp] theorem Group.setP_dv (g : Group) (n : Nat) (x : Lane) : (g.setP n x).dv = g.dv := by unfold Group.setP; split <;> rfl
@[simp] theorem Group.setP_dvDepth (g : Group) (n : Nat) (x : Lane) : (g.setP n x).dvDepth = g.dvDepth := by unfold Group.setP; split <;> rfl
@[simp] theorem Group.setP_fflags (g : Group) (n : Nat) (x : Lane) : (g.setP n x).fflags = g.fflags := by unfold Group.setP; split <;> rfl
@[simp] theorem Group.setP_seed (g : Group) (n : Nat) (x : Lane) : (g.setP n x).seed = g.seed := by unfold Group.setP; split <;> rfl
@[simp] theorem Group.setP_agelim (g : Group) (n : Nat) (x : Lane) : (g.setP n x).agelim = g.agelim := by unfold Group.setP; split <;> rfl
@[simp] theorem Group.setP_ltime (g : Group) (n : Nat) (x : Lane) : (g.setP n x).ltime = g.ltime := by unfold Group.setP; split <;> rfl
@[simp] theorem Group.setP_enacc (g : Group) (n : Nat) (x : Lane) : (g.setP n x).enacc = g.enacc := by unfold Group.setP; split <;> rfl
@[simp] theorem Group.setP_enBanked (g : Group) (n : Nat) (x : Lane) : (g.setP n x).enBanked = g.enBanked := by unfold Group.setP; split <;> rfl
@[simp] theorem Group.setP_pidx (g : Group) (n : Nat) (x : Lane) : (g.setP n x).pidx = g.pidx := by unfold Group.setP; split <;> rfl
@[simp] theorem Group.setP_pidxPc (g : Group) (n : Nat) (x : Lane) : (g.setP n x).pidxPc = g.pidxPc := by unfold Group.setP; split <;> rfl
@[simp] theorem Group.setP_view (g : Group) (n : Nat) (x : Lane) : (g.setP n x).view = g.view := by unfold Group.setP; split <;> rfl
@[simp] theorem Group.setP_fmtPend (g : Group) (n : Nat) (x : Lane) : (g.setP n x).fmtPend = g.fmtPend := by unfold Group.setP; split <;> rfl
@[simp] theorem Group.setP_tagBusy (g : Group) (n : Nat) (x : Lane) : (g.setP n x).tagBusy = g.tagBusy := by unfold Group.setP; split <;> rfl
@[simp] theorem Group.setP_tagDone (g : Group) (n : Nat) (x : Lane) : (g.setP n x).tagDone = g.tagDone := by unfold Group.setP; split <;> rfl
@[simp] theorem Group.setP_tagFlt (g : Group) (n : Nat) (x : Lane) : (g.setP n x).tagFlt = g.tagFlt := by unfold Group.setP; split <;> rfl
@[simp] theorem Group.setP_latchA (g : Group) (n : Nat) (x : Lane) : (g.setP n x).latchA = g.latchA := by unfold Group.setP; split <;> rfl
@[simp] theorem Group.setP_latchB (g : Group) (n : Nat) (x : Lane) : (g.setP n x).latchB = g.latchB := by unfold Group.setP; split <;> rfl
@[simp] theorem Group.setP_rq (g : Group) (n : Nat) (x : Lane) : (g.setP n x).rq = g.rq := by unfold Group.setP; split <;> rfl
@[simp] theorem Group.setP_fqHeld (g : Group) (n : Nat) (x : Lane) : (g.setP n x).fqHeld = g.fqHeld := by unfold Group.setP; split <;> rfl
@[simp] theorem Group.setP_fqSince (g : Group) (n : Nat) (x : Lane) : (g.setP n x).fqSince = g.fqSince := by unfold Group.setP; split <;> rfl
@[simp] theorem Group.setP_trap (g : Group) (n : Nat) (x : Lane) : (g.setP n x).trap = g.trap := by unfold Group.setP; split <;> rfl
@[simp] theorem Group.setP_sel (g : Group) (n : Nat) (x : Lane) : (g.setP n x).sel = g.sel := by unfold Group.setP; split <;> rfl
@[simp] theorem Group.setP_wait (g : Group) (n : Nat) (x : Lane) : (g.setP n x).wait = g.wait := by unfold Group.setP; split <;> rfl
@[simp] theorem Group.setP_ops (g : Group) (n : Nat) (x : Lane) : (g.setP n x).ops = g.ops := by unfold Group.setP; split <;> rfl
@[simp] theorem Group.setP_nextInst (g : Group) (n : Nat) (x : Lane) : (g.setP n x).nextInst = g.nextInst := by unfold Group.setP; split <;> rfl
@[simp] theorem Group.setP_failed (g : Group) (n : Nat) (x : Lane) : (g.setP n x).failed = g.failed := by unfold Group.setP; split <;> rfl
@[simp] theorem Group.setP_counts (g : Group) (n : Nat) (x : Lane) : (g.setP n x).counts = g.counts := by unfold Group.setP; split <;> rfl
@[simp] theorem Group.setP_cmp (g : Group) (n : Nat) (x : Lane) : (g.setP n x).cmp = g.cmp := by unfold Group.setP; split <;> rfl
@[simp] theorem Group.setP_exempt (g : Group) (n : Nat) (x : Lane) : (g.setP n x).exempt = g.exempt := by unfold Group.setP; split <;> rfl
@[simp] theorem Group.setP_dbgpc (g : Group) (n : Nat) (x : Lane) : (g.setP n x).dbgpc = g.dbgpc := by unfold Group.setP; split <;> rfl
@[simp] theorem Group.setP_replays (g : Group) (n : Nat) (x : Lane) : (g.setP n x).replays = g.replays := by unfold Group.setP; split <;> rfl
@[simp] theorem Group.setP_again (g : Group) (n : Nat) (x : Lane) : (g.setP n x).again = g.again := by unfold Group.setP; split <;> rfl
@[simp] theorem Group.setP_dig (g : Group) (n : Nat) (x : Lane) : (g.setP n x).dig = g.dig := by unfold Group.setP; split <;> rfl
@[simp] theorem Group.setP_mxSeen (g : Group) (n : Nat) (x : Lane) : (g.setP n x).mxSeen = g.mxSeen := by unfold Group.setP; split <;> rfl
-- ## Group.setZ
@[simp] theorem Group.setZ_id (g : Group) (n : Nat) (x : BitVec 128) : (g.setZ n x).id = g.id := rfl
@[simp] theorem Group.setZ_live (g : Group) (n : Nat) (x : BitVec 128) : (g.setZ n x).live = g.live := rfl
@[simp] theorem Group.setZ_mask (g : Group) (n : Nat) (x : BitVec 128) : (g.setZ n x).mask = g.mask := rfl
@[simp] theorem Group.setZ_origin (g : Group) (n : Nat) (x : BitVec 128) : (g.setZ n x).origin = g.origin := rfl
@[simp] theorem Group.setZ_pc (g : Group) (n : Nat) (x : BitVec 128) : (g.setZ n x).pc = g.pc := rfl
@[simp] theorem Group.setZ_dv (g : Group) (n : Nat) (x : BitVec 128) : (g.setZ n x).dv = g.dv := rfl
@[simp] theorem Group.setZ_dvDepth (g : Group) (n : Nat) (x : BitVec 128) : (g.setZ n x).dvDepth = g.dvDepth := rfl
@[simp] theorem Group.setZ_fflags (g : Group) (n : Nat) (x : BitVec 128) : (g.setZ n x).fflags = g.fflags := rfl
@[simp] theorem Group.setZ_seed (g : Group) (n : Nat) (x : BitVec 128) : (g.setZ n x).seed = g.seed := rfl
@[simp] theorem Group.setZ_agelim (g : Group) (n : Nat) (x : BitVec 128) : (g.setZ n x).agelim = g.agelim := rfl
@[simp] theorem Group.setZ_ltime (g : Group) (n : Nat) (x : BitVec 128) : (g.setZ n x).ltime = g.ltime := rfl
@[simp] theorem Group.setZ_enacc (g : Group) (n : Nat) (x : BitVec 128) : (g.setZ n x).enacc = g.enacc := rfl
@[simp] theorem Group.setZ_enBanked (g : Group) (n : Nat) (x : BitVec 128) : (g.setZ n x).enBanked = g.enBanked := rfl
@[simp] theorem Group.setZ_pidx (g : Group) (n : Nat) (x : BitVec 128) : (g.setZ n x).pidx = g.pidx := rfl
@[simp] theorem Group.setZ_pidxPc (g : Group) (n : Nat) (x : BitVec 128) : (g.setZ n x).pidxPc = g.pidxPc := rfl
@[simp] theorem Group.setZ_view (g : Group) (n : Nat) (x : BitVec 128) : (g.setZ n x).view = g.view := rfl
@[simp] theorem Group.setZ_fmtPend (g : Group) (n : Nat) (x : BitVec 128) : (g.setZ n x).fmtPend = g.fmtPend := rfl
@[simp] theorem Group.setZ_tagBusy (g : Group) (n : Nat) (x : BitVec 128) : (g.setZ n x).tagBusy = g.tagBusy := rfl
@[simp] theorem Group.setZ_tagDone (g : Group) (n : Nat) (x : BitVec 128) : (g.setZ n x).tagDone = g.tagDone := rfl
@[simp] theorem Group.setZ_tagFlt (g : Group) (n : Nat) (x : BitVec 128) : (g.setZ n x).tagFlt = g.tagFlt := rfl
@[simp] theorem Group.setZ_latchA (g : Group) (n : Nat) (x : BitVec 128) : (g.setZ n x).latchA = g.latchA := rfl
@[simp] theorem Group.setZ_latchB (g : Group) (n : Nat) (x : BitVec 128) : (g.setZ n x).latchB = g.latchB := rfl
@[simp] theorem Group.setZ_rq (g : Group) (n : Nat) (x : BitVec 128) : (g.setZ n x).rq = g.rq := rfl
@[simp] theorem Group.setZ_fqHeld (g : Group) (n : Nat) (x : BitVec 128) : (g.setZ n x).fqHeld = g.fqHeld := rfl
@[simp] theorem Group.setZ_fqSince (g : Group) (n : Nat) (x : BitVec 128) : (g.setZ n x).fqSince = g.fqSince := rfl
@[simp] theorem Group.setZ_trap (g : Group) (n : Nat) (x : BitVec 128) : (g.setZ n x).trap = g.trap := rfl
@[simp] theorem Group.setZ_sel (g : Group) (n : Nat) (x : BitVec 128) : (g.setZ n x).sel = g.sel := rfl
@[simp] theorem Group.setZ_wait (g : Group) (n : Nat) (x : BitVec 128) : (g.setZ n x).wait = g.wait := rfl
@[simp] theorem Group.setZ_ops (g : Group) (n : Nat) (x : BitVec 128) : (g.setZ n x).ops = g.ops := rfl
@[simp] theorem Group.setZ_nextInst (g : Group) (n : Nat) (x : BitVec 128) : (g.setZ n x).nextInst = g.nextInst := rfl
@[simp] theorem Group.setZ_failed (g : Group) (n : Nat) (x : BitVec 128) : (g.setZ n x).failed = g.failed := rfl
@[simp] theorem Group.setZ_counts (g : Group) (n : Nat) (x : BitVec 128) : (g.setZ n x).counts = g.counts := rfl
@[simp] theorem Group.setZ_cmp (g : Group) (n : Nat) (x : BitVec 128) : (g.setZ n x).cmp = g.cmp := rfl
@[simp] theorem Group.setZ_exempt (g : Group) (n : Nat) (x : BitVec 128) : (g.setZ n x).exempt = g.exempt := rfl
@[simp] theorem Group.setZ_dbgpc (g : Group) (n : Nat) (x : BitVec 128) : (g.setZ n x).dbgpc = g.dbgpc := rfl
@[simp] theorem Group.setZ_replays (g : Group) (n : Nat) (x : BitVec 128) : (g.setZ n x).replays = g.replays := rfl
@[simp] theorem Group.setZ_again (g : Group) (n : Nat) (x : BitVec 128) : (g.setZ n x).again = g.again := rfl
@[simp] theorem Group.setZ_dig (g : Group) (n : Nat) (x : BitVec 128) : (g.setZ n x).dig = g.dig := rfl
@[simp] theorem Group.setZ_mxSeen (g : Group) (n : Nat) (x : BitVec 128) : (g.setZ n x).mxSeen = g.mxSeen := rfl
-- ## Group.setS
@[simp] theorem Group.setS_id (g : Group) (n : Nat) (x : Word) : (g.setS n x).id = g.id := rfl
@[simp] theorem Group.setS_live (g : Group) (n : Nat) (x : Word) : (g.setS n x).live = g.live := rfl
@[simp] theorem Group.setS_mask (g : Group) (n : Nat) (x : Word) : (g.setS n x).mask = g.mask := rfl
@[simp] theorem Group.setS_origin (g : Group) (n : Nat) (x : Word) : (g.setS n x).origin = g.origin := rfl
@[simp] theorem Group.setS_pc (g : Group) (n : Nat) (x : Word) : (g.setS n x).pc = g.pc := rfl
@[simp] theorem Group.setS_dv (g : Group) (n : Nat) (x : Word) : (g.setS n x).dv = g.dv := rfl
@[simp] theorem Group.setS_dvDepth (g : Group) (n : Nat) (x : Word) : (g.setS n x).dvDepth = g.dvDepth := rfl
@[simp] theorem Group.setS_fflags (g : Group) (n : Nat) (x : Word) : (g.setS n x).fflags = g.fflags := rfl
@[simp] theorem Group.setS_seed (g : Group) (n : Nat) (x : Word) : (g.setS n x).seed = g.seed := rfl
@[simp] theorem Group.setS_agelim (g : Group) (n : Nat) (x : Word) : (g.setS n x).agelim = g.agelim := rfl
@[simp] theorem Group.setS_ltime (g : Group) (n : Nat) (x : Word) : (g.setS n x).ltime = g.ltime := rfl
@[simp] theorem Group.setS_enacc (g : Group) (n : Nat) (x : Word) : (g.setS n x).enacc = g.enacc := rfl
@[simp] theorem Group.setS_enBanked (g : Group) (n : Nat) (x : Word) : (g.setS n x).enBanked = g.enBanked := rfl
@[simp] theorem Group.setS_pidx (g : Group) (n : Nat) (x : Word) : (g.setS n x).pidx = g.pidx := rfl
@[simp] theorem Group.setS_pidxPc (g : Group) (n : Nat) (x : Word) : (g.setS n x).pidxPc = g.pidxPc := rfl
@[simp] theorem Group.setS_view (g : Group) (n : Nat) (x : Word) : (g.setS n x).view = g.view := rfl
@[simp] theorem Group.setS_fmtPend (g : Group) (n : Nat) (x : Word) : (g.setS n x).fmtPend = g.fmtPend := rfl
@[simp] theorem Group.setS_tagBusy (g : Group) (n : Nat) (x : Word) : (g.setS n x).tagBusy = g.tagBusy := rfl
@[simp] theorem Group.setS_tagDone (g : Group) (n : Nat) (x : Word) : (g.setS n x).tagDone = g.tagDone := rfl
@[simp] theorem Group.setS_tagFlt (g : Group) (n : Nat) (x : Word) : (g.setS n x).tagFlt = g.tagFlt := rfl
@[simp] theorem Group.setS_latchA (g : Group) (n : Nat) (x : Word) : (g.setS n x).latchA = g.latchA := rfl
@[simp] theorem Group.setS_latchB (g : Group) (n : Nat) (x : Word) : (g.setS n x).latchB = g.latchB := rfl
@[simp] theorem Group.setS_rq (g : Group) (n : Nat) (x : Word) : (g.setS n x).rq = g.rq := rfl
@[simp] theorem Group.setS_fqHeld (g : Group) (n : Nat) (x : Word) : (g.setS n x).fqHeld = g.fqHeld := rfl
@[simp] theorem Group.setS_fqSince (g : Group) (n : Nat) (x : Word) : (g.setS n x).fqSince = g.fqSince := rfl
@[simp] theorem Group.setS_trap (g : Group) (n : Nat) (x : Word) : (g.setS n x).trap = g.trap := rfl
@[simp] theorem Group.setS_sel (g : Group) (n : Nat) (x : Word) : (g.setS n x).sel = g.sel := rfl
@[simp] theorem Group.setS_wait (g : Group) (n : Nat) (x : Word) : (g.setS n x).wait = g.wait := rfl
@[simp] theorem Group.setS_ops (g : Group) (n : Nat) (x : Word) : (g.setS n x).ops = g.ops := rfl
@[simp] theorem Group.setS_nextInst (g : Group) (n : Nat) (x : Word) : (g.setS n x).nextInst = g.nextInst := rfl
@[simp] theorem Group.setS_failed (g : Group) (n : Nat) (x : Word) : (g.setS n x).failed = g.failed := rfl
@[simp] theorem Group.setS_counts (g : Group) (n : Nat) (x : Word) : (g.setS n x).counts = g.counts := rfl
@[simp] theorem Group.setS_cmp (g : Group) (n : Nat) (x : Word) : (g.setS n x).cmp = g.cmp := rfl
@[simp] theorem Group.setS_exempt (g : Group) (n : Nat) (x : Word) : (g.setS n x).exempt = g.exempt := rfl
@[simp] theorem Group.setS_dbgpc (g : Group) (n : Nat) (x : Word) : (g.setS n x).dbgpc = g.dbgpc := rfl
@[simp] theorem Group.setS_replays (g : Group) (n : Nat) (x : Word) : (g.setS n x).replays = g.replays := rfl
@[simp] theorem Group.setS_again (g : Group) (n : Nat) (x : Word) : (g.setS n x).again = g.again := rfl
@[simp] theorem Group.setS_dig (g : Group) (n : Nat) (x : Word) : (g.setS n x).dig = g.dig := rfl
@[simp] theorem Group.setS_mxSeen (g : Group) (n : Nat) (x : Word) : (g.setS n x).mxSeen = g.mxSeen := rfl
-- ## Group.setC
@[simp] theorem Group.setC_id (g : Group) (n : Nat) (b : Bool) : (g.setC n b).id = g.id := by unfold Group.setC; split <;> rfl
@[simp] theorem Group.setC_live (g : Group) (n : Nat) (b : Bool) : (g.setC n b).live = g.live := by unfold Group.setC; split <;> rfl
@[simp] theorem Group.setC_mask (g : Group) (n : Nat) (b : Bool) : (g.setC n b).mask = g.mask := by unfold Group.setC; split <;> rfl
@[simp] theorem Group.setC_origin (g : Group) (n : Nat) (b : Bool) : (g.setC n b).origin = g.origin := by unfold Group.setC; split <;> rfl
@[simp] theorem Group.setC_pc (g : Group) (n : Nat) (b : Bool) : (g.setC n b).pc = g.pc := by unfold Group.setC; split <;> rfl
@[simp] theorem Group.setC_dv (g : Group) (n : Nat) (b : Bool) : (g.setC n b).dv = g.dv := by unfold Group.setC; split <;> rfl
@[simp] theorem Group.setC_dvDepth (g : Group) (n : Nat) (b : Bool) : (g.setC n b).dvDepth = g.dvDepth := by unfold Group.setC; split <;> rfl
@[simp] theorem Group.setC_fflags (g : Group) (n : Nat) (b : Bool) : (g.setC n b).fflags = g.fflags := by unfold Group.setC; split <;> rfl
@[simp] theorem Group.setC_seed (g : Group) (n : Nat) (b : Bool) : (g.setC n b).seed = g.seed := by unfold Group.setC; split <;> rfl
@[simp] theorem Group.setC_agelim (g : Group) (n : Nat) (b : Bool) : (g.setC n b).agelim = g.agelim := by unfold Group.setC; split <;> rfl
@[simp] theorem Group.setC_ltime (g : Group) (n : Nat) (b : Bool) : (g.setC n b).ltime = g.ltime := by unfold Group.setC; split <;> rfl
@[simp] theorem Group.setC_enacc (g : Group) (n : Nat) (b : Bool) : (g.setC n b).enacc = g.enacc := by unfold Group.setC; split <;> rfl
@[simp] theorem Group.setC_enBanked (g : Group) (n : Nat) (b : Bool) : (g.setC n b).enBanked = g.enBanked := by unfold Group.setC; split <;> rfl
@[simp] theorem Group.setC_pidx (g : Group) (n : Nat) (b : Bool) : (g.setC n b).pidx = g.pidx := by unfold Group.setC; split <;> rfl
@[simp] theorem Group.setC_pidxPc (g : Group) (n : Nat) (b : Bool) : (g.setC n b).pidxPc = g.pidxPc := by unfold Group.setC; split <;> rfl
@[simp] theorem Group.setC_view (g : Group) (n : Nat) (b : Bool) : (g.setC n b).view = g.view := by unfold Group.setC; split <;> rfl
@[simp] theorem Group.setC_fmtPend (g : Group) (n : Nat) (b : Bool) : (g.setC n b).fmtPend = g.fmtPend := by unfold Group.setC; split <;> rfl
@[simp] theorem Group.setC_tagBusy (g : Group) (n : Nat) (b : Bool) : (g.setC n b).tagBusy = g.tagBusy := by unfold Group.setC; split <;> rfl
@[simp] theorem Group.setC_tagDone (g : Group) (n : Nat) (b : Bool) : (g.setC n b).tagDone = g.tagDone := by unfold Group.setC; split <;> rfl
@[simp] theorem Group.setC_tagFlt (g : Group) (n : Nat) (b : Bool) : (g.setC n b).tagFlt = g.tagFlt := by unfold Group.setC; split <;> rfl
@[simp] theorem Group.setC_latchA (g : Group) (n : Nat) (b : Bool) : (g.setC n b).latchA = g.latchA := by unfold Group.setC; split <;> rfl
@[simp] theorem Group.setC_latchB (g : Group) (n : Nat) (b : Bool) : (g.setC n b).latchB = g.latchB := by unfold Group.setC; split <;> rfl
@[simp] theorem Group.setC_rq (g : Group) (n : Nat) (b : Bool) : (g.setC n b).rq = g.rq := by unfold Group.setC; split <;> rfl
@[simp] theorem Group.setC_fqHeld (g : Group) (n : Nat) (b : Bool) : (g.setC n b).fqHeld = g.fqHeld := by unfold Group.setC; split <;> rfl
@[simp] theorem Group.setC_fqSince (g : Group) (n : Nat) (b : Bool) : (g.setC n b).fqSince = g.fqSince := by unfold Group.setC; split <;> rfl
@[simp] theorem Group.setC_trap (g : Group) (n : Nat) (b : Bool) : (g.setC n b).trap = g.trap := by unfold Group.setC; split <;> rfl
@[simp] theorem Group.setC_sel (g : Group) (n : Nat) (b : Bool) : (g.setC n b).sel = g.sel := by unfold Group.setC; split <;> rfl
@[simp] theorem Group.setC_wait (g : Group) (n : Nat) (b : Bool) : (g.setC n b).wait = g.wait := by unfold Group.setC; split <;> rfl
@[simp] theorem Group.setC_ops (g : Group) (n : Nat) (b : Bool) : (g.setC n b).ops = g.ops := by unfold Group.setC; split <;> rfl
@[simp] theorem Group.setC_nextInst (g : Group) (n : Nat) (b : Bool) : (g.setC n b).nextInst = g.nextInst := by unfold Group.setC; split <;> rfl
@[simp] theorem Group.setC_failed (g : Group) (n : Nat) (b : Bool) : (g.setC n b).failed = g.failed := by unfold Group.setC; split <;> rfl
@[simp] theorem Group.setC_counts (g : Group) (n : Nat) (b : Bool) : (g.setC n b).counts = g.counts := by unfold Group.setC; split <;> rfl
@[simp] theorem Group.setC_cmp (g : Group) (n : Nat) (b : Bool) : (g.setC n b).cmp = g.cmp := by unfold Group.setC; split <;> rfl
@[simp] theorem Group.setC_exempt (g : Group) (n : Nat) (b : Bool) : (g.setC n b).exempt = g.exempt := by unfold Group.setC; split <;> rfl
@[simp] theorem Group.setC_dbgpc (g : Group) (n : Nat) (b : Bool) : (g.setC n b).dbgpc = g.dbgpc := by unfold Group.setC; split <;> rfl
@[simp] theorem Group.setC_replays (g : Group) (n : Nat) (b : Bool) : (g.setC n b).replays = g.replays := by unfold Group.setC; split <;> rfl
@[simp] theorem Group.setC_again (g : Group) (n : Nat) (b : Bool) : (g.setC n b).again = g.again := by unfold Group.setC; split <;> rfl
@[simp] theorem Group.setC_dig (g : Group) (n : Nat) (b : Bool) : (g.setC n b).dig = g.dig := by unfold Group.setC; split <;> rfl
@[simp] theorem Group.setC_mxSeen (g : Group) (n : Nat) (b : Bool) : (g.setC n b).mxSeen = g.mxSeen := by unfold Group.setC; split <;> rfl
-- ## Group.setK
@[simp] theorem Group.setK_id (g : Group) (n : Nat) (x : BitVec 16) : (g.setK n x).id = g.id := rfl
@[simp] theorem Group.setK_live (g : Group) (n : Nat) (x : BitVec 16) : (g.setK n x).live = g.live := rfl
@[simp] theorem Group.setK_mask (g : Group) (n : Nat) (x : BitVec 16) : (g.setK n x).mask = g.mask := rfl
@[simp] theorem Group.setK_origin (g : Group) (n : Nat) (x : BitVec 16) : (g.setK n x).origin = g.origin := rfl
@[simp] theorem Group.setK_pc (g : Group) (n : Nat) (x : BitVec 16) : (g.setK n x).pc = g.pc := rfl
@[simp] theorem Group.setK_dv (g : Group) (n : Nat) (x : BitVec 16) : (g.setK n x).dv = g.dv := rfl
@[simp] theorem Group.setK_dvDepth (g : Group) (n : Nat) (x : BitVec 16) : (g.setK n x).dvDepth = g.dvDepth := rfl
@[simp] theorem Group.setK_fflags (g : Group) (n : Nat) (x : BitVec 16) : (g.setK n x).fflags = g.fflags := rfl
@[simp] theorem Group.setK_seed (g : Group) (n : Nat) (x : BitVec 16) : (g.setK n x).seed = g.seed := rfl
@[simp] theorem Group.setK_agelim (g : Group) (n : Nat) (x : BitVec 16) : (g.setK n x).agelim = g.agelim := rfl
@[simp] theorem Group.setK_ltime (g : Group) (n : Nat) (x : BitVec 16) : (g.setK n x).ltime = g.ltime := rfl
@[simp] theorem Group.setK_enacc (g : Group) (n : Nat) (x : BitVec 16) : (g.setK n x).enacc = g.enacc := rfl
@[simp] theorem Group.setK_enBanked (g : Group) (n : Nat) (x : BitVec 16) : (g.setK n x).enBanked = g.enBanked := rfl
@[simp] theorem Group.setK_pidx (g : Group) (n : Nat) (x : BitVec 16) : (g.setK n x).pidx = g.pidx := rfl
@[simp] theorem Group.setK_pidxPc (g : Group) (n : Nat) (x : BitVec 16) : (g.setK n x).pidxPc = g.pidxPc := rfl
@[simp] theorem Group.setK_view (g : Group) (n : Nat) (x : BitVec 16) : (g.setK n x).view = g.view := rfl
@[simp] theorem Group.setK_fmtPend (g : Group) (n : Nat) (x : BitVec 16) : (g.setK n x).fmtPend = g.fmtPend := rfl
@[simp] theorem Group.setK_tagBusy (g : Group) (n : Nat) (x : BitVec 16) : (g.setK n x).tagBusy = g.tagBusy := rfl
@[simp] theorem Group.setK_tagDone (g : Group) (n : Nat) (x : BitVec 16) : (g.setK n x).tagDone = g.tagDone := rfl
@[simp] theorem Group.setK_tagFlt (g : Group) (n : Nat) (x : BitVec 16) : (g.setK n x).tagFlt = g.tagFlt := rfl
@[simp] theorem Group.setK_rq (g : Group) (n : Nat) (x : BitVec 16) : (g.setK n x).rq = g.rq := rfl
@[simp] theorem Group.setK_fqHeld (g : Group) (n : Nat) (x : BitVec 16) : (g.setK n x).fqHeld = g.fqHeld := rfl
@[simp] theorem Group.setK_fqSince (g : Group) (n : Nat) (x : BitVec 16) : (g.setK n x).fqSince = g.fqSince := rfl
@[simp] theorem Group.setK_trap (g : Group) (n : Nat) (x : BitVec 16) : (g.setK n x).trap = g.trap := rfl
@[simp] theorem Group.setK_sel (g : Group) (n : Nat) (x : BitVec 16) : (g.setK n x).sel = g.sel := rfl
@[simp] theorem Group.setK_wait (g : Group) (n : Nat) (x : BitVec 16) : (g.setK n x).wait = g.wait := rfl
@[simp] theorem Group.setK_ops (g : Group) (n : Nat) (x : BitVec 16) : (g.setK n x).ops = g.ops := rfl
@[simp] theorem Group.setK_nextInst (g : Group) (n : Nat) (x : BitVec 16) : (g.setK n x).nextInst = g.nextInst := rfl
@[simp] theorem Group.setK_failed (g : Group) (n : Nat) (x : BitVec 16) : (g.setK n x).failed = g.failed := rfl
@[simp] theorem Group.setK_counts (g : Group) (n : Nat) (x : BitVec 16) : (g.setK n x).counts = g.counts := rfl
@[simp] theorem Group.setK_cmp (g : Group) (n : Nat) (x : BitVec 16) : (g.setK n x).cmp = g.cmp := rfl
@[simp] theorem Group.setK_exempt (g : Group) (n : Nat) (x : BitVec 16) : (g.setK n x).exempt = g.exempt := rfl
@[simp] theorem Group.setK_dbgpc (g : Group) (n : Nat) (x : BitVec 16) : (g.setK n x).dbgpc = g.dbgpc := rfl
@[simp] theorem Group.setK_replays (g : Group) (n : Nat) (x : BitVec 16) : (g.setK n x).replays = g.replays := rfl
@[simp] theorem Group.setK_again (g : Group) (n : Nat) (x : BitVec 16) : (g.setK n x).again = g.again := rfl
@[simp] theorem Group.setK_dig (g : Group) (n : Nat) (x : BitVec 16) : (g.setK n x).dig = g.dig := rfl
@[simp] theorem Group.setK_mxSeen (g : Group) (n : Nat) (x : BitVec 16) : (g.setK n x).mxSeen = g.mxSeen := rfl
-- ## Group.orFlags
@[simp] theorem Group.orFlags_id (g : Group) (f : BitVec 5) : (g.orFlags f).id = g.id := rfl
@[simp] theorem Group.orFlags_live (g : Group) (f : BitVec 5) : (g.orFlags f).live = g.live := rfl
@[simp] theorem Group.orFlags_mask (g : Group) (f : BitVec 5) : (g.orFlags f).mask = g.mask := rfl
@[simp] theorem Group.orFlags_origin (g : Group) (f : BitVec 5) : (g.orFlags f).origin = g.origin := rfl
@[simp] theorem Group.orFlags_regs (g : Group) (f : BitVec 5) : (g.orFlags f).regs = g.regs := rfl
@[simp] theorem Group.orFlags_pc (g : Group) (f : BitVec 5) : (g.orFlags f).pc = g.pc := rfl
@[simp] theorem Group.orFlags_dv (g : Group) (f : BitVec 5) : (g.orFlags f).dv = g.dv := rfl
@[simp] theorem Group.orFlags_dvDepth (g : Group) (f : BitVec 5) : (g.orFlags f).dvDepth = g.dvDepth := rfl
@[simp] theorem Group.orFlags_seed (g : Group) (f : BitVec 5) : (g.orFlags f).seed = g.seed := rfl
@[simp] theorem Group.orFlags_agelim (g : Group) (f : BitVec 5) : (g.orFlags f).agelim = g.agelim := rfl
@[simp] theorem Group.orFlags_ltime (g : Group) (f : BitVec 5) : (g.orFlags f).ltime = g.ltime := rfl
@[simp] theorem Group.orFlags_enacc (g : Group) (f : BitVec 5) : (g.orFlags f).enacc = g.enacc := rfl
@[simp] theorem Group.orFlags_enBanked (g : Group) (f : BitVec 5) : (g.orFlags f).enBanked = g.enBanked := rfl
@[simp] theorem Group.orFlags_pidx (g : Group) (f : BitVec 5) : (g.orFlags f).pidx = g.pidx := rfl
@[simp] theorem Group.orFlags_pidxPc (g : Group) (f : BitVec 5) : (g.orFlags f).pidxPc = g.pidxPc := rfl
@[simp] theorem Group.orFlags_view (g : Group) (f : BitVec 5) : (g.orFlags f).view = g.view := rfl
@[simp] theorem Group.orFlags_fmtPend (g : Group) (f : BitVec 5) : (g.orFlags f).fmtPend = g.fmtPend := rfl
@[simp] theorem Group.orFlags_tagBusy (g : Group) (f : BitVec 5) : (g.orFlags f).tagBusy = g.tagBusy := rfl
@[simp] theorem Group.orFlags_tagDone (g : Group) (f : BitVec 5) : (g.orFlags f).tagDone = g.tagDone := rfl
@[simp] theorem Group.orFlags_tagFlt (g : Group) (f : BitVec 5) : (g.orFlags f).tagFlt = g.tagFlt := rfl
@[simp] theorem Group.orFlags_latchA (g : Group) (f : BitVec 5) : (g.orFlags f).latchA = g.latchA := rfl
@[simp] theorem Group.orFlags_latchB (g : Group) (f : BitVec 5) : (g.orFlags f).latchB = g.latchB := rfl
@[simp] theorem Group.orFlags_rq (g : Group) (f : BitVec 5) : (g.orFlags f).rq = g.rq := rfl
@[simp] theorem Group.orFlags_fqHeld (g : Group) (f : BitVec 5) : (g.orFlags f).fqHeld = g.fqHeld := rfl
@[simp] theorem Group.orFlags_fqSince (g : Group) (f : BitVec 5) : (g.orFlags f).fqSince = g.fqSince := rfl
@[simp] theorem Group.orFlags_trap (g : Group) (f : BitVec 5) : (g.orFlags f).trap = g.trap := rfl
@[simp] theorem Group.orFlags_sel (g : Group) (f : BitVec 5) : (g.orFlags f).sel = g.sel := rfl
@[simp] theorem Group.orFlags_wait (g : Group) (f : BitVec 5) : (g.orFlags f).wait = g.wait := rfl
@[simp] theorem Group.orFlags_ops (g : Group) (f : BitVec 5) : (g.orFlags f).ops = g.ops := rfl
@[simp] theorem Group.orFlags_nextInst (g : Group) (f : BitVec 5) : (g.orFlags f).nextInst = g.nextInst := rfl
@[simp] theorem Group.orFlags_failed (g : Group) (f : BitVec 5) : (g.orFlags f).failed = g.failed := rfl
@[simp] theorem Group.orFlags_counts (g : Group) (f : BitVec 5) : (g.orFlags f).counts = g.counts := rfl
@[simp] theorem Group.orFlags_cmp (g : Group) (f : BitVec 5) : (g.orFlags f).cmp = g.cmp := rfl
@[simp] theorem Group.orFlags_exempt (g : Group) (f : BitVec 5) : (g.orFlags f).exempt = g.exempt := rfl
@[simp] theorem Group.orFlags_dbgpc (g : Group) (f : BitVec 5) : (g.orFlags f).dbgpc = g.dbgpc := rfl
@[simp] theorem Group.orFlags_replays (g : Group) (f : BitVec 5) : (g.orFlags f).replays = g.replays := rfl
@[simp] theorem Group.orFlags_again (g : Group) (f : BitVec 5) : (g.orFlags f).again = g.again := rfl
@[simp] theorem Group.orFlags_dig (g : Group) (f : BitVec 5) : (g.orFlags f).dig = g.dig := rfl
@[simp] theorem Group.orFlags_mxSeen (g : Group) (f : BitVec 5) : (g.orFlags f).mxSeen = g.mxSeen := rfl
-- ## Group.dropLatches
@[simp] theorem Group.dropLatches_id (g : Group) : (g.dropLatches).id = g.id := rfl
@[simp] theorem Group.dropLatches_live (g : Group) : (g.dropLatches).live = g.live := rfl
@[simp] theorem Group.dropLatches_mask (g : Group) : (g.dropLatches).mask = g.mask := rfl
@[simp] theorem Group.dropLatches_origin (g : Group) : (g.dropLatches).origin = g.origin := rfl
@[simp] theorem Group.dropLatches_regs (g : Group) : (g.dropLatches).regs = g.regs := rfl
@[simp] theorem Group.dropLatches_pc (g : Group) : (g.dropLatches).pc = g.pc := rfl
@[simp] theorem Group.dropLatches_dv (g : Group) : (g.dropLatches).dv = g.dv := rfl
@[simp] theorem Group.dropLatches_dvDepth (g : Group) : (g.dropLatches).dvDepth = g.dvDepth := rfl
@[simp] theorem Group.dropLatches_fflags (g : Group) : (g.dropLatches).fflags = g.fflags := rfl
@[simp] theorem Group.dropLatches_seed (g : Group) : (g.dropLatches).seed = g.seed := rfl
@[simp] theorem Group.dropLatches_agelim (g : Group) : (g.dropLatches).agelim = g.agelim := rfl
@[simp] theorem Group.dropLatches_ltime (g : Group) : (g.dropLatches).ltime = g.ltime := rfl
@[simp] theorem Group.dropLatches_enacc (g : Group) : (g.dropLatches).enacc = g.enacc := rfl
@[simp] theorem Group.dropLatches_enBanked (g : Group) : (g.dropLatches).enBanked = g.enBanked := rfl
@[simp] theorem Group.dropLatches_pidx (g : Group) : (g.dropLatches).pidx = g.pidx := rfl
@[simp] theorem Group.dropLatches_pidxPc (g : Group) : (g.dropLatches).pidxPc = g.pidxPc := rfl
@[simp] theorem Group.dropLatches_view (g : Group) : (g.dropLatches).view = g.view := rfl
@[simp] theorem Group.dropLatches_fmtPend (g : Group) : (g.dropLatches).fmtPend = g.fmtPend := rfl
@[simp] theorem Group.dropLatches_tagBusy (g : Group) : (g.dropLatches).tagBusy = g.tagBusy := rfl
@[simp] theorem Group.dropLatches_tagDone (g : Group) : (g.dropLatches).tagDone = g.tagDone := rfl
@[simp] theorem Group.dropLatches_tagFlt (g : Group) : (g.dropLatches).tagFlt = g.tagFlt := rfl
@[simp] theorem Group.dropLatches_rq (g : Group) : (g.dropLatches).rq = g.rq := rfl
@[simp] theorem Group.dropLatches_fqHeld (g : Group) : (g.dropLatches).fqHeld = g.fqHeld := rfl
@[simp] theorem Group.dropLatches_fqSince (g : Group) : (g.dropLatches).fqSince = g.fqSince := rfl
@[simp] theorem Group.dropLatches_trap (g : Group) : (g.dropLatches).trap = g.trap := rfl
@[simp] theorem Group.dropLatches_sel (g : Group) : (g.dropLatches).sel = g.sel := rfl
@[simp] theorem Group.dropLatches_wait (g : Group) : (g.dropLatches).wait = g.wait := rfl
@[simp] theorem Group.dropLatches_ops (g : Group) : (g.dropLatches).ops = g.ops := rfl
@[simp] theorem Group.dropLatches_nextInst (g : Group) : (g.dropLatches).nextInst = g.nextInst := rfl
@[simp] theorem Group.dropLatches_failed (g : Group) : (g.dropLatches).failed = g.failed := rfl
@[simp] theorem Group.dropLatches_counts (g : Group) : (g.dropLatches).counts = g.counts := rfl
@[simp] theorem Group.dropLatches_cmp (g : Group) : (g.dropLatches).cmp = g.cmp := rfl
@[simp] theorem Group.dropLatches_exempt (g : Group) : (g.dropLatches).exempt = g.exempt := rfl
@[simp] theorem Group.dropLatches_dbgpc (g : Group) : (g.dropLatches).dbgpc = g.dbgpc := rfl
@[simp] theorem Group.dropLatches_replays (g : Group) : (g.dropLatches).replays = g.replays := rfl
@[simp] theorem Group.dropLatches_again (g : Group) : (g.dropLatches).again = g.again := rfl
@[simp] theorem Group.dropLatches_dig (g : Group) : (g.dropLatches).dig = g.dig := rfl
@[simp] theorem Group.dropLatches_mxSeen (g : Group) : (g.dropLatches).mxSeen = g.mxSeen := rfl

end Sys2Proof.Machine
end

