-- ==== Sys2Proof/Laws/Issue.lean ====
section
/-! SUPPORT. What issuing and retiring a word can do, said once. -/
namespace Sys2Proof.Machine

theorem State.curGroup_key {s : State} {g : Group} (h : s.curGroup = some g) : s.group? g.id.key = some g := by
  unfold State.curGroup at h
  split at h
  · have h' := h
    unfold State.group? at h'
    have := List.find?_some h'
    rw [beq_iff_eq] at this
    rw [this]
    exact h
  · cases h
  · cases h

/-- A word during which no operation of its group ended leaves the group as it says. -/
theorem State.current_same {s : State} {g : Group} (h : s.group? g.id.key = some g) (g' : Group) : s.current g g' = g' := by
  unfold State.current
  rw [h]
  have : (g'.ops.filter fun o => g.ops.contains o || !g.ops.contains o) = g'.ops :=
    List.filter_eq_self.mpr fun o _ => by cases g.ops.contains o <;> rfl
  simp only [this]

/-- A word that issues with nothing in its way runs on the group with its latches updated. -/
theorem runWord_issues {s : State} {g : Group} {i : Instr} (f : State → Group → WordRes) (h : Issues s g i) :
    runWord s i f = (match f s (g.latched i) with
      | .stall => .next s
      | .hold s' g' => .next (s'.setGroup ((s'.current g g').sequenced g i {}))
      | .trap t => .next (s.trapWord g i t)
      | .trapG g' t => .next ((s.setGroup g').trapWord g' i t)
      | .trapS s' g' t => if t.grp = 31 then .next s
        else .next ((s'.setGroup ((s'.current g g').sequenced g i {})).trapWord ((s'.current g g').sequenced g i {}) i t)
      | .done s' g' pc w => match s'.rowWrites g g' i w with
        | .error t => .next (s.takeTrap g { t with pc := g.pc })
        | .ok s1 => .next (s1.retire ((s'.current g g').sequenced g i w) i pc w)) := by
  have hr : (isVector i && decide (32 ≤ g.fqUsed)) = false := by
    cases hv : isVector i with
    | false => rfl
    | true => simpa using h.room hv
  have hs : (g.speculative && s.log g.id.vf != 0) = false := by
    cases hv : g.speculative with
    | false => rfl
    | true => simpa using h.checked hv
  have hf : (g.failed.find? fun x => x.regs.any fun k => (wordUses g i).reads.contains k.1) = none := by
    rw [List.find?_eq_none]
    intro x hx hc
    rw [List.any_eq_true] at hc
    obtain ⟨k, hk, hc⟩ := hc
    exact h.whole x hx k hk (by simpa using hc)
  unfold runWord
  simp only [h.cur, h.unlogged, h.free, hr, hs, hf, Bool.or_false, Bool.false_eq_true, if_false] <;> rfl

/-- The check of register rows passes where the group is no matrix group of a run with DET = 1. -/
theorem State.rowWrites_plain {s : State} {g : Group} (g' : Group) (i : Instr) (w : Writes)
    (h : s.det g.id.vf = true → ∀ t, s.team? g.id.team = some t → g.id.grpid ∉ t.mx) : s.rowWrites g g' i w = .ok s := by
  unfold State.rowWrites
  split
  · rename_i hc
    rw [Bool.and_eq_true] at hc
    cases ht : s.team? g.id.team with
    | none => simp [ht] at hc
    | some t => exact absurd (by simpa [ht] using hc.2) (h hc.1 t ht)
  · rfl

/-- What a word's writes change of the group that it leaves: of pending operations, what they still return to and where they stand. -/
theorem Group.sequenced_ops (g' g : Group) (i : Instr) (w : Writes) :
    (g'.sequenced g i w).ops.map MemOp.bare = g'.ops.map MemOp.bare ∧ ∃ l, g'.sequenced g i w = { g' with ops := l } := by
  have h1 (n : Nat) (ks : List (Nat × Nat)) : (g'.supersede n ks).ops.map MemOp.bare = g'.ops.map MemOp.bare := by
    unfold Group.supersede
    simp only [List.map_map]
    refine List.map_congr_left fun o _ => ?_
    simp only [Function.comp]
    split <;> rfl
  unfold Group.sequenced
  simp only
  split
  · refine ⟨?_, _, rfl⟩
    simp only [List.map_map]
    refine Eq.trans (List.map_congr_left fun o _ => ?_) (h1 _ _)
    simp only [Function.comp]
    split <;> rfl
  · exact ⟨h1 _ _, _, rfl⟩

/-- A word whose effect touches no more than its group's registers retires. -/
theorem runWord_done {s : State} {g : Group} {i : Instr} {f : State → Group → WordRes} {g' : Group} {pc : Word} {w : Writes}
    (h : Issues s g i) (hf : f s (g.latched i) = .done s g' pc w) :
    runWord s i f = .next (s.retire (g'.sequenced g i w) i pc w) := by
  rw [runWord_issues f h, hf]
  simp only [State.rowWrites_plain g' i w h.rows, State.current_same (State.curGroup_key h.cur)]

-- ## tables of the state

/-- Replacing the entries of one key in a table: the key finds the new entry where it found one, and the other keys find what they did. -/
theorem find?_replace {α : Type} (key : α → Nat) (a : α) (n : Nat) (l : List α) :
    (l.map fun u => if key u = key a then a else u).find? (fun u => key u == n)
      = if key a = n then (l.find? fun u => key u == n).map (fun _ => a) else l.find? fun u => key u == n := by
  induction l with
  | nil => simp
  | cons u r ih =>
    rw [List.map_cons, List.find?_cons, List.find?_cons, ih]
    by_cases h : key u = key a
    · rw [if_pos h]
      by_cases hn : key a = n
      · simp [hn, h]
      · have : (key u == n) = false := by simpa [h] using hn
        have h' : (key a == n) = false := by simpa using hn
        simp [hn, this, h']
    · rw [if_neg h]
      by_cases hn : key a = n
      · have : (key u == n) = false := by simpa [hn] using h
        simp [hn, this]
      · simp [hn]

theorem State.group?_setGroup {s : State} {g h : Group} (hk : s.group? g.id.key = some h) : (s.setGroup g).group? g.id.key = some g := by
  have := find?_replace (fun u : Group => u.id.key) g g.id.key s.groups
  rw [if_pos rfl] at this
  unfold State.group? State.setGroup at *
  simp only at *
  rw [this, hk]
  rfl

theorem State.group?_setGroup_ne {s : State} {g : Group} {k : Nat} (hk : k ≠ g.id.key) : (s.setGroup g).group? k = s.group? k := by
  have := find?_replace (fun u : Group => u.id.key) g k s.groups
  unfold State.group? State.setGroup
  simp only at *
  rw [this, if_neg fun h => hk h.symm]

theorem State.vf_num (s : State) (n : Nat) : (s.vf n).num = n := by
  unfold State.vf
  cases h : s.vfs.find? fun v => v.num == n with
  | none => rfl
  | some v => simpa using List.find?_some h

theorem State.part_num (s : State) (n : Nat) : (s.part n).num = n := by
  unfold State.part
  cases h : s.parts.find? fun v => v.num == n with
  | none => rfl
  | some v => simpa using List.find?_some h

/-- A virtual function that is written back with its number changes what its number finds, to a value equal up to what `f` forgets. -/
theorem State.vf_setVf {α : Type} (f : Vf → α) (s : State) (v : Vf) (h : f v = f (s.vf v.num)) (n : Nat) :
    f ((s.setVf v).vf n) = f (s.vf n) := by
  have := find?_replace Vf.num v n s.vfs
  unfold State.setVf
  unfold State.vf at *
  simp only at *
  rw [this]
  by_cases hn : v.num = n
  · rw [if_pos hn]
    subst hn
    cases hf : s.vfs.find? fun u => u.num == v.num with
    | none => rfl
    | some u => simpa [hf] using h
  · rw [if_neg hn]

theorem State.part_setPart {α : Type} (f : Partition → α) (s : State) (v : Partition) (h : f v = f (s.part v.num)) (n : Nat) :
    f ((s.setPart v).part n) = f (s.part n) := by
  have := find?_replace Partition.num v n s.parts
  unfold State.setPart
  unfold State.part at *
  simp only at *
  rw [this]
  by_cases hn : v.num = n
  · rw [if_pos hn]
    subst hn
    cases hf : s.parts.find? fun u => u.num == v.num with
    | none => rfl
    | some u => simpa [hf] using h
  · rw [if_neg hn]

theorem State.team?_setTeam {α : Type} (f : Team → α) (s : State) (v : Team) (h : (s.team? v.key).map f = some (f v)) (k : Nat) :
    ((s.setTeam v).team? k).map f = (s.team? k).map f := by
  have := find?_replace Team.key v k s.teams
  unfold State.setTeam
  unfold State.team? at *
  simp only at *
  rw [this]
  by_cases hn : v.key = k
  · rw [if_pos hn]
    subst hn
    rw [h]
    cases hf : s.teams.find? fun u => u.key == v.key with
    | none => rw [hf] at h; cases h
    | some u => rfl
  · rw [if_neg hn]

theorem State.group?_congr {s t : State} (h : t.groups = s.groups) (k : Nat) : t.group? k = s.group? k := by
  unfold State.group?; rw [h]

-- ## retiring

/-- What counting, sampling and the progress of a replay leave alone. -/
structure OnlyCounts (s t : State) : Prop where
  groups : t.groups = s.groups
  same : SameMachine s t
  regs : SameRegisters s t

theorem SameRegisters.refl (s : State) : SameRegisters s s := ⟨fun _ => rfl, fun _ => rfl, fun _ => rfl⟩

theorem SameRegisters.trans {s t u : State} (a : SameRegisters s t) (b : SameRegisters t u) : SameRegisters s u :=
  ⟨fun n => (b.vfs n).trans (a.vfs n), fun n => (b.parts n).trans (a.parts n), fun k => (b.teams k).trans (a.teams k)⟩

theorem SameMachine.refl (s : State) : SameMachine s s := ⟨rfl, rfl, rfl, ⟨rfl, rfl⟩, rfl, rfl, rfl, rfl, rfl, rfl⟩

theorem OnlyCounts.refl (s : State) : OnlyCounts s s := ⟨rfl, SameMachine.refl s, SameRegisters.refl s⟩

theorem SameMachine.trans {s t u : State} (a : SameMachine s t) (b : SameMachine t u) : SameMachine s u :=
  ⟨b.mem.trans a.mem, b.stash.trans a.stash, b.rows.trans a.rows, ⟨b.tiles.1.trans a.tiles.1, b.tiles.2.trans a.tiles.2⟩,
    b.locks.trans a.locks, b.copies.trans a.copies, b.clusters.trans a.clusters, b.links.trans a.links, b.fabric.trans a.fabric,
    b.device.trans a.device⟩

theorem OnlyCounts.trans {s t u : State} (a : OnlyCounts s t) (b : OnlyCounts t u) : OnlyCounts s u :=
  ⟨b.groups.trans a.groups, a.same.trans b.same, a.regs.trans b.regs⟩

/-- The registers of a partition are found under its number. -/
theorem State.partOf_part {s : State} {vf : Nat} {p : Partition} (h : s.partOf vf = some p) : s.part p.num = p := by
  unfold State.partOf at h
  cases hf : s.parts.find? fun p => (p.slotOf vf).isSome with
  | none => simp [hf] at h
  | some q =>
    rw [hf, Option.map_some] at h
    injection h with h
    rw [← h, State.part_num]

theorem State.setVf_counts (s : State) {u v : Vf} (hu : s.vf u.num = u) (hn : v.num = u.num) (h : v.uncounted = u.uncounted) :
    OnlyCounts s (s.setVf v) :=
  ⟨rfl, ⟨rfl, rfl, rfl, ⟨rfl, rfl⟩, rfl, rfl, rfl, rfl, rfl, rfl⟩,
    State.vf_setVf Vf.uncounted s v (by rw [hn, hu, h]), fun _ => rfl, fun _ => rfl⟩

theorem State.setPart_counts (s : State) {u v : Partition} (hu : s.part u.num = u) (hn : v.num = u.num) (h : v.uncounted = u.uncounted) :
    OnlyCounts s (s.setPart v) :=
  ⟨rfl, ⟨rfl, rfl, rfl, ⟨rfl, rfl⟩, rfl, rfl, rfl, rfl, rfl, rfl⟩, fun _ => rfl,
    State.part_setPart Partition.uncounted s v (by rw [hn, hu, h]), fun _ => rfl⟩

theorem State.setTeam_counts (s : State) {u v : Team} (hu : s.team? u.key = some u) (hn : v.key = u.key) (h : v.uncounted = u.uncounted) :
    OnlyCounts s (s.setTeam v) :=
  ⟨rfl, ⟨rfl, rfl, rfl, ⟨rfl, rfl⟩, rfl, rfl, rfl, rfl, rfl, rfl⟩, fun _ => rfl, fun _ => rfl,
    State.team?_setTeam Team.uncounted s v (by rw [hn, hu, h]; rfl)⟩

theorem State.count_counts (s : State) (vf ev n : Nat) : OnlyCounts s (s.count vf ev n) := by
  unfold State.count
  simp only
  split
  · exact State.setVf_counts s (u := s.vf vf) (by rw [State.vf_num]) rfl rfl
  · exact OnlyCounts.refl s

theorem State.progressed_counts (s : State) (vf : Nat) : OnlyCounts s (s.progressed vf) := by
  unfold State.progressed
  split
  · split
    · rename_i p hp
      exact State.setPart_counts s (u := p) (State.partOf_part hp) rfl rfl
    · exact OnlyCounts.refl s
  · exact OnlyCounts.refl s

theorem State.sampleWord_counts (s : State) (g : Group) (i : Instr) : OnlyCounts s (s.sampleWord g i) := by
  unfold State.sampleWord
  split
  · rename_i p _ hp
    simp only
    split
    · exact OnlyCounts.refl s
    · have h (q : Sparse Nat) : OnlyCounts s (s.setPart { p with sampled := q }) :=
        State.setPart_counts s (u := p) (State.partOf_part hp) rfl rfl
      split
      · exact h _
      · exact OnlyCounts.trans (h _) ⟨rfl, ⟨rfl, rfl, rfl, ⟨rfl, rfl⟩, rfl, rfl, rfl, rfl, rfl, rfl⟩, fun _ => rfl, fun _ => rfl, fun _ => rfl⟩
  · exact OnlyCounts.refl s

/-- The group as it stands after one of its words has retired. -/
def Group.after (s : State) (g : Group) (i : Instr) (pc : Word) (w : Writes) : Group :=
  let ks := w.keys ++ (g.ops.filter fun o => o.ltime == g.ltime).flatMap MemOp.targets
  { g with
    pc := pc, ltime := g.ltime + 1, exempt := false, again := false
    enacc := g.enacc + classWeight (s.weights g.id.vf) (wordClass i)
    failed := g.failed.map fun f => { f with regs := f.regs.filter fun k => !ks.contains k }
    fqHeld := if isVector i then heldMore g.fqHeld (isMemClass i) else g.fqHeld
    fqSince := if isVector i then g.fqSince + 1 else g.fqSince
    dig := if s.log g.id.vf = 0 then g.dig else g.dig ++ [w.item g] }

/-- Retiring changes the one group, and counts. -/
theorem State.retire_counts (s : State) (g : Group) (i : Instr) (pc : Word) (w : Writes) :
    OnlyCounts (s.setGroup (g.after s i pc w)) (s.retire g i pc w) := by
  have h1 : OnlyCounts (s.setGroup (g.after s i pc w))
      ((((s.sampleWord g i).setGroup (g.after s i pc w)).count g.id.vf 1 1).progressed g.id.vf) := by
    refine OnlyCounts.trans ?_ (State.progressed_counts _ _)
    refine OnlyCounts.trans ?_ (State.count_counts _ _ _ _)
    have h := State.sampleWord_counts s g i
    exact ⟨by unfold State.setGroup; simp only [h.groups], ⟨h.same.mem, h.same.stash, h.same.rows, h.same.tiles, h.same.locks, h.same.copies,
      h.same.clusters, h.same.links, h.same.fabric, h.same.device⟩, h.regs.vfs, h.regs.parts, h.regs.teams⟩
  unfold State.retire
  simp only
  split
  · exact h1
  · rename_i u hu
    have hk : u.key = g.id.team := by simpa using List.find?_some hu
    exact h1.trans (State.setTeam_counts _ (u := u) (hk ▸ hu) rfl rfl)

/-- A retired word: the group after it, its next address and time, and everything else as before. -/
theorem State.retire_retired {s : State} {g0 g : Group} (i : Instr) (pc : Word) (w : Writes)
    (h0 : s.group? g0.id.key = some g0) (hk : g.id.key = g0.id.key) (ht : g.ltime = g0.ltime) :
    Retired s (s.retire g i pc w) g0 (g.after s i pc w) pc := by
  have h := State.retire_counts s g i pc w
  have hk' : (g.after s i pc w).id.key = g0.id.key := hk
  have hs : SameMachine s (s.setGroup (g.after s i pc w)) := ⟨rfl, rfl, rfl, ⟨rfl, rfl⟩, rfl, rfl, rfl, rfl, rfl, rfl⟩
  refine ⟨?_, rfl, ?_, hs.trans h.same, ⟨h.regs.vfs, h.regs.parts, h.regs.teams⟩, fun k hne => ?_⟩
  · rw [State.group?_congr h.groups, ← hk']
    exact State.group?_setGroup (hk'.symm ▸ h0)
  · show g.ltime + 1 = g0.ltime + 1
    rw [ht]
  · rw [State.group?_congr h.groups]
    exact State.group?_setGroup_ne (by rw [hk']; exact hne)

end Sys2Proof.Machine
end

