-- ==== Sys2Proof/Laws/Memory.lean ====
section
/-! SUPPORT. The canonical form of sparse maps and of memory: every operation keeps it, and a read finds what was written. -/
namespace Sys2Proof.Machine

theorem Sparse.wf_iff {α : Type} [DecidableEq α] (d : α) (m : Sparse α) :
    Sparse.wf d m = true ↔ m.Pairwise (fun a b => a.1 < b.1) ∧ ∀ e ∈ m, e.2 ≠ d := by
  induction m with
  | nil => simp [Sparse.wf]
  | cons a r ih =>
    obtain ⟨k, v⟩ := a
    cases r with
    | nil => simp [Sparse.wf]
    | cons b r =>
      obtain ⟨k', v'⟩ := b
      simp only [Sparse.wf, Bool.and_eq_true, decide_eq_true_eq, ih, List.pairwise_cons, List.mem_cons, forall_eq_or_imp]
      constructor
      · rintro ⟨⟨h1, h2⟩, ⟨h3, h4⟩, h5, h6⟩
        exact ⟨⟨⟨h1, fun e he => Nat.lt_trans h1 (h3 e he)⟩, h3, h4⟩, h2, h5, h6⟩
      · rintro ⟨⟨⟨h1, _⟩, h3, h4⟩, h2, h5, h6⟩
        exact ⟨⟨h1, h2⟩, ⟨h3, h4⟩, h5, h6⟩

theorem Sparse.filter_wf {α : Type} [DecidableEq α] (d : α) (m : Sparse α) (p : Nat × α → Bool) (h : Sparse.wf d m = true) :
    Sparse.wf d (m.filter p) = true := by
  rw [Sparse.wf_iff] at h ⊢
  exact ⟨h.1.filter p, fun e he => h.2 e (List.mem_filter.1 he).1⟩

/-- An entry of a map after a put is the new one or an old one. -/
theorem Sparse.mem_put {α : Type} (m : Sparse α) (k : Nat) (v : α) (e : Nat × α) (h : e ∈ Sparse.put m k v) : e = (k, v) ∨ e ∈ m := by
  induction m with
  | nil => exact .inl (by simpa [Sparse.put] using h)
  | cons a r ih =>
    obtain ⟨k', v'⟩ := a
    unfold Sparse.put at h
    split at h
    · exact List.mem_cons.1 h
    · rcases List.mem_cons.1 h with h | h
      · exact .inr (h ▸ List.mem_cons_self)
      · exact (ih h).imp id (List.mem_cons_of_mem _)

theorem Sparse.put_pairwise {α : Type} (m : Sparse α) (k : Nat) (v : α) (h : m.Pairwise fun a b => a.1 < b.1) (hk : ∀ e ∈ m, e.1 ≠ k) :
    (Sparse.put m k v).Pairwise fun a b => a.1 < b.1 := by
  induction m with
  | nil => simp [Sparse.put]
  | cons a r ih =>
    obtain ⟨k', v'⟩ := a
    rw [List.pairwise_cons] at h
    have h0 := hk (k', v') List.mem_cons_self
    unfold Sparse.put
    split
    · rename_i hlt
      refine List.pairwise_cons.2 ⟨fun e he => ?_, List.pairwise_cons.2 h⟩
      rcases List.mem_cons.1 he with he | he
      · subst he; exact hlt
      · exact Nat.lt_trans hlt (h.1 e he)
    · refine List.pairwise_cons.2 ⟨fun e he => ?_, ih h.2 fun e he => hk e (List.mem_cons_of_mem _ he)⟩
      rcases Sparse.mem_put r k v e he with he | he
      · subst he; simp only at h0 ⊢; omega
      · exact h.1 e he

theorem Sparse.set_wf {α : Type} [DecidableEq α] (d : α) (m : Sparse α) (k : Nat) (v : α) (h : Sparse.wf d m = true) :
    Sparse.wf d (Sparse.set d m k v) = true := by
  have hf := Sparse.filter_wf d m (fun e => e.1 != k) h
  unfold Sparse.set
  simp only
  split
  · exact hf
  · rename_i hv
    rw [Sparse.wf_iff] at hf ⊢
    refine ⟨Sparse.put_pairwise _ _ _ hf.1 fun e he => by simpa using (List.mem_filter.1 he).2, fun e he => ?_⟩
    rcases Sparse.mem_put _ k v e he with he | he
    · subst he; exact hv
    · exact hf.2 e he

theorem Sparse.get_put {α : Type} (d : α) (m : Sparse α) (k j : Nat) (v : α) (hk : ∀ e ∈ m, e.1 ≠ k) :
    Sparse.get d (Sparse.put m k v) j = if j = k then v else Sparse.get d m j := by
  induction m with
  | nil => rfl
  | cons a r ih =>
    obtain ⟨k', v'⟩ := a
    have h0 : k' ≠ k := hk (k', v') List.mem_cons_self
    unfold Sparse.put
    split
    · simp only [Sparse.get]
    · simp only [Sparse.get]
      rw [ih fun e he => hk e (List.mem_cons_of_mem _ he)]
      by_cases h1 : j = k'
      · subst h1; rw [if_pos rfl, if_neg h0, if_pos rfl]
      · rw [if_neg h1, if_neg h1]

theorem Sparse.get_filter {α : Type} (d : α) (m : Sparse α) (k j : Nat) :
    Sparse.get d (m.filter fun e => e.1 != k) j = if j = k then d else Sparse.get d m j := by
  induction m with
  | nil => simp [Sparse.get]
  | cons a r ih =>
    obtain ⟨k', v'⟩ := a
    by_cases h : k' = k
    · subst h
      rw [List.filter_cons_of_neg (by simp), ih]
      simp only [Sparse.get]
      by_cases hj : j = k'
      · rw [if_pos hj, if_pos hj]
      · rw [if_neg hj, if_neg hj, if_neg hj]
    · rw [List.filter_cons_of_pos (by simpa using h)]
      simp only [Sparse.get]
      rw [ih]
      by_cases hj : j = k'
      · subst hj; rw [if_pos rfl, if_neg h, if_pos rfl]
      · rw [if_neg hj, if_neg hj]

/-- A map reads as written. -/
theorem Sparse.get_set {α : Type} [DecidableEq α] (d : α) (m : Sparse α) (k j : Nat) (v : α) :
    Sparse.get d (Sparse.set d m k v) j = if j = k then v else Sparse.get d m j := by
  unfold Sparse.set
  simp only
  split
  · rename_i hv
    rw [Sparse.get_filter, hv]
  · rw [Sparse.get_put _ _ _ _ _ fun e he => by simpa using (List.mem_filter.1 he).2, Sparse.get_filter]
    by_cases hj : j = k
    · rw [if_pos hj, if_pos hj]
    · rw [if_neg hj, if_neg hj, if_neg hj]

theorem Memory.write_wf (m : List Host.Cell) (a : Nat) (b : Byte) (h : Memory.wf m = true) : Memory.wf (Memory.write m a b) = true :=
  Sparse.set_wf _ _ _ _ h

theorem Memory.writeN_wf (m : List Host.Cell) (a : Nat) (bs : List Byte) (h : Memory.wf m = true) :
    Memory.wf (Memory.writeN m a bs) = true := by
  induction bs generalizing m a with
  | nil => exact h
  | cons b bs ih => exact ih _ _ (Memory.write_wf m a b h)

theorem Memory.write64_wf (m : List Host.Cell) (a : Nat) (w : Word) (h : Memory.wf m = true) : Memory.wf (Memory.write64 m a w) = true :=
  Memory.writeN_wf _ _ _ h

theorem Memory.filter_wf (m : List Host.Cell) (p : Host.Cell → Bool) (h : Memory.wf m = true) : Memory.wf (m.filter p) = true :=
  Sparse.filter_wf _ _ _ h

theorem Memory.read_write (m : List Host.Cell) (a c : Nat) (b : Byte) :
    Memory.read (Memory.write m a b) c = if c = a then b else Memory.read m c :=
  Sparse.get_set _ _ _ _ _

/-- A byte of memory after a write of several bytes. -/
theorem Memory.read_writeN (m : List Host.Cell) (a c : Nat) (bs : List Byte) :
    Memory.read (Memory.writeN m a bs) c = if a ≤ c ∧ c < a + bs.length then bs.getD (c - a) 0 else Memory.read m c := by
  induction bs generalizing m a with
  | nil =>
    rw [if_neg (by simp only [List.length_nil]; omega)]
    rfl
  | cons b bs ih =>
    simp only [Memory.writeN, List.length_cons]
    rw [ih, Memory.read_write m a c b]
    by_cases h1 : a + 1 ≤ c ∧ c < a + 1 + bs.length
    · have h2 : a ≤ c ∧ c < a + (bs.length + 1) := by omega
      rw [if_pos h1, if_pos h2]
      have h3 : c - a = (c - (a + 1)) + 1 := by omega
      rw [h3, List.getD_cons_succ]
    · rw [if_neg h1]
      by_cases h4 : c = a
      · subst h4
        simp
      · have h2 : ¬ (a ≤ c ∧ c < a + (bs.length + 1)) := by omega
        rw [if_neg h4, if_neg h2]

theorem leBytes_length (n x : Nat) : (leBytes n x).length = n := by
  induction n generalizing x with
  | zero => rfl
  | succ n ih => simp [leBytes, ih]

/-- The number of the low bytes of a number. -/
theorem leNat_leBytes (n x : Nat) : leNat (leBytes n x) = x % 256 ^ n := by
  induction n generalizing x with
  | zero => simp [leBytes, leNat, Nat.mod_one]
  | succ n ih =>
    have h : (BitVec.ofNat 8 x).toNat = x % 256 := rfl
    rw [leBytes, leNat, ih, h, Nat.pow_succ, Nat.mul_comm (256 ^ n) 256, Nat.mod_mul]

/-- Bytes that are read are those of single reads. -/
theorem Memory.readN_congr (m m' : List Host.Cell) (a n : Nat) (h : ∀ c, a ≤ c → c < a + n → Memory.read m c = Memory.read m' c) :
    Memory.readN m a n = Memory.readN m' a n := by
  induction n generalizing a with
  | zero => rfl
  | succ n ih => rw [Memory.readN, Memory.readN, h a (by omega) (by omega), ih (a + 1) fun c h1 h2 => h c (by omega) (by omega)]

/-- Bytes read back from where they were written. -/
theorem Memory.readN_writeN (m : List Host.Cell) (a : Nat) (bs : List Byte) : Memory.readN (Memory.writeN m a bs) a bs.length = bs := by
  induction bs generalizing m a with
  | nil => rfl
  | cons b bs ih =>
    rw [List.length_cons, Memory.readN, Memory.writeN, ih]
    rw [Memory.read_writeN, if_neg (by omega), Memory.read_write, if_pos rfl]

/-- A word read back from where it was written. -/
theorem Memory.read64_write64 (m : List Host.Cell) (a : Nat) (w : Word) : Memory.read64 (Memory.write64 m a w) a = w := by
  have h := Memory.readN_writeN m a (leBytes 8 w.toNat)
  rw [leBytes_length] at h
  unfold Memory.read64 Memory.write64
  rw [h, leNat_leBytes]
  apply BitVec.eq_of_toNat_eq
  have hw : w.toNat < 18446744073709551616 := w.isLt
  rw [BitVec.toNat_ofNat]
  omega

/-- A word that does not touch the bytes written. -/
theorem Memory.read64_write64_off (m : List Host.Cell) (a b : Nat) (w : Word) (h : a + 8 ≤ b ∨ b + 8 ≤ a) :
    Memory.read64 (Memory.write64 m a w) b = Memory.read64 m b := by
  unfold Memory.read64 Memory.write64
  rw [Memory.readN_congr _ m b 8 fun c h1 h2 => ?_]
  rw [Memory.read_writeN, leBytes_length, if_neg (by omega)]

end Sys2Proof.Machine
end

