-- ==== Sys2Proof/Laws/PerInstr.lean ====
section
/-! SUPPORT. The family Encoded: the word of an instruction holds its form in bits 63:62 and its operation in bits 61:54 (R56);
an event has no word. -/
namespace Sys2Proof.Laws

/-- Bits 63:54 of the word of a shape: form and operation; for the P-form the form and the high half's operation. -/
def code : Enc.Shape → Option (BitVec 10)
  | .a op _ _ | .c op _ _ | .m op _ _ | .e op _ _ | .q op _ _ => some (0#2 ++ BitVec.ofNat 8 op)
  | .i op _ _ => some (2#2 ++ BitVec.ofNat 8 op)
  | .s op _ _ => some (3#2 ++ BitVec.ofNat 8 op)
  | .p hi _ => some (1#2 ++ (hi.op ++ hi.d.extractLsb' 8 2))
  | .event => none

theorem top_of (w : BitVec 64) (x : BitVec 10)
    (h : ∀ i, i = 0 ∨ i = 1 ∨ i = 2 ∨ i = 3 ∨ i = 4 ∨ i = 5 ∨ i = 6 ∨ i = 7 ∨ i = 8 ∨ i = 9 → w.getLsbD (54 + i) = x.getLsbD i) :
    w.extractLsb' 54 10 = x :=
  BitVec.eq_of_getLsbD_eq fun i hi => by
    rw [BitVec.getLsbD_extractLsb', decide_eq_true hi, Bool.true_and]
    exact h i (by omega)

/-- The packed word of a shape holds its form and operation. -/
theorem pack_code (sh : Enc.Shape) : (Enc.pack sh).map (fun w => w.extractLsb' 54 10) = code sh := by
  cases sh with
  | event => rfl
  | p hi lo =>
    simp only [Enc.pack, Enc.packHalf, code, Option.map_some]
    congr 1
    exact top_of _ _ fun i h => by
      simp only [BitVec.getLsbD_append, BitVec.getLsbD_extractLsb']
      rcases h with rfl | rfl | rfl | rfl | rfl | rfl | rfl | rfl | rfl | rfl <;> simp
  | a op r o | c op r o | m op r o | e op r o | q op r o | i op r o | s op r o =>
    simp only [Enc.pack, code, Option.map_some]
    congr 1
    exact top_of _ _ fun i h => by
      simp only [BitVec.getLsbD_append, BitVec.getLsbD_extractLsb']
      rcases h with rfl | rfl | rfl | rfl | rfl | rfl | rfl | rfl | rfl | rfl <;> simp

namespace Encoded

/-- The word of the instruction, where it has one, holds the form and the operation of its shape. -/
def Statement (i : Instr) : Prop := (encode i).map (fun w => w.extractLsb' 54 10) = code (Enc.shape i)

theorem fadd {a} : Statement (.fadd a) := pack_code _
theorem fsub {a} : Statement (.fsub a) := pack_code _
theorem fmul {a} : Statement (.fmul a) := pack_code _
theorem faddImm {a} : Statement (.faddImm a) := pack_code _
theorem fsubImm {a} : Statement (.fsubImm a) := pack_code _
theorem fmulImm {a} : Statement (.fmulImm a) := pack_code _
theorem fma {a} : Statement (.fma a) := pack_code _
theorem fms {a} : Statement (.fms a) := pack_code _
theorem fnma {a} : Statement (.fnma a) := pack_code _
theorem fmin {a} : Statement (.fmin a) := pack_code _
theorem fmax {a} : Statement (.fmax a) := pack_code _
theorem fminImm {a} : Statement (.fminImm a) := pack_code _
theorem fmaxImm {a} : Statement (.fmaxImm a) := pack_code _
theorem fabs {a} : Statement (.fabs a) := pack_code _
theorem fneg {a} : Statement (.fneg a) := pack_code _
theorem fcmpEq {a} : Statement (.fcmpEq a) := pack_code _
theorem fcmpLt {a} : Statement (.fcmpLt a) := pack_code _
theorem fcmpLe {a} : Statement (.fcmpLe a) := pack_code _
theorem fcmpUn {a} : Statement (.fcmpUn a) := pack_code _
theorem fsel {a} : Statement (.fsel a) := pack_code _
theorem fcvt {a} : Statement (.fcvt a) := pack_code _
theorem frnd {a} : Statement (.frnd a) := pack_code _
theorem fsqrt {a} : Statement (.fsqrt a) := pack_code _
theorem fdiv {a} : Statement (.fdiv a) := pack_code _
theorem fexp2q {a} : Statement (.fexp2q a) := pack_code _
theorem fexp2r {a} : Statement (.fexp2r a) := pack_code _
theorem flog2q {a} : Statement (.flog2q a) := pack_code _
theorem flog2r {a} : Statement (.flog2r a) := pack_code _
theorem fsinpq {a} : Statement (.fsinpq a) := pack_code _
theorem fsinpr {a} : Statement (.fsinpr a) := pack_code _
theorem fcospq {a} : Statement (.fcospq a) := pack_code _
theorem fcospr {a} : Statement (.fcospr a) := pack_code _
theorem ftanhq {a} : Statement (.ftanhq a) := pack_code _
theorem ftanhr {a} : Statement (.ftanhr a) := pack_code _
theorem frcpq {a} : Statement (.frcpq a) := pack_code _
theorem frcpr {a} : Statement (.frcpr a) := pack_code _
theorem frsqq {a} : Statement (.frsqq a) := pack_code _
theorem frsqr {a} : Statement (.frsqr a) := pack_code _
theorem fpack {a} : Statement (.fpack a) := pack_code _
theorem funpack {a} : Statement (.funpack a) := pack_code _
theorem iadd {a} : Statement (.iadd a) := pack_code _
theorem isub {a} : Statement (.isub a) := pack_code _
theorem imul {a} : Statement (.imul a) := pack_code _
theorem imulh {a} : Statement (.imulh a) := pack_code _
theorem imad {a} : Statement (.imad a) := pack_code _
theorem iand {a} : Statement (.iand a) := pack_code _
theorem ior {a} : Statement (.ior a) := pack_code _
theorem ixor {a} : Statement (.ixor a) := pack_code _
theorem inot {a} : Statement (.inot a) := pack_code _
theorem ishl {a} : Statement (.ishl a) := pack_code _
theorem ishr {a} : Statement (.ishr a) := pack_code _
theorem isra {a} : Statement (.isra a) := pack_code _
theorem imin {a} : Statement (.imin a) := pack_code _
theorem imax {a} : Statement (.imax a) := pack_code _
theorem iminu {a} : Statement (.iminu a) := pack_code _
theorem imaxu {a} : Statement (.imaxu a) := pack_code _
theorem iabs {a} : Statement (.iabs a) := pack_code _
theorem ineg {a} : Statement (.ineg a) := pack_code _
theorem ipopc {a} : Statement (.ipopc a) := pack_code _
theorem iclz {a} : Statement (.iclz a) := pack_code _
theorem ibrev {a} : Statement (.ibrev a) := pack_code _
theorem isel {a} : Statement (.isel a) := pack_code _
theorem icmpEq {a} : Statement (.icmpEq a) := pack_code _
theorem icmpNe {a} : Statement (.icmpNe a) := pack_code _
theorem icmpLt {a} : Statement (.icmpLt a) := pack_code _
theorem icmpLe {a} : Statement (.icmpLe a) := pack_code _
theorem icmpLtu {a} : Statement (.icmpLtu a) := pack_code _
theorem icmpLeu {a} : Statement (.icmpLeu a) := pack_code _
theorem iaddImm {a} : Statement (.iaddImm a) := pack_code _
theorem isubImm {a} : Statement (.isubImm a) := pack_code _
theorem imulImm {a} : Statement (.imulImm a) := pack_code _
theorem iandImm {a} : Statement (.iandImm a) := pack_code _
theorem iorImm {a} : Statement (.iorImm a) := pack_code _
theorem ixorImm {a} : Statement (.ixorImm a) := pack_code _
theorem ishlImm {a} : Statement (.ishlImm a) := pack_code _
theorem ishrImm {a} : Statement (.ishrImm a) := pack_code _
theorem israImm {a} : Statement (.israImm a) := pack_code _
theorem iminImm {a} : Statement (.iminImm a) := pack_code _
theorem imaxImm {a} : Statement (.imaxImm a) := pack_code _
theorem iminuImm {a} : Statement (.iminuImm a) := pack_code _
theorem imaxuImm {a} : Statement (.imaxuImm a) := pack_code _
theorem vli {a} : Statement (.vli a) := pack_code _
theorem pair {a b} : Statement (.pair a b) := pack_code _
theorem vmov {a} : Statement (.vmov a) := pack_code _
theorem vperm {a} : Statement (.vperm a) := pack_code _
theorem vredx {a} : Statement (.vredx a) := pack_code _
theorem vscan {a} : Statement (.vscan a) := pack_code _
theorem vlane {a} : Statement (.vlane a) := pack_code _
theorem vput {a} : Statement (.vput a) := pack_code _
theorem pand {a} : Statement (.pand a) := pack_code _
theorem por {a} : Statement (.por a) := pack_code _
theorem pxor {a} : Statement (.pxor a) := pack_code _
theorem pnot {a} : Statement (.pnot a) := pack_code _
theorem pmov {a} : Statement (.pmov a) := pack_code _
theorem pany {a} : Statement (.pany a) := pack_code _
theorem pall {a} : Statement (.pall a) := pack_code _
theorem ppopc {a} : Statement (.ppopc a) := pack_code _
theorem pfirst {a} : Statement (.pfirst a) := pack_code _
theorem zset {a} : Statement (.zset a) := pack_code _
theorem zget {a} : Statement (.zget a) := pack_code _
theorem zmov {a} : Statement (.zmov a) := pack_code _
theorem xset {a} : Statement (.xset a) := pack_code _
theorem xsetImm {a} : Statement (.xsetImm a) := pack_code _
theorem xidx {a} : Statement (.xidx a) := pack_code _
theorem xinc {a} : Statement (.xinc a) := pack_code _
theorem xget {a} : Statement (.xget a) := pack_code _
theorem kset {a} : Statement (.kset a) := pack_code _
theorem fmtset {a} : Statement (.fmtset a) := pack_code _
theorem fmtget {a} : Statement (.fmtget a) := pack_code _
theorem vldG {a} : Statement (.vldG a) := pack_code _
theorem vstG {a} : Statement (.vstG a) := pack_code _
theorem vldS {a} : Statement (.vldS a) := pack_code _
theorem vstS {a} : Statement (.vstS a) := pack_code _
theorem vgath {a} : Statement (.vgath a) := pack_code _
theorem vscat {a} : Statement (.vscat a) := pack_code _
theorem stmap {a} : Statement (.stmap a) := pack_code _
theorem stunmap {a} : Statement (.stunmap a) := pack_code _
theorem stflush {a} : Statement (.stflush a) := pack_code _
theorem stinv {a} : Statement (.stinv a) := pack_code _
theorem mboxPut {a} : Statement (.mboxPut a) := pack_code _
theorem mboxGet {a} : Statement (.mboxGet a) := pack_code _
theorem fence {a} : Statement (.fence a) := pack_code _
theorem vatomAdd {a} : Statement (.vatomAdd a) := pack_code _
theorem vatomMin {a} : Statement (.vatomMin a) := pack_code _
theorem vatomMax {a} : Statement (.vatomMax a) := pack_code _
theorem vatomAnd {a} : Statement (.vatomAnd a) := pack_code _
theorem vatomOr {a} : Statement (.vatomOr a) := pack_code _
theorem vatomXor {a} : Statement (.vatomXor a) := pack_code _
theorem vatomXchg {a} : Statement (.vatomXchg a) := pack_code _
theorem vatomCas {a} : Statement (.vatomCas a) := pack_code _
theorem vredAdd {a} : Statement (.vredAdd a) := pack_code _
theorem vredMin {a} : Statement (.vredMin a) := pack_code _
theorem vredMax {a} : Statement (.vredMax a) := pack_code _
theorem vredAnd {a} : Statement (.vredAnd a) := pack_code _
theorem vredOr {a} : Statement (.vredOr a) := pack_code _
theorem vredXor {a} : Statement (.vredXor a) := pack_code _
theorem barT {a} : Statement (.barT a) := pack_code _
theorem barC {a} : Statement (.barC a) := pack_code _
theorem barG {a} : Statement (.barG a) := pack_code _
theorem cpy {a} : Statement (.cpy a) := pack_code _
theorem cpyWany {a} : Statement (.cpyWany a) := pack_code _
theorem cpyWall {a} : Statement (.cpyWall a) := pack_code _
theorem cpyFfr {a} : Statement (.cpyFfr a) := pack_code _
theorem cpyCancel {a} : Statement (.cpyCancel a) := pack_code _
theorem comb {a} : Statement (.comb a) := pack_code _
theorem mxgo {a} : Statement (.mxgo a) := pack_code _
theorem accRd {a} : Statement (.accRd a) := pack_code _
theorem accWr {a} : Statement (.accWr a) := pack_code _
theorem accZero {a} : Statement (.accZero a) := pack_code _
theorem fsend {a} : Statement (.fsend a) := pack_code _
theorem fsendS {a} : Statement (.fsendS a) := pack_code _
theorem frecv {a} : Statement (.frecv a) := pack_code _
theorem dlinkStat {a} : Statement (.dlinkStat a) := pack_code _
theorem dlinkTurn {a} : Statement (.dlinkTurn a) := pack_code _
theorem mxMma {a} : Statement (.mxMma a) := pack_code _
theorem mxZero {a} : Statement (.mxZero a) := pack_code _
theorem mxBar {a} : Statement (.mxBar a) := pack_code _
theorem mxFmt {a} : Statement (.mxFmt a) := pack_code _
theorem mxEnd {a} : Statement (.mxEnd a) := pack_code _
theorem vbr {a} : Statement (.vbr a) := pack_code _
theorem vjoin {a} : Statement (.vjoin a) := pack_code _
theorem vexit {a} : Statement (.vexit a) := pack_code _
theorem yield {a} : Statement (.yield a) := pack_code _
theorem exit {a} : Statement (.exit a) := pack_code _
theorem rtt {a} : Statement (.rtt a) := pack_code _
theorem ckpt {a} : Statement (.ckpt a) := pack_code _
theorem sigMark {a} : Statement (.sigMark a) := pack_code _
theorem halt {a} : Statement (.halt a) := pack_code _
theorem wait {a} : Statement (.wait a) := pack_code _
theorem reform {a} : Statement (.reform a) := pack_code _
theorem trap {a} : Statement (.trap a) := pack_code _
theorem brk {a} : Statement (.brk a) := pack_code _
theorem sadd {a} : Statement (.sadd a) := pack_code _
theorem ssub {a} : Statement (.ssub a) := pack_code _
theorem smul {a} : Statement (.smul a) := pack_code _
theorem smulh {a} : Statement (.smulh a) := pack_code _
theorem sdiv {a} : Statement (.sdiv a) := pack_code _
theorem srem {a} : Statement (.srem a) := pack_code _
theorem sand {a} : Statement (.sand a) := pack_code _
theorem sor {a} : Statement (.sor a) := pack_code _
theorem sxor {a} : Statement (.sxor a) := pack_code _
theorem sshl {a} : Statement (.sshl a) := pack_code _
theorem sshr {a} : Statement (.sshr a) := pack_code _
theorem ssra {a} : Statement (.ssra a) := pack_code _
theorem smin {a} : Statement (.smin a) := pack_code _
theorem smax {a} : Statement (.smax a) := pack_code _
theorem sminu {a} : Statement (.sminu a) := pack_code _
theorem smaxu {a} : Statement (.smaxu a) := pack_code _
theorem sclz {a} : Statement (.sclz a) := pack_code _
theorem spopc {a} : Statement (.spopc a) := pack_code _
theorem sext {a} : Statement (.sext a) := pack_code _
theorem sins {a} : Statement (.sins a) := pack_code _
theorem ssel {a} : Statement (.ssel a) := pack_code _
theorem smov {a} : Statement (.smov a) := pack_code _
theorem sli {a} : Statement (.sli a) := pack_code _
theorem slih {a} : Statement (.slih a) := pack_code _
theorem scmpEq {a} : Statement (.scmpEq a) := pack_code _
theorem scmpNe {a} : Statement (.scmpNe a) := pack_code _
theorem scmpLt {a} : Statement (.scmpLt a) := pack_code _
theorem scmpLe {a} : Statement (.scmpLe a) := pack_code _
theorem scmpLtu {a} : Statement (.scmpLtu a) := pack_code _
theorem scmpLeu {a} : Statement (.scmpLeu a) := pack_code _
theorem cand {a} : Statement (.cand a) := pack_code _
theorem cor {a} : Statement (.cor a) := pack_code _
theorem cnot {a} : Statement (.cnot a) := pack_code _
theorem bra {a} : Statement (.bra a) := pack_code _
theorem bcc {a} : Statement (.bcc a) := pack_code _
theorem call {a} : Statement (.call a) := pack_code _
theorem ret {a} : Statement (.ret a) := pack_code _
theorem jr {a} : Statement (.jr a) := pack_code _
theorem loop {a} : Statement (.loop a) := pack_code _
theorem sldB {a} : Statement (.sldB a) := pack_code _
theorem sldH {a} : Statement (.sldH a) := pack_code _
theorem sldW {a} : Statement (.sldW a) := pack_code _
theorem sldD {a} : Statement (.sldD a) := pack_code _
theorem sstB {a} : Statement (.sstB a) := pack_code _
theorem sstH {a} : Statement (.sstH a) := pack_code _
theorem sstW {a} : Statement (.sstW a) := pack_code _
theorem sstD {a} : Statement (.sstD a) := pack_code _
theorem spop {a} : Statement (.spop a) := pack_code _
theorem srd {a} : Statement (.srd a) := pack_code _
theorem swr {a} : Statement (.swr a) := pack_code _
theorem tlbiComplete {a} : Statement (.tlbiComplete a) := pack_code _
theorem loadDataReturn {a b c} : Statement (.loadDataReturn a b c) := pack_code _
theorem storePerformed {a b c} : Statement (.storePerformed a b c) := pack_code _
theorem stashFill {a b} : Statement (.stashFill a b) := pack_code _
theorem rowRecall {a} : Statement (.rowRecall a) := pack_code _
theorem sliceSweep {a b} : Statement (.sliceSweep a b) := pack_code _
theorem patrolScrub {a b} : Statement (.patrolScrub a b) := pack_code _
theorem containmentEvent {a b c d} : Statement (.containmentEvent a b c d) := pack_code _
theorem handlerEntry {a} : Statement (.handlerEntry a) := pack_code _
theorem fatalTrap {a} : Statement (.fatalTrap a) := pack_code _
theorem replayableFault {a} : Statement (.replayableFault a) := pack_code _
theorem faultRecordPost {a} : Statement (.faultRecordPost a) := pack_code _
theorem faultReplay {a} : Statement (.faultReplay a) := pack_code _
theorem freplay {a b} : Statement (.freplay a b) := pack_code _
theorem debugEvent {a} : Statement (.debugEvent a) := pack_code _
theorem dbgres {a b} : Statement (.dbgres a b) := pack_code _
theorem dbgdatWrite {a b} : Statement (.dbgdatWrite a b) := pack_code _
theorem dbgunlk {a b} : Statement (.dbgunlk a b) := pack_code _
theorem dbgtok {a b} : Statement (.dbgtok a b) := pack_code _
theorem trig {a b} : Statement (.trig a b) := pack_code _
theorem gload {a b} : Statement (.gload a b) := pack_code _
theorem launchStart {a b} : Statement (.launchStart a b) := pack_code _
theorem dispatchStep : Statement .dispatchStep := pack_code _
theorem eventWaitPoll {a b c} : Statement (.eventWaitPoll a b c) := pack_code _
theorem kernelComplete {a b c} : Statement (.kernelComplete a b c) := pack_code _
theorem launchComplete {a b} : Statement (.launchComplete a b) := pack_code _
theorem clusterRetire {a} : Statement (.clusterRetire a) := pack_code _
theorem barrierComplete {a} : Statement (.barrierComplete a) := pack_code _
theorem binDraw {a} : Statement (.binDraw a) := pack_code _
theorem reformDraw {a b} : Statement (.reformDraw a b) := pack_code _
theorem copyComplete {a b c} : Statement (.copyComplete a b c) := pack_code _
theorem copyCancelStop {a b c} : Statement (.copyCancelStop a b c) := pack_code _
theorem spineChunkSelect {a} : Statement (.spineChunkSelect a) := pack_code _
theorem spineChunkComplete {a b} : Statement (.spineChunkComplete a b) := pack_code _
theorem budgetRefill {a b c} : Statement (.budgetRefill a b c) := pack_code _
theorem remoteCopyAck {a b c d e} : Statement (.remoteCopyAck a b c d e) := pack_code _
theorem streamFetch {a b} : Statement (.streamFetch a b) := pack_code _
theorem mxStepComplete {a b} : Statement (.mxStepComplete a b) := pack_code _
theorem streamFault {a} : Statement (.streamFault a) := pack_code _
theorem preemption {a} : Statement (.preemption a) := pack_code _
theorem atckTimeout {a} : Statement (.atckTimeout a) := pack_code _
theorem spill {a} : Statement (.spill a) := pack_code _
theorem clusterRestore {a} : Statement (.clusterRestore a) := pack_code _
theorem pmodeWrite {a b} : Statement (.pmodeWrite a b) := pack_code _
theorem applyCmd {a} : Statement (.applyCmd a) := pack_code _
theorem partitionHalt {a b} : Statement (.partitionHalt a b) := pack_code _
theorem resume {a b} : Statement (.resume a b) := pack_code _
theorem discard {a b} : Statement (.discard a b) := pack_code _
theorem deadlinePost {a b} : Statement (.deadlinePost a b) := pack_code _
theorem deadlineSwitch {a} : Statement (.deadlineSwitch a) := pack_code _
theorem evictionReport {a} : Statement (.evictionReport a) := pack_code _
theorem ps2inv {a b} : Statement (.ps2inv a b) := pack_code _
theorem stage2InvalComplete {a} : Statement (.stage2InvalComplete a) := pack_code _
theorem turnWindow : Statement .turnWindow := pack_code _
theorem bundleTurnEnd {a} : Statement (.bundleTurnEnd a) := pack_code _
theorem fabricArrival {a} : Statement (.fabricArrival a) := pack_code _
theorem nackReceive {a b c d e} : Statement (.nackReceive a b c d e) := pack_code _
theorem fabricAccept {a b} : Statement (.fabricAccept a b) := pack_code _
theorem portDown {a} : Statement (.portDown a) := pack_code _
theorem mailboxEnable {a b c} : Statement (.mailboxEnable a b c) := pack_code _
theorem linkRetry {a} : Statement (.linkRetry a) := pack_code _
theorem linkRetrain {a} : Statement (.linkRetrain a) := pack_code _
theorem companionAccess {a b c} : Statement (.companionAccess a b c) := pack_code _
theorem wiunoSnoop {a b} : Statement (.wiunoSnoop a b) := pack_code _
theorem signatureBoundary {a} : Statement (.signatureBoundary a) := pack_code _
theorem logStall {a} : Statement (.logStall a) := pack_code _
theorem anchor {a b} : Statement (.anchor a b) := pack_code _
theorem anchdone {a b} : Statement (.anchdone a b) := pack_code _
theorem replay {a b} : Statement (.replay a b) := pack_code _
theorem abort {a} : Statement (.abort a) := pack_code _
theorem replayLoaded {a} : Statement (.replayLoaded a) := pack_code _
theorem replayHoldRelease {a b} : Statement (.replayHoldRelease a b) := pack_code _
theorem heldAccessTimeout {a} : Statement (.heldAccessTimeout a) := pack_code _
theorem rfmTimeout {a} : Statement (.rfmTimeout a) := pack_code _
theorem arrTimeout {a} : Statement (.arrTimeout a) := pack_code _
theorem replayBreakpoint {a} : Statement (.replayBreakpoint a) := pack_code _
theorem endOfLog {a} : Statement (.endOfLog a) := pack_code _
theorem pcSample {a b} : Statement (.pcSample a b) := pack_code _
theorem glitchSensor : Statement .glitchSensor := pack_code _
theorem getVersion : Statement .getVersion := pack_code _
theorem getCapabilities : Statement .getCapabilities := pack_code _
theorem negotiateAlgorithms {a b} : Statement (.negotiateAlgorithms a b) := pack_code _
theorem getDigests : Statement .getDigests := pack_code _
theorem getCertificate {a} : Statement (.getCertificate a) := pack_code _
theorem challenge {a b} : Statement (.challenge a b) := pack_code _
theorem getMeasurements {a} : Statement (.getMeasurements a) := pack_code _
theorem load {a} : Statement (.load a) := pack_code _
theorem fabrst : Statement .fabrst := pack_code _
theorem dbgkey {a} : Statement (.dbgkey a) := pack_code _
theorem powerGood : Statement .powerGood := pack_code _
theorem powerWindow {a} : Statement (.powerWindow a) := pack_code _
theorem thermalSensor {a} : Statement (.thermalSensor a) := pack_code _
theorem registerWrite {a b c} : Statement (.registerWrite a b c) := pack_code _
theorem remoteCopyWrite {a b c d} : Statement (.remoteCopyWrite a b c d) := pack_code _
theorem transitForward {a b} : Statement (.transitForward a b) := pack_code _
theorem fuseSenseCheck : Statement .fuseSenseCheck := pack_code _
theorem powerOff : Statement .powerOff := pack_code _
theorem bringUpStepDone {a} : Statement (.bringUpStepDone a) := pack_code _

end Encoded

end Sys2Proof.Laws
end

