-- ==== Sys2Proof/Laws/Registers.lean ====
section
/-! SUPPORT. What each register operation reads and writes, said once, and when an operand check passes. -/
namespace Sys2Proof.Machine

-- ## one register

theorem key_eq {n m l k : Nat} (hl : l < 32) (hk : k < 32) : 32 * n + l = 32 * m + k ↔ n = m ∧ l = k := by omega

theorem Group.getV_setV (g : Group) (n m l k : Nat) (x : Lane) (hl : l < 32) (hk : k < 32) :
    (g.setV n l x).getV m k = if m = n ∧ k = l then x else g.getV m k := by
  simp only [Group.getV, Group.setV, Sparse.get_set, key_eq hk hl]

theorem Group.getX_setX (g : Group) (n m l k : Nat) (x : Lane) (hl : l < 32) (hk : k < 32) :
    (g.setX n l x).getX m k = if m = n ∧ k = l then x &&& 0x3FFFFFFF else g.getX m k := by
  simp only [Group.getX, Group.setX, Sparse.get_set, key_eq hk hl]

theorem Group.getP_setP (g : Group) (n m : Nat) (x : Lane) :
    (g.setP n x).getP m = if m = n ∧ n ≠ 7 then x else g.getP m := by
  unfold Group.setP
  split
  · rename_i h
    simp [h]
  · rename_i h
    simp only [Group.getP, Sparse.get_set]
    by_cases hm : m = n
    · subst hm; simp [h]
    · simp [hm]

theorem Group.getZ_setZ (g : Group) (n m : Nat) (x : BitVec 128) : (g.setZ n x).getZ m = if m = n then x else g.getZ m := by
  simp only [Group.getZ, Group.setZ, Sparse.get_set]

theorem Group.getS_setS (g : Group) (n m : Nat) (x : Word) : (g.setS n x).getS m = if m = n then x else g.getS m := by
  simp only [Group.getS, Group.setS, Sparse.get_set]

theorem Group.getC_setC (g : Group) (n m : Nat) (b : Bool) (hn : n < 8) :
    (g.setC n b).getC m = if m = n ∧ n ≠ 7 then b else g.getC m := by
  unfold Group.setC
  split
  · rename_i h
    simp [h]
  · rename_i h
    unfold Group.getC
    by_cases hm : m = n
    · subst hm
      have h7 : (m == 7) = false := by simpa using h
      cases b <;> simp [h, h7, hn]
    · have hs : (1#8 <<< n).getLsbD m = false := by
        rw [BitVec.getLsbD_shiftLeft, BitVec.getLsbD_one]
        by_cases hlt : m < n
        · simp [hlt]
        · have : m - n ≠ 0 := by omega
          simp [this]
      cases b
      · simp only [Bool.false_eq_true, if_false, BitVec.getLsbD_and, BitVec.getLsbD_not, hs, hm, false_and]
        by_cases h8 : m < 8
        · simp [h8]
        · simp [BitVec.getLsbD_of_ge g.regs.c m (by omega)]
      · simp only [if_true, BitVec.getLsbD_or, hs, hm, false_and, Bool.or_false, if_false]

-- ## what a group keeps

theorem SameGroup.refl (g : Group) (m : Touched) : SameGroup g g m :=
  ⟨fun _ _ _ _ => rfl, fun _ _ _ _ => rfl, fun _ _ => rfl, fun _ _ => rfl, fun _ _ => rfl, fun _ _ => rfl, fun _ => ⟨rfl, rfl⟩,
    fun _ => rfl, ⟨rfl, rfl, rfl⟩, fun _ => ⟨rfl, rfl⟩, fun _ => rfl, fun _ => ⟨rfl, rfl, rfl, rfl, rfl⟩, fun _ => ⟨rfl, rfl, rfl, rfl, rfl⟩, fun _ => rfl,
    fun _ => ⟨rfl, rfl, rfl⟩⟩

/-- What two words leave alone in turn, where the second may write what the first may. -/
theorem SameGroup.trans {g h k : Group} {m : Touched} (a : SameGroup g h m) (b : SameGroup h k m) : SameGroup g k m :=
  ⟨fun n l hl hm => (b.v n l hl hm).trans (a.v n l hl hm), fun n l hl hm => (b.x n l hl hm).trans (a.x n l hl hm),
    fun n hm => (b.p n hm).trans (a.p n hm), fun n hm => (b.z n hm).trans (a.z n hm), fun n hm => (b.s n hm).trans (a.s n hm),
    fun n hm => (b.c n hm).trans (a.c n hm), fun hm => ⟨(b.k hm).1.trans (a.k hm).1, (b.k hm).2.trans (a.k hm).2⟩,
    fun hm => (b.flags hm).trans (a.flags hm), ⟨b.ident.1.trans a.ident.1, b.ident.2.1.trans a.ident.2.1, b.ident.2.2.trans a.ident.2.2⟩,
    fun hm => ⟨(b.view hm).1.trans (a.view hm).1, (b.view hm).2.trans (a.view hm).2⟩, fun hm => (b.queue hm).trans (a.queue hm),
    fun hm => by
      obtain ⟨a1, a2, a3, a4, a5⟩ := a.threads hm; obtain ⟨b1, b2, b3, b4, b5⟩ := b.threads hm
      exact ⟨b1.trans a1, b2.trans a2, b3.trans a3, b4.trans a4, b5.trans a5⟩,
    fun hm => by
      obtain ⟨a1, a2, a3, a4, a5⟩ := a.specials hm; obtain ⟨b1, b2, b3, b4, b5⟩ := b.specials hm
      exact ⟨b1.trans a1, b2.trans a2, b3.trans a3, b4.trans a4, b5.trans a5⟩,
    fun hm => (b.ops hm).trans (a.ops hm),
    fun hm => by
      obtain ⟨a1, a2, a3⟩ := a.tags hm; obtain ⟨b1, b2, b3⟩ := b.tags hm
      exact ⟨b1.trans a1, b2.trans a2, b3.trans a3⟩⟩

/-- The hold latches are no register. -/
theorem SameGroup.latches (g : Group) (a b : Option Latch) (m : Touched) : SameGroup g { g with latchA := a, latchB := b } m :=
  ⟨fun _ _ _ _ => rfl, fun _ _ _ _ => rfl, fun _ _ => rfl, fun _ _ => rfl, fun _ _ => rfl, fun _ _ => rfl, fun _ => ⟨rfl, rfl⟩,
    fun _ => rfl, ⟨rfl, rfl, rfl⟩, fun _ => ⟨rfl, rfl⟩, fun _ => rfl, fun _ => ⟨rfl, rfl, rfl, rfl, rfl⟩, fun _ => ⟨rfl, rfl, rfl, rfl, rfl⟩, fun _ => rfl,
    fun _ => ⟨rfl, rfl, rfl⟩⟩

theorem SameGroup.latched (g : Group) (i : Instr) (m : Touched) : SameGroup g (g.latched i) m := by
  unfold Group.latched
  split
  · exact SameGroup.latches g _ _ m
  · exact SameGroup.latches g _ _ m
  · dsimp only
    split
    · exact SameGroup.latches g _ _ m
    · exact SameGroup.refl g m
  · dsimp only
    split
    · exact SameGroup.latches g _ _ m
    · exact SameGroup.refl g m
  all_goals exact SameGroup.refl g m

theorem SameGroup.setV {g : Group} {m : Touched} (n l : Nat) (x : Lane) (hl : l < 32) (h : m.v n l) : SameGroup g (g.setV n l x) m := by
  have hv : ∀ n' l', l' < 32 → ¬ m.v n' l' → (g.setV n l x).getV n' l' = g.getV n' l' := fun n' l' hl' hm => by
    rw [Group.getV_setV _ _ _ _ _ _ hl hl', if_neg]
    rintro ⟨rfl, rfl⟩
    exact hm h
  exact { SameGroup.refl g m with v := hv }

theorem SameGroup.setX {g : Group} {m : Touched} (n l : Nat) (x : Lane) (hl : l < 32) (h : m.x n l) : SameGroup g (g.setX n l x) m := by
  have hv : ∀ n' l', l' < 32 → ¬ m.x n' l' → (g.setX n l x).getX n' l' = g.getX n' l' := fun n' l' hl' hm => by
    rw [Group.getX_setX _ _ _ _ _ _ hl hl', if_neg]
    rintro ⟨rfl, rfl⟩
    exact hm h
  exact { SameGroup.refl g m with x := hv }

theorem SameGroup.setP {g : Group} {m : Touched} (n : Nat) (x : Lane) (h : n ≠ 7 → m.p n) : SameGroup g (g.setP n x) m := by
  by_cases h7 : n = 7
  · have : g.setP n x = g := by unfold Group.setP; rw [if_pos h7]
    rw [this]; exact SameGroup.refl g m
  · have he : g.setP n x = { g with regs := { g.regs with p := g.regs.p.set 0 n x } } := by unfold Group.setP; rw [if_neg h7]
    have hp : ∀ k, ¬ m.p k → (g.setP n x).getP k = g.getP k := fun k hk => by
      rw [Group.getP_setP, if_neg]
      rintro ⟨rfl, h'⟩
      exact hk (h h')
    rw [he] at hp ⊢
    exact { SameGroup.refl g m with p := hp }

theorem SameGroup.setZ {g : Group} {m : Touched} (n : Nat) (x : BitVec 128) (h : m.z n) : SameGroup g (g.setZ n x) m := by
  have hv : ∀ k, ¬ m.z k → (g.setZ n x).getZ k = g.getZ k := fun k hk => by
    rw [Group.getZ_setZ, if_neg]
    rintro rfl
    exact hk h
  exact { SameGroup.refl g m with z := hv }

theorem SameGroup.setS {g : Group} {m : Touched} (n : Nat) (x : Word) (h : m.s n) : SameGroup g (g.setS n x) m := by
  have hv : ∀ k, ¬ m.s k → (g.setS n x).getS k = g.getS k := fun k hk => by
    rw [Group.getS_setS, if_neg]
    rintro rfl
    exact hk h
  exact { SameGroup.refl g m with s := hv }

theorem SameGroup.setC {g : Group} {m : Touched} (n : Nat) (b : Bool) (hn : n < 8) (h : n ≠ 7 → m.c n) : SameGroup g (g.setC n b) m := by
  by_cases h7 : n = 7
  · have : g.setC n b = g := by unfold Group.setC; rw [if_pos h7]
    rw [this]; exact SameGroup.refl g m
  · have he : g.setC n b = { g with regs := { g.regs with c := if b then g.regs.c ||| (1#8 <<< n) else g.regs.c &&& ~~~(1#8 <<< n) } } := by
      unfold Group.setC; rw [if_neg h7]
    have hp : ∀ k, ¬ m.c k → (g.setC n b).getC k = g.getC k := fun k hk => by
      rw [Group.getC_setC _ _ _ _ hn, if_neg]
      rintro ⟨rfl, h'⟩
      exact hk (h h')
    rw [he] at hp ⊢
    exact { SameGroup.refl g m with c := hp }

theorem SameGroup.orFlags {g : Group} {m : Touched} (f : BitVec 5) (h : m.flags) : SameGroup g (g.orFlags f) m :=
  { SameGroup.refl g m with flags := fun hm => absurd h hm }

-- ## lanes of a mask

theorem mem_lanesOf {m : Lane} {l : Nat} : l ∈ lanesOf m ↔ l < 32 ∧ m.getLsbD l = true := by
  unfold lanesOf allLanes
  simp [Config.lanes]

/-- Writing a V-kind destination: the named register of each lane of the mask holds the lane's value, and every other lane of every
register is as before. -/
theorem Group.getV_writeV (g : Group) (code : BitVec 10) (act : Lane) (f : Nat → Lane) (n l : Nat) (hl : l < 32) :
    (g.writeV code act f).getV n l = if act.getLsbD l = true ∧ n = g.rowOf code l then f l else g.getV n l := by
  have key : ∀ (ls : List Nat) (h : Group), (∀ k ∈ ls, k < 32) →
      (ls.foldl (fun h k => h.setV (g.rowOf code k) k (f k)) h).getV n l
        = if l ∈ ls ∧ n = g.rowOf code l then f l else h.getV n l := by
    intro ls
    induction ls with
    | nil => intro h _; simp
    | cons a r ih =>
      intro h hr
      rw [List.foldl_cons, ih _ fun k hk => hr k (List.mem_cons_of_mem _ hk)]
      rw [Group.getV_setV _ _ _ _ _ _ (hr a List.mem_cons_self) hl]
      by_cases hla : l = a
      · subst hla
        by_cases hn : n = g.rowOf code l <;> simp [hn]
      · simp [hla]
  unfold Group.writeV
  rw [key _ _ fun k hk => (mem_lanesOf.1 hk).1]
  simp only [mem_lanesOf, hl, true_and]

theorem SameGroup.writeV {g h : Group} {m : Touched} (code : BitVec 10) (act : Lane) (f : Nat → Lane) (hs : SameGroup g h m)
    (hm : ∀ l, l < 32 → act.getLsbD l = true → m.v (h.rowOf code l) l) : SameGroup g (h.writeV code act f) m := by
  have key : ∀ (ls : List Nat) (k : Group), (∀ l ∈ ls, l < 32 ∧ act.getLsbD l = true) → SameGroup g k m →
      SameGroup g (ls.foldl (fun k l => k.setV (h.rowOf code l) l (f l)) k) m := by
    intro ls
    induction ls with
    | nil => intro k _ hk; exact hk
    | cons a r ih =>
      intro k hr hk
      rw [List.foldl_cons]
      refine ih _ (fun l hl => hr l (List.mem_cons_of_mem _ hl)) (hk.trans ?_)
      have ha := hr a List.mem_cons_self
      exact SameGroup.setV _ _ _ ha.1 (hm a ha.1 ha.2)
  exact key _ _ (fun l hl => mem_lanesOf.1 hl) hs

theorem laneMask_getLsbD (f : Nat → Bool) (l : Nat) (hl : l < 32) : (laneMask f).getLsbD l = f l := by
  have key : ∀ (n : Nat), n ≤ 32 → ∀ j, (((List.range n).filter f).foldl (fun m l => m + 2 ^ l) 0).testBit j = (decide (j < n) && f j) ∧
      ((List.range n).filter f).foldl (fun m l => m + 2 ^ l) 0 < 2 ^ n := by
    intro n
    induction n with
    | zero => intro _ j; simp
    | succ n ih =>
      intro hn j
      have ih' := ih (by omega)
      rw [List.range_succ, List.filter_append, List.foldl_append]
      have hlt := (ih' 0).2
      by_cases hf : f n = true
      · have e1 : List.filter f [n] = [n] := by simp [hf]
        rw [e1]
        simp only [List.foldl_cons, List.foldl_nil]
        generalize hx : ((List.range n).filter f).foldl (fun m l => m + 2 ^ l) 0 = x at *
        refine ⟨?_, by rw [Nat.pow_succ]; omega⟩
        rw [Nat.add_comm]
        have h := Nat.two_pow_add_eq_or_of_lt hlt 1
        rw [Nat.mul_one] at h
        rw [h, Nat.testBit_or, (ih' j).1, Nat.testBit_two_pow]
        by_cases hj : j = n
        · subst hj; simp [hf]
        · have : decide (n = j) = false := by simpa using fun h => hj h.symm
          have h2 : decide (j < n + 1) = decide (j < n) := by
            have : j < n + 1 ↔ j < n := by omega
            simp [this]
          rw [this, h2]; simp
      · have e1 : List.filter f [n] = [] := by simp [hf]
        rw [e1]
        simp only [List.foldl_nil]
        refine ⟨?_, by rw [Nat.pow_succ]; omega⟩
        rw [(ih' j).1]
        by_cases hj : j = n
        · subst hj; simp [hf]
        · have : j < n + 1 ↔ j < n := by omega
          simp [this]
  unfold laneMask allLanes
  rw [BitVec.getLsbD_ofNat]
  simp only [Config.lanes]
  rw [(key 32 (Nat.le_refl _) l).1]
  simp [hl]

/-- Writing the bits of a predicate in the lanes of a mask. -/
theorem Group.getP_writePred (g : Group) (n : Nat) (act : Lane) (f : Nat → Bool) (m l : Nat) (hl : l < 32) :
    ((g.writePred n act f).getP m).getLsbD l
      = if m = n ∧ n ≠ 7 ∧ act.getLsbD l = true then f l else (g.getP m).getLsbD l := by
  unfold Group.writePred
  rw [Group.getP_setP]
  by_cases hm : m = n ∧ n ≠ 7
  · rw [if_pos hm]
    obtain ⟨rfl, h7⟩ := hm
    rw [BitVec.getLsbD_or, BitVec.getLsbD_and, BitVec.getLsbD_and, BitVec.getLsbD_not, laneMask_getLsbD f l hl]
    cases ha : act.getLsbD l <;> simp [h7, hl]
  · rw [if_neg hm]
    split
    · rename_i h; exact absurd ⟨h.1, h.2.1⟩ hm
    · rfl

-- ## operand checks

theorem Group.checkV_none {g : Group} {pos : Nat} {code : BitVec 10} {span : Nat} {lanes : List (Nat × Nat)} {P : Nat → Prop}
    (hspan : 0 < span) (h : g.Names code span P) (hP : ∀ x ∈ lanes, P x.2) : g.checkV pos code span lanes = none := by
  unfold Group.Names at h
  unfold Group.checkV
  split
  · rename_i hc
    rw [if_pos hc] at h
    simp only
    rw [if_neg (by omega)]
  · rename_i hc
    rw [if_neg hc] at h
    simp only
    rw [List.findSome?_eq_none_iff]
    intro x hx
    have := h x.2 (hP x hx)
    unfold Group.rowOf at this
    rw [if_neg hc] at this
    simp only at this ⊢
    rw [if_neg (by omega), if_neg (by omega)]

theorem Group.dest_none {g : Group} {act : Lane} {code : BitVec 10} {span : Nat} (hspan : 0 < span) (h : g.DestOk act code span) :
    g.checkV 0 code span (selfLanes act) = none :=
  Group.checkV_none hspan h fun x hx => by
    unfold selfLanes at hx
    obtain ⟨l, hl, rfl⟩ := List.mem_map.1 hx
    exact mem_lanesOf.1 hl

theorem Group.src_none {g : Group} {act : Lane} {code : BitVec 10} {perm : BitVec 3} {span pos : Nat} (hspan : 0 < span)
    (h : g.SrcOk act code perm span) : g.checkV pos code span (g.srcLanes perm act) = none :=
  Group.checkV_none hspan h fun x hx => by
    unfold Group.srcLanes at hx
    obtain ⟨hx, hlive⟩ := List.mem_filter.1 hx
    obtain ⟨l, hl, rfl⟩ := List.mem_map.1 hx
    exact ⟨hlive, l, (mem_lanesOf.1 hl).1, (mem_lanesOf.1 hl).2, rfl⟩

/-- A word whose effect touches its group only retires, and the group after it keeps what the word does not write. -/
theorem runWord_retires {s : State} {g : Group} {i : Instr} {f : State → Group → WordRes} {g' : Group} {pc : Word} {w : Writes} {m : Touched}
    (h : Issues s g i) (hf : f s (g.latched i) = .done s g' pc w) (ht : g'.ltime = g.ltime) (hs : SameGroup g g' m) :
    ∃ t h, runWord s i f = .next t ∧ Retired s t g h pc ∧ h.regs = g'.regs ∧ SameGroup g h m := by
  obtain ⟨ho, l, hl⟩ := Group.sequenced_ops g' g i w
  refine ⟨_, _, runWord_done h hf, State.retire_retired i pc w (State.curGroup_key h.cur) (by rw [hl]; exact congrArg Ident.key hs.ident.1)
    (by rw [hl]; exact ht), by rw [hl]; rfl, ?_⟩
  rw [hl] at ho ⊢
  exact ⟨hs.v, hs.x, hs.p, hs.z, hs.s, hs.c, hs.k, hs.flags, hs.ident, hs.view, hs.queue, hs.threads, hs.specials, fun hm => ho.trans (hs.ops hm), hs.tags⟩

end Sys2Proof.Machine
end

