-- ==== Sys2Proof/Tests/Slice0.lean ====
section
/-! SUPPORT. The model's own tests: ill-formed terms that the checks refuse, words that the spec writes out and what they decode to,
values that the spec's rules and examples give, and for every statement with hypotheses a state and operands that meet them. -/
set_option maxRecDepth 100000

namespace Sys2Proof.Tests
open Sys2Proof.Machine

-- ## small states

/-- A part in service with one group of one team of one cluster on core 0: group 3, team 2, cluster 1. -/
def wUp : Wiuno := { up := true, retries := 0, training := false, unacked := 0 }
/-- One group in service, with the Wiuno link up. -/
def s0 : State := { State.reset.inService.oneGroup with wiuno := wUp }
def g0 : Group := (s0.group? 3).get (by decide)
def t0 : Team := (s0.team? 2).get (by decide)
def c0 : Cluster := (s0.cluster? 1).get (by decide)
/-- The part with another group in the place of group 3, which is about to run a word. -/
def st (g : Group) : State := { s0 with groups := [g], cur := .group 3 }

-- operands: fields that a word leaves 0 are left out
def oS (sd sa sb : BitVec 6) (isel : BitVec 1 := 0) (imm : BitVec 32 := 0) (cond : BitVec 3 := 7) : OpS := { cond, sd, sa, sb, isel, imm }
def oA (d a b : BitVec 10) (xf : BitVec 6 := 0) (pred : BitVec 3 := 7) (bp : BitVec 3 := 0) (ap : BitVec 3 := 0) (fmt : BitVec 3 := 0) : OpA :=
  { pred, fmt, d, a, ap, b, bp, rnd := 0, sat := 0, xf, ha := 0, hb := 0 }
def oC (d a b c : BitVec 10) (pred : BitVec 3 := 7) : OpC := { pred, fmt := 0, d, a, ap := 0, b, bp := 0, c, ha := 0, hb := 0 }
def oI (d : BitVec 10) (imm : BitVec 32) (pred : BitVec 3 := 7) (sr : BitVec 1 := 0) : OpI := { pred, fmt := 0, d, sr, rnd := 0, sat := 0, imm }
def oM (d a : BitVec 10) (sb : BitVec 6) (scl wid : BitVec 3) (disp : BitVec 6 := 0) (sco : BitVec 3 := 0) (pred : BitVec 3 := 7) : OpM :=
  { pred, fmt := 0, d, a, disp, sb, scl, wid, uc := 0, dz := 0, sco, ord := 0 }
def oE (d a : BitVec 10 := 0) (sb1 sb2 : BitVec 6 := 0) (num : BitVec 6 := 0) (sco : BitVec 3 := 0) (md : BitVec 3 := 0) : OpE :=
  { pred := 7, fmt := 0, d, a, sb1, sb2, num, sco, md }
def oQ (tgt brow : BitVec 10) (arow : BitVec 13 := 0) : OpQ := { fmt := 0, tgt, brow, arow, fb := 0 }

/-- The same in a partition of another mode word. -/
def stMode (m : BitVec 32) (g : Group) : State := (st g).setPart { (st g).part 0 with mode := m }

/-- Whether a word issues with nothing in its way. -/
def issuesB (s : State) (g : Group) (i : Instr) : Bool :=
  s.curGroup == some g && !g.interlocked (wordUses g i) && (!isVector i || decide (g.fqUsed < 32)) && g.failed.isEmpty &&
    (!g.speculative || s.log g.id.vf == 0) && (s.logged g 6).isNone &&
    (!s.det g.id.vf || ((s.team? g.id.team).map fun t => t.mx.isEmpty).getD true)

theorem issues_of {s : State} {g : Group} {i : Instr} (h : issuesB s g i = true) : Issues s g i := by
  simp only [issuesB, Bool.and_eq_true, Bool.or_eq_true, Bool.not_eq_true', decide_eq_true_eq, beq_iff_eq, List.isEmpty_iff,
    Option.isNone_iff_eq_none] at h
  obtain ⟨⟨⟨⟨⟨⟨h1, h2⟩, h3⟩, h4⟩, h5⟩, h6⟩, h7⟩ := h
  refine ⟨h1, h2, fun hv => ?_, ?_, fun hs => ?_, h6, fun hd t ht => ?_⟩
  · rcases h3 with h3 | h3
    · rw [h3] at hv; cases hv
    · exact h3
  · rw [h4]; intro x hx; cases hx
  · rcases h5 with h5 | h5
    · rw [h5] at hs; cases hs
    · exact h5
  · rcases h7 with h7 | h7
    · rw [h7] at hd; cases hd
    · rw [ht] at h7
      have he : t.mx = [] := by simpa using h7
      rw [he]
      exact List.not_mem_nil

/-- What holds of the state and the group after a word. -/
def after (s : State) (i : Instr) (key : Nat) (p : State → Group → Bool) : Bool :=
  match exec i s with
  | .next t => (match t.group? key with | some h => p t h | none => false)
  | .fault _ | .refused _ => false

-- ## ill-formed terms, one for each check

/-- The failing check of a term: cause group, code and lowest bit. -/
def flaw (i : Instr) : Option (Nat × Nat × Nat) := (Enc.check (Enc.shape i)).map fun b => (b.group, b.code, b.bit)

theorem wf_legal : WellFormed (.fadd (oA 1 2 3)) = true ∧ WellFormed (.sadd (oS 1 2 3)) = true ∧ WellFormed .powerGood = true := by decide
/-- Layout A: reserved extension bits, each unused field, each reserved value (R61, R65, R184). -/
theorem wf_layoutA_reserved : ∀ x ∈ ([
    (.fadd (oA 1 2 3 (xf := 4)), (2, 1, 4))] : List (Instr × Nat × Nat × Nat)), flaw x.1 = some x.2 := by decide
theorem wf_layoutA_unused : ∀ x ∈ ([
    (.vlane { oA 1 0 0 with hb := 1 }, (2, 2, 0)), (.vlane { oA 1 0 0 with ha := 1 }, (2, 2, 1)),
    (.iand { oA 1 2 3 with sat := 1 }, (2, 2, 8)), (.iand { oA 1 2 3 with rnd := 1 }, (2, 2, 9)),
    (.vmov (oA 1 2 0 (bp := 1)), (2, 2, 12)), (.vmov (oA 1 2 3), (2, 2, 15)), (.vperm (oA 1 2 3 (ap := 1)), (2, 2, 25)),
    (.vlane (oA 1 2 0), (2, 2, 29)), (.vput (oA 1 2 0), (2, 2, 38)), (.iadd (oA 1 2 3 (fmt := 2)), (2, 2, 49)),
    (.exit (oA 0 0 0 (pred := 6)), (2, 2, 51))] : List (Instr × Nat × Nat × Nat)), flaw x.1 = some x.2 := by decide
theorem wf_layoutA_values : ∀ x ∈ ([
    (.vredx (oA 1 2 0 (xf := 6)), (1, 2, 2)), (.vredx (oA 1 2 0 (xf := 3)), (1, 2, 2)), (.fadd { oA 1 2 3 with rnd := 6 }, (1, 2, 9)),
    (.fadd (oA 1 2 776), (1, 2, 15)), (.fadd (oA 1 776 3), (1, 2, 28)), (.fadd (oA 776 2 3), (1, 2, 38)), (.pand (oA 8 1 2), (1, 2, 38))] : List (Instr × Nat × Nat × Nat)), flaw x.1 = some x.2 := by decide
theorem wf_layoutC : ∀ x ∈ ([
    (.imad { oC 1 2 3 4 with fmt := 1 }, (2, 2, 48)), (.fma (oC 1 2 3 776), (1, 2, 2))] : List (Instr × Nat × Nat × Nat)), flaw x.1 = some x.2 := by decide
/-- Layout M (R62, R241). -/
theorem wf_layoutM_unused : ∀ x ∈ ([
    (.fence (oM 0 0 0 0 0 (disp := 1)), (2, 2, 0)), (.fence { oM 0 0 0 0 0 with ord := 1 }, (2, 2, 3)),
    (.vldG (oM 1 2 3 2 2 (sco := 1)), (2, 2, 5)), (.fence { oM 0 0 0 0 0 with dz := 1 }, (2, 2, 8)),
    (.vldS { oM 1 2 3 2 2 with uc := 1 }, (2, 2, 9)), (.fence (oM 0 0 0 0 1), (2, 2, 13)), (.fence (oM 0 0 0 1 0), (2, 2, 16)),
    (.fence (oM 0 0 1 0 0), (2, 2, 19)), (.fence (oM 0 0 0 0 0 (disp := 8)), (2, 2, 25)), (.vldG (oM 1 2 3 7 2), (2, 2, 29)),
    (.fence (oM 1 0 0 0 0), (2, 2, 38)), (.vldG { oM 1 2 3 2 2 with fmt := 1 }, (2, 2, 48)),
    (.fence (oM 0 0 0 0 0 (pred := 0)), (2, 2, 51))] : List (Instr × Nat × Nat × Nat)), flaw x.1 = some x.2 := by decide
theorem wf_layoutM_values : ∀ x ∈ ([
    (.vstG { oM 1 2 3 2 2 with ord := 1 }, (1, 2, 3)), (.fence (oM 0 0 0 0 0 (sco := 5)), (1, 2, 5)),
    (.vldG (oM 1 2 3 2 5), (1, 2, 13)), (.vldG (oM 1 2 3 5 2), (1, 2, 16)), (.vldG (oM 1 776 3 2 2), (1, 2, 28)),
    (.vgath (oM 768 8 3 2 2), (1, 2, 38))] : List (Instr × Nat × Nat × Nat)), flaw x.1 = some x.2 := by decide
/-- Layout E (R63, R296). -/
theorem wf_layoutE_unused : ∀ x ∈ ([
    (.fsend (oE (a := 1) (sb1 := 2) (sb2 := 3) (md := 1)), (2, 2, 0)), (.fsend (oE (a := 1) (sco := 1)), (2, 2, 3)),
    (.fsend (oE (a := 1) (num := 1)), (2, 2, 6)), (.cpyWall (oE (sb2 := 1)), (2, 2, 13)), (.accZero (oE (sb1 := 1)), (2, 2, 19)),
    (.cpyWall (oE (a := 1)), (2, 2, 28)), (.cpyWall (oE (d := 1)), (2, 2, 38)), (.cpyWall { oE with fmt := 1 }, (2, 2, 48)),
    (.cpyWall { oE with pred := 0 }, (2, 2, 51))] : List (Instr × Nat × Nat × Nat)), flaw x.1 = some x.2 := by decide
theorem wf_layoutE_values : ∀ x ∈ ([
    (.cpy (oE (md := 4)), (1, 2, 0)), (.cpy (oE (sco := 5)), (1, 2, 3)), (.accZero (oE (num := 32)), (1, 2, 6)),
    (.cpy (oE (a := 63)), (1, 2, 28)), (.cpyFfr (oE (d := 64)), (1, 2, 38))] : List (Instr × Nat × Nat × Nat)), flaw x.1 = some x.2 := by decide
/-- Layout Q (R288). -/
theorem wf_layoutQ : ∀ x ∈ ([
    (.mxZero { oQ 1 0 with fb := 1 }, (2, 2, 9)), (.mxZero (oQ 1 0 1), (2, 2, 12)), (.mxZero (oQ 1 1), (2, 2, 28)),
    (.mxEnd (oQ 1 0), (2, 2, 38)), (.mxZero { oQ 1 0 with fmt := 1 }, (2, 2, 48)), (.mxMma (oQ 1 0 4096), (1, 2, 12)),
    (.mxMma (oQ 1 768), (1, 2, 28)), (.mxZero (oQ 8 0), (1, 2, 38))] : List (Instr × Nat × Nat × Nat)), flaw x.1 = some x.2 := by decide
/-- I-form (R70, R71). -/
theorem wf_formI : ∀ x ∈ ([
    (.kset (oI 0 64 (sr := 1)), (2, 2, 6)), (.kset { oI 0 1 with sat := 1 }, (2, 2, 33)), (.kset { oI 0 1 with rnd := 1 }, (2, 2, 34)),
    (.trap (oI 0 1 (sr := 1)), (2, 2, 37)), (.trap (oI 1 1), (2, 2, 38)), (.trap { oI 0 1 with fmt := 1 }, (2, 2, 48)),
    (.trap (oI 0 1 (pred := 0)), (2, 2, 51)), (.kset (oI 0 65536), (1, 2, 0)), (.reform (oI 0 16), (1, 2, 0)),
    (.dlinkTurn (oI 0 0), (1, 2, 0)), (.dlinkTurn (oI 0 8), (1, 2, 0)), (.faddImm { oI 0 1 with rnd := 6 }, (1, 2, 34)),
    (.kset (oI 2 1), (1, 2, 38))] : List (Instr × Nat × Nat × Nat)), flaw x.1 = some x.2 := by decide
/-- S-form (R72, R73, R85, R97). -/
theorem wf_formS : ∀ x ∈ ([
    (.sadd (oS 1 2 3 0 1), (2, 2, 0)), (.sext (oS 1 2 0 1 64), (2, 2, 6)), (.ssel (oS 1 2 3 0 8), (2, 2, 3)),
    (.srd (oS 1 0 0 1 4096), (2, 2, 12)), (.sadd (oS 1 2 3 1 1), (2, 2, 33)), (.bra (oS 0 1 0 1), (2, 2, 39)),
    (.bra (oS 1 0 0 1), (2, 2, 45)), (.sext (oS 1 2 0 1 0x3F01), (1, 2, 0)), (.srd (oS 1 0 0 1 0x00A), (1, 2, 0)),
    (.bra (oS 0 0 0 0 0), (1, 2, 32)), (.cand (oS 1 2 8), (1, 2, 33)), (.cand (oS 1 8 2), (1, 2, 39)), (.scmpEq (oS 8 1 2), (1, 2, 45))] : List (Instr × Nat × Nat × Nat)), flaw x.1 = some x.2 := by decide
def half (op : BitVec 6) (d a : BitVec 10) (fmt : BitVec 2 := 0) : Half := { op, d, a, ap := 0, fmt }
/-- P-form (R68, R76): operations, FMT, A, and the pairing rules in item order. -/
theorem wf_formP : ∀ x ∈ ([
    (.pair (half 0x18 1 2) (half 0 3 4), (1, 1, 56)), (.pair (half 0 1 2) (half 0x20 3 4 2), (2, 2, 1)),
    (.pair (half 0 1 776) (half 0 3 4), (1, 2, 36)), (.pair (half 0 1 2) (half 0 1 4), (1, 4, 15)),
    (.pair (half 0 768 2) (half 0 1 4), (1, 4, 46)), (.pair (half 7 1 2) (half 8 3 4), (1, 4, 25))] : List (Instr × Nat × Nat × Nat)), flaw x.1 = some x.2 := by decide

-- ## words that the spec writes out

theorem test_decode_fma : ∀ x ∈ ([
    (0x00D002806006104A, .fma { oC 10 6 12 18 (pred := 2) with bp := 1, ha := 1 })] : List (Word × Instr)), decodeWord x.1 = some x.2 := by decide
theorem test_decode_iaddImm : ∀ x ∈ ([
    (0x903800C000000005, .iaddImm (oI 3 5))] : List (Word × Instr)), decodeWord x.1 = some x.2 := by decide
theorem test_decode_bra : ∀ x ∈ ([
    (0xCC08000100000007, .bra (oS 0 0 0 1 7 (cond := 1)))] : List (Word × Instr)), decodeWord x.1 = some x.2 := by decide
theorem test_decode_scalar : ∀ x ∈ ([
    (0xC038620A00000000, .sadd (oS 3 4 5)), (0xC0386201FFFFFFF0, .sadd (oS 3 4 0 1 0xFFFFFFF0)),
    (0xC138C08400000000, .sdiv (oS 6 1 2)), (0xC4B8A20100000B08, .sext (oS 5 4 0 1 0xB08)), (0xC8B8249400000000, .scmpLt (oS 1 9 10)),
    (0xD0B8E1010000000C, .sldW (oS 7 2 0 1 12)), (0xD478400100000031, .srd (oS 2 0 0 1 0x31)),
    (0xCD780401FFFFFFFB, .loop (oS 0 8 0 1 0xFFFFFFFB)), (0xD4B8008100000045, .swr (oS 0 1 0 1 0x45))] : List (Word × Instr)), decodeWord x.1 = some x.2 := by decide
theorem test_decode_memory : ∀ x ∈ ([
    (0x2038014022224000, .vldG (oM 5 2 4 2 2 (disp := 8))), (0x2138040080224200, .vgath { oM 16 8 4 2 2 with uc := 1 }),
    (0x2808018000274040, .vatomAdd (oM 6 0 4 7 2 (sco := 2) (pred := 1))),
    (0x29C8020000274040, .vatomCas (oM 8 0 4 7 2 (sco := 2) (pred := 1))),
    (0x22B8050010300030, .mboxPut { oM 20 1 6 0 0 (sco := 1) with ord := 2 }), (0x2BB8000000000040, .fence (oM 0 0 0 0 0 (sco := 2)))] : List (Word × Instr)), decodeWord x.1 = some x.2 := by decide
theorem test_decode_engine : ∀ x ∈ ([
    (0x3038008040518152, .cpy (oE (d := 2) (a := 4) (sb1 := 10) (sb2 := 12) (num := 5) (sco := 2) (md := 2))),
    (0x30B8000000380000, .cpyWall (oE (sb1 := 7))), (0x30F8024000380000, .cpyFfr (oE (d := 9) (sb1 := 7))),
    (0x317800000020A190, .comb (oE (sb1 := 4) (sb2 := 5) (num := 6) (sco := 2))), (0x3378024000000000, .dlinkStat (oE (d := 9))),
    (0xB3B8000000000006, .dlinkTurn (oI 0 6))] : List (Word × Instr)), decodeWord x.1 = some x.2 := by decide
theorem test_decode_control : ∀ x ∈ ([
    (0xB1780000FFFF0000, .wait (oI 0 0xFFFF0000)), (0xBC38000000000007, .trap (oI 0 7)), (0xBC78000000000003, .brk (oI 0 3)),
    (0x3838000000000000, .vjoin (oA 0 0 0)), (0xB810000000000001, .vbr (oI 0 1 (pred := 2))), (0x3978000000000000, .ckpt (oA 0 0 0)),
    (0x39F8000000000000, .halt (oA 0 0 0)), (0x3938000000000000, .rtt (oA 0 0 0)), (0x39B8000000000000, .sigMark (oA 0 0 0))] : List (Word × Instr)), decodeWord x.1 = some x.2 := by decide
theorem test_decode_vector : ∀ x ∈ ([
    (0x0CBB028040000000, .fpack { oA 10 4 0 (fmt := 3) with xf := 0 }), (0x19B800C010010000, .pand (oA 3 1 2)),
    (0x19380B0000000000, .vlane (oA 44 0 0)), (0x9C38000000000010, .kset (oI 0 16)), (0x9DB800C0D441E000, .fmtset (oI 3 0xD441E000)),
    (0x08F801C080048400, .fdiv { oA 7 8 9 with rnd := 2 }), (0x18B8050030000000, .vredx (oA 20 3 0)),
    (0x4003007044078280, .pair { op := 0, d := 12, a := 7, ap := 0, fmt := 0 } { op := 34, d := 15, a := 20, ap := 0, fmt := 0 })] : List (Word × Instr)), decodeWord x.1 = some x.2 := by decide
theorem test_decode_stream : decodeWord 0x367800C000000000 = none ∧
    decodeTableWord 64 0x367800C000000000 = some (.mxZero { fmt := 0, tgt := 3, brow := 0, arow := 0, fb := 0 }) := by decide

-- ## refused words

/-- The words of Example 3.2 that are refused, with cause group and code (R76). -/
theorem test_refused_words : ∀ x ∈ ([
    (0x03F8000000000000, 1, 1), (0x003800C040028020, 2, 1), (0x103A00C040028000, 2, 2), (0x003800C040028C00, 1, 2), (0x0038C80040028C00, 1, 2),
    (0x3638000000000000, 1, 3)] : List (Word × Nat × Nat)),
    (match Dec.group x.1 with | .bad b => some (b.group, b.code) | .ok _ => none) = some x.2 := by decide

/-- Example 16.2: the trap and the decoded registers of a refused word (R303, R310). -/
theorem test_refused_trap :
    let t := refusedTrap { g0 with pc := 0x60028 } 0x003800C040028020 { group := 2, code := 1, bit := 5 }
    t.cause false = 0x1001 ∧ t.detail = 0x5003800C040028020 ∧ t.pc = 0x60028 ∧
      t.dec = [0x003800C040028020, 0x003800C040140000, 0x0000000002000000, 0] := by decide

-- ## scalar words

/-- The quotient −2^63 / −1 and its remainder, and a remainder with the dividend's sign (R83). -/
theorem test_sdiv_extreme : after (st ((g0.setS 4 0x8000000000000000).setS 5 (-1))) (.sdiv (oS 3 4 5)) 3 fun _ h => h.getS 3 == 0x8000000000000000 := by
  decide
theorem test_srem_sign : after (st ((g0.setS 4 (-7)).setS 5 2)) (.srem (oS 3 4 5)) 3 fun _ h => h.getS 3 == -1 := by decide
theorem test_smulh : after (st ((g0.setS 4 (-1)).setS 5 3)) (.smulh (oS 3 4 5)) 3 fun _ h => h.getS 3 == -1 := by decide
theorem test_ssra : after (st ((g0.setS 4 (-8)).setS 5 65)) (.ssra (oS 3 4 5)) 3 fun _ h => h.getS 3 == -4 := by decide
theorem test_sclz_zero : after (st g0) (.sclz (oS 3 4 0)) 3 fun _ h => h.getS 3 == 64 := by decide
theorem test_sext : after (st (g0.setS 4 0xFFF8012)) (.sext (oS 5 4 0 1 0xB08)) 3 fun _ h => h.getS 5 == BitVec.ofInt 64 (-128) := by decide
theorem test_sins : after (st ((g0.setS 3 0xFFFF).setS 4 0x5)) (.sins (oS 3 4 0 1 0x308)) 3 fun _ h => h.getS 3 == 0xF5FF := by decide
/-- The 64-bit constant of R86. -/
theorem test_slih : after (st (g0.setS 1 0x9ABCDEF0)) (.slih (oS 1 0 0 1 0x12345678)) 3 fun _ h => h.getS 1 == 0x123456789ABCDEF0 := by decide
theorem test_scmpLtu : after (st (g0.setS 4 5)) (.scmpLtu (oS 1 4 0 1 0xFFFFFFFF)) 3 fun _ h => h.getC 1 := by decide
theorem test_c7 : after (st g0) (.cnot (oS 7 7 0)) 3 fun _ h => h.getC 7 := by decide
/-- The `loop` of Example 4.1: from 0x1040 to 0x1020. -/
theorem test_loop : after (st { g0.setS 8 2 with pc := 0x1040 }) (.loop (oS 0 8 0 1 0xFFFFFFFB)) 3 fun _ h => h.pc == 0x1020 && h.getS 8 == 1 := by
  decide
theorem test_loop_zero : after (st { g0 with pc := 0x1040 }) (.loop (oS 0 8 0 1 0xFFFFFFFB)) 3 fun _ h => h.pc == 0x1048 && h.getS 8 == 0 := by decide
theorem test_call : after (st { g0 with pc := 0x1040 }) (.call (oS 0 0 0 1 7)) 3 fun _ h => h.pc == 0x1080 && h.getS 63 == 0x1048 := by decide
theorem test_bcc_c7 : after (st { g0 with pc := 0x1040 }) (.bcc (oS 0 0 0 1 7)) 3 fun _ h => h.pc == 0x1048 := by decide

def wS : OpS := oS 3 4 5
def wG : Group := (g0.setS 4 24).setS 5 9

theorem witness_ScalarResults : (∃ s g i o r, Issues s g i ∧ scalarResult g i = some (o, r) ∧ g.getC o.cond.toNat = true) ∧
    ∃ s g i o r, Issues s g i ∧ divisionResult g i = some (o, r) ∧ g.getC o.cond.toNat = true ∧ g.opB o ≠ 0 :=
  ⟨⟨st wG, wG, .sadd wS, wS, _, issues_of (by decide), rfl, by decide⟩,
    st wG, wG, .sdiv wS, wS, _, issues_of (by decide), rfl, by decide, by decide⟩
theorem witness_ScalarResults_zero : ∃ s g i o r, Issues s g i ∧ divisionResult g i = some (o, r) ∧ g.getC o.cond.toNat = true ∧ g.opB o = 0 :=
  ⟨st g0, g0, .srem wS, wS, _, issues_of (by decide), rfl, by decide, by decide⟩
theorem witness_ScalarConditions : (∃ s g i o r, Issues s g i ∧ conditionResult g i = some (o, r) ∧ g.getC o.cond.toNat = true ∧ o.sd.toNat < 8) ∧
    ∃ s g i op r o, Issues s g i ∧ Enc.shape i = .s op r o ∧ i ≠ .bcc o ∧ g.getC o.cond.toNat = false :=
  ⟨⟨st wG, wG, .scmpEq (oS 7 4 5), oS 7 4 5, _, issues_of (by decide), rfl, by decide, by decide⟩,
    st g0, g0, .sadd (oS 3 4 5 (cond := 1)), _, _, oS 3 4 5 (cond := 1), issues_of (by decide), rfl, by decide, by decide⟩
theorem witness_ScalarTransfers : ∃ s g o, Issues s g (.bra o) ∧ Issues s g (.bcc o) ∧ Issues s g (.call o) ∧ Issues s g (.ret o) ∧ Issues s g (.jr o) ∧
    Issues s g (.loop o) ∧ g.getC o.cond.toNat = true ∧ (g.getS 63).toNat % 8 = 0 ∧ (g.getS o.sa.toNat).toNat % 8 = 0 :=
  ⟨st wG, wG, oS 0 4 0 1 7, issues_of (by decide), issues_of (by decide), issues_of (by decide), issues_of (by decide), issues_of (by decide),
    issues_of (by decide), by decide, by decide, by decide⟩
theorem witness_ScalarTransfers_misaligned : ∃ s g o, Issues s g (.ret o) ∧ Issues s g (.jr o) ∧ g.getC o.cond.toNat = true ∧ (g.getS 63).toNat % 8 ≠ 0 ∧
    (g.getS o.sa.toNat).toNat % 8 ≠ 0 :=
  ⟨st (g0.setS 63 4), g0.setS 63 4, oS 0 63 0, issues_of (by decide), issues_of (by decide), by decide, by decide, by decide⟩
theorem witness_ScalarTransfers_skipped : ∃ s g o, Issues s g (.bra o) ∧ Issues s g (.loop o) ∧ g.getC o.cond.toNat = false :=
  ⟨st g0, g0, oS 0 4 0 1 7 (cond := 1), issues_of (by decide), issues_of (by decide), by decide⟩

-- ## vector words

/-- Lanes from 0 on of a register take the values of a list. -/
def lanes (g : Group) (n : Nat) (l : List Lane) : Group := (l.zipIdx).foldl (fun g x => g.setV n x.2 x.1) g
/-- Lanes from 0 on of a register. -/
def lanesIn (g : Group) (n k : Nat) : List Lane := (List.range k).map (g.getV n)

/-- The table of results of R127: sums that saturate and wrap. -/
theorem test_iadd_sat : after (st (lanes (lanes g0 4 [0x7FFFFFFF, 0x80000000]) 5 [1, 0xFFFFFFFF])) (.iadd { oA 3 4 5 with sat := 1 }) 3 fun _ h =>
    lanesIn h 3 2 == [0x7FFFFFFF, 0x80000000] := by decide
theorem test_iadd_wrap : after (st (lanes (lanes g0 4 [0x7FFFFFFF]) 5 [1])) (.iadd (oA 3 4 5)) 3 fun _ h => h.getV 3 0 == 0x80000000 := by decide
theorem test_isra : after (st (lanes (lanes g0 4 [0x80000000]) 5 [33])) (.isra (oA 3 4 5)) 3 fun _ h => h.getV 3 0 == 0xC0000000 := by decide
theorem test_imulh : after (st (lanes (lanes g0 4 [0xFFFFFFFF]) 5 [2])) (.imulh (oA 3 4 5)) 3 fun _ h => h.getV 3 0 == 0xFFFFFFFF := by decide
/-- A source that is also the destination, rotated: all lanes are read before any is written (R26). -/
theorem test_vmov_rotate : after (st { lanes g0 4 [7, 8, 9] with regs := { (lanes g0 4 [7, 8, 9]).regs with k0 := 1 } }) (.vmov (oA 4 4 0 (ap := 1))) 3
    fun _ h => lanesIn h 4 3 == [8, 9, 0] && h.getV 4 31 == 7 := by decide
/-- Lanes past a predicate keep what they hold. -/
theorem test_vli_predicate : after (st ((lanes g0 4 [7, 8, 9]).setP 2 5)) (.vli (oI 4 1 (pred := 2))) 3 fun _ h => lanesIn h 4 3 == [1, 8, 1] := by decide
theorem test_vperm : after (st (lanes (lanes g0 4 [7, 8, 9]) 5 [2, 33, 0])) (.vperm (oA 6 4 5)) 3 fun _ h => lanesIn h 6 3 == [9, 8, 7] := by decide
/-- Example 6.3 before its `fadd`: the indexes, saturated at 1023. -/
theorem test_xidx : after (st ((lanes g0 1 [0, 3, 2000]).setX 2 0 0x0C801000)) (.xidx (oA 2 1 0)) 3 fun _ h =>
    h.getX 2 0 == 0x0C801000 && xIdx (h.getX 2 1) == 3 && xIdx (h.getX 2 2) == 1023 := by decide
theorem test_xset : after (st g0) (.xsetImm (oI 2 0xCC801000)) 3 fun _ h => h.getX 2 0 == 0x0C801000 := by decide
/-- A group with a user handler at 0x50000 that takes every trap it may. -/
def gU : Group := { g0 with trap := { g0.trap with utvec := 0x50001, utdeleg := 0x8E138 } }
/-- Example 6.3: an index register with IDX at or past LEN traps with group 3, code 1, the register and the operand position. -/
theorem test_index_bound : after (st ((gU.setX 2 0 0x0C801000).setX 2 1 0x0C801003 |>.setX 2 2 0x0C801006)) (.iadd (oA 9 9 770 (pred := 7))) 3
    fun _ h => h.trap.usr.cause == 0x01021801 && h.trap.usr.det0 == 2 && h.trap.usr.det2 == 2 && h.pc == 0x50000 && h.getV 9 0 == 0 := by decide

def vG : Group := lanes (lanes g0 4 [7, 8, 9]) 5 [1, 2, 40]

/-- A direct register below the claim is usable in any lanes. -/
theorem names_direct {g : Group} {code : BitVec 10} {span : Nat} {lane : Nat → Prop} (h : code.toNat < 768) (h' : code.toNat + span ≤ g.id.claim) :
    g.Names code span lane := by
  unfold Group.Names; rw [if_pos h]; exact h'

/-- An unscaled entry makes no further demand on a register. -/
theorem target_unscaled {g : Group} {act : Lane} {fmt : Nat} {d : BitVec 10} {span : Nat} (h : (g.entry fmt).sc = 0) (h1 : d.toNat < 768)
    (h2 : d.toNat + span ≤ g.id.claim) : g.TargetOk act fmt d span := ⟨names_direct h1 h2, fun hc => absurd h hc⟩
theorem source_unscaled {g : Group} {act : Lane} {fmt : Nat} {d : BitVec 10} {perm : BitVec 3} {span : Nat} (h : (g.entry fmt).sc = 0)
    (h1 : d.toNat < 768) (h2 : d.toNat + span ≤ g.id.claim) : g.SourceOk act fmt d perm span := ⟨names_direct h1 h2, fun hc => absurd h hc⟩

theorem witness_LanePermutation : (∃ l : Nat, l < 32 ∧ l = 31) ∧ ∃ s g o, Issues s g (.vperm o) ∧ g.DestOk (g.active o.pred) o.d ∧
    g.SrcOk (g.active o.pred) o.b o.bp ∧ g.Names o.a 1 fun m => g.live.getLsbD m = true ∧
      ∃ l, l < 32 ∧ (g.active o.pred).getLsbD l = true ∧ m = (g.fetchV o.b o.bp l).toNat % 32 :=
  ⟨⟨31, by decide, rfl⟩, st vG, vG, oA 6 4 5, issues_of (by decide), names_direct (by decide) (by decide), names_direct (by decide) (by decide),
    names_direct (by decide) (by decide)⟩
theorem witness_VectorLaneResults : ∃ s g i w, Issues s g i ∧ laneWord s g i = some w ∧ g.DestOk (g.active w.pred) w.d ∧
    ∀ a ∈ w.srcs, g.SrcOk (g.active w.pred) a.1 a.2 := by
  refine ⟨st vG, vG, .iadd (oA 6 4 5), _, issues_of (by decide), rfl, names_direct (by decide) (by decide), fun a ha => ?_⟩
  simp only [oA, List.mem_cons, List.not_mem_nil, or_false] at ha
  rcases ha with rfl | rfl <;> exact names_direct (by decide) (by decide)
theorem witness_VectorCompares : ∃ s g i o rel, Issues s g i ∧ integerRel i = some (o, rel) ∧ g.SrcOk (g.active o.pred) o.a o.ap ∧
    g.SrcOk (g.active o.pred) o.b o.bp ∧ o.d.toNat ≠ 7 :=
  ⟨st vG, vG, .icmpLt (oA 1 4 5), oA 1 4 5, _, issues_of (by decide), rfl, names_direct (by decide) (by decide), names_direct (by decide) (by decide),
    by decide⟩

-- ## floating-point words

/-- One lane's operands in v4 and v5, and what v3 and FFLAGS hold after a word. -/
def lane2 (i : Instr) (a b r : Lane) (flags : BitVec 5) : Bool :=
  after (st { (g0.setV 4 0 a).setV 5 0 b with mask := 1 }) i 3 fun _ h => h.getV 3 0 == r && h.fflags == flags
/-- Example 5.1. -/
theorem test_fadd : lane2 (.fadd (oA 3 4 5)) 0x7F800000 0xFF800000 0x7FC00000 Fmt.NV = true ∧ lane2 (.fadd (oA 3 4 5)) 0x3F800000 0xBF800000 0 0 = true ∧
    lane2 (.fadd { oA 3 4 5 with rnd := 3 }) 0x3F800000 0xBF800000 0x80000000 0 = true ∧
    lane2 (.fadd { oA 3 4 5 with sat := 1 }) 0x7F000000 0x7F000000 0x7F7FFFFF (Fmt.OF ||| Fmt.NX) = true := by decide
theorem test_fmul : lane2 (.fmul (oA 3 4 5)) 0x0D800000 0x0D800000 0 (Fmt.UF ||| Fmt.NX) = true := by decide
theorem test_fmin : lane2 (.fmin (oA 3 4 5)) 0x7FC00000 0x40000000 0x40000000 0 = true := by decide
theorem test_fmax : lane2 (.fmax (oA 3 4 5)) 0x80000000 0 0 0 = true := by decide
theorem test_fcmpLt : after (st ((g0.setV 4 0 0x7FC00000).setV 5 0 0x3F800000)) (.fcmpLt (oA 1 4 5)) 3 fun _ h =>
    !(h.getP 1).getLsbD 0 && h.fflags == Fmt.NV := by decide
/-- Example 5.2. -/
theorem test_fdiv : lane2 (.fdiv { oA 3 4 5 with rnd := 2 }) 0x3F800000 0x40400000 0x3EAAAAAB Fmt.NX = true ∧
    lane2 (.fdiv { oA 3 4 5 with rnd := 1 }) 0x3F800000 0x40400000 0x3EAAAAAA Fmt.NX = true := by decide
/-- Example 5.3. -/
theorem test_fexp2 : lane2 (.fexp2r (oA 3 4 0)) 0x3F000000 0 0x3FB504F3 Fmt.NX = true ∧ lane2 (.fexp2r (oA 3 4 0)) 0xC0400000 0 0x3E000000 0 = true := by
  decide +kernel
/-- Example 5.4. -/
theorem test_fpack : after (st (lanes (lanes (lanes (lanes g0 4 [0x3F800000]) 5 [0xC0000000]) 6 [0x43E00000]) 7 [0x3D800000])) (.fpack (oA 10 4 0 (fmt := 3))) 3
    fun _ h => h.getV 10 0 == 0x187EC038 && h.fflags == 0 := by decide
theorem test_fcvt : after (st (lanes g0 4 [0x3F800000])) (.fcvt (oA 10 4 0 (fmt := 3))) 3 fun _ h => h.getV 10 0 == 0x38 := by decide

theorem witness_FloatResults : ∃ s g i w, Issues s g i ∧ floatWord s g i = some w ∧ g.FloatOk w ∧ (g.entry w.fmt).sc = 0 := by
  refine ⟨st vG, vG, .fadd (oA 6 4 5), _, issues_of (by decide), rfl, ⟨by decide, by decide, by decide, target_unscaled (by decide) (by decide) (by decide),
    fun a ha => ?_⟩, by decide⟩
  simp only [oA, List.mem_cons, List.not_mem_nil, or_false] at ha
  rcases ha with rfl | rfl <;> exact source_unscaled (by decide) (by decide) (by decide)

/-- A register below 64 is usable under a block-scaled entry. -/
theorem scaled_direct {g : Group} {code : BitVec 10} {span : Nat} {lane : Nat → Prop} (h : code.toNat + span ≤ 64) : g.Scaled code span lane := by
  unfold Group.Scaled; rw [if_pos (by omega)]; exact h
theorem target_direct {g : Group} {act : Lane} {fmt : Nat} {d : BitVec 10} {span : Nat} (h : d.toNat + span ≤ 64) (h2 : 64 ≤ g.id.claim) :
    g.TargetOk act fmt d span := ⟨names_direct (by omega) (by omega), fun _ => scaled_direct h⟩
theorem source_direct {g : Group} {act : Lane} {fmt : Nat} {d : BitVec 10} {perm : BitVec 3} {span : Nat} (h : d.toNat + span ≤ 64)
    (h2 : 64 ≤ g.id.claim) : g.SourceOk act fmt d perm span := ⟨names_direct (by omega) (by omega), fun _ => scaled_direct h⟩

theorem witness_BlockScaledResults : ∃ s g i w, Issues s g i ∧ floatWord s g i = some w ∧ g.FloatOk w ∧ (g.entry w.fmt).sc ≠ 0 := by
  refine ⟨st vG, vG, .fadd (oA 63 4 5 (fmt := 5)), _, issues_of (by decide), rfl, ⟨by decide, by decide, by decide, target_direct (by decide) (by decide),
    fun a ha => ?_⟩, by decide⟩
  simp only [oA, List.mem_cons, List.not_mem_nil, or_false] at ha
  rcases ha with rfl | rfl <;> exact source_direct (by decide) (by decide)

/-- Entry 0 is invalid. -/
def gV : Group := { vG with view := 0 :: vG.view.tail }
theorem witness_EarlyTraps : (∃ s g o, Issues s g (.iadd o) ∧ o.d.toNat < 768 ∧ g.id.claim ≤ o.d.toNat) ∧
    (∃ s g i w, Issues s g i ∧ floatWord s g i = some w ∧ g.TargetOk (g.active w.pred) w.fmt w.d 1 ∧
      (∀ a ∈ w.srcs, g.SourceOk (g.active w.pred) w.srcFmt a.1 a.2) ∧ (g.entry w.fmt).v = false) ∧
    ∃ s g i w, Issues s g i ∧ floatWord s g i = some w ∧ g.TargetOk (g.active w.pred) w.fmt w.d 1 ∧
      (∀ a ∈ w.srcs, g.SourceOk (g.active w.pred) w.srcFmt a.1 a.2) ∧ (g.entry w.fmt).v = true ∧ (g.entry w.srcFmt).v = true ∧
      w.accepts (g.entry w.fmt) = false := by
  refine ⟨⟨st { vG with id := { vG.id with claim := 767 } }, { vG with id := { vG.id with claim := 767 } }, oA 767 4 5, issues_of (by decide), by decide,
      by decide⟩,
    ⟨st gV, gV, .fsqrt (oA 6 4 0), _, issues_of (by decide), rfl, target_direct (by decide) (by decide), fun a ha => ?_, by decide⟩,
    ⟨st vG, vG, .ftanhr (oA 6 4 0 (fmt := 5)), _, issues_of (by decide), rfl, target_direct (by decide) (by decide), fun a ha => ?_, by decide, by decide,
      by decide⟩⟩ <;>
  · simp only [oA, List.mem_cons, List.not_mem_nil, or_false] at ha
    rcases ha with rfl
    exact source_direct (by decide) (by decide)
theorem witness_FloatCompares : (∃ s g i o rel, Issues s g i ∧ floatRel i = some (o, rel) ∧ (g.entry o.fmt.toNat).v = true ∧
      ∀ a ∈ [(o.a, o.ap), (o.b, o.bp)], g.SourceOk (g.active o.pred) o.fmt.toNat a.1 a.2) ∧
    ∀ f : BitVec 3, f = 0 ∨ f = 5 → ∃ s g o, o.fmt = f ∧ Issues s g (.fsel o) ∧ (g.entry o.fmt.toNat).v = true ∧
      g.TargetOk (g.active o.pred) o.fmt.toNat o.d 1 ∧ ∀ a ∈ [(o.a, o.ap), (o.b, o.bp)], g.SourceOk (g.active o.pred) o.fmt.toNat a.1 a.2 := by
  have h (a b : BitVec 10) (f : Nat) (ha : a.toNat < 64) (hb : b.toNat < 64) :
      ∀ x ∈ [(a, (0 : BitVec 3)), (b, 0)], vG.SourceOk (vG.active 7) f x.1 x.2 := by
    intro x hx
    simp only [List.mem_cons, List.not_mem_nil, or_false] at hx
    rcases hx with rfl | rfl
    · exact source_direct (by simp only; omega) (by decide)
    · exact source_direct (by simp only; omega) (by decide)
  refine ⟨⟨st vG, vG, .fcmpLt (oA 1 4 5), oA 1 4 5, _, issues_of (by decide), rfl, by decide, h 4 5 0 (by decide) (by decide)⟩, fun f hf => ?_⟩
  rcases hf with rfl | rfl
  · exact ⟨st vG, vG, oA 6 4 5, rfl, issues_of (by decide), by decide, target_direct (by decide) (by decide), h 4 5 0 (by decide) (by decide)⟩
  · exact ⟨st vG, vG, oA 6 4 5 (fmt := 5), rfl, issues_of (by decide), by decide, target_direct (by decide) (by decide), h 4 5 5 (by decide) (by decide)⟩
theorem witness_PackAndUnpack : (∃ s g o, Issues s g (.fpack o) ∧ (g.entry o.fmt.toNat).v = true ∧ (g.entry (o.xf.toNat % 8)).v = true ∧
      (g.entry o.fmt.toNat).width < (g.entry (o.xf.toNat % 8)).width ∧ o.a.toNat < 768 ∧ g.TargetOk (g.active o.pred) o.fmt.toNat o.d 1 ∧
      g.SourceOk (g.active o.pred) (o.xf.toNat % 8) o.a o.ap 4) ∧
    ∃ s g o, Issues s g (.funpack o) ∧ (g.entry (o.xf.toNat % 8)).width < (g.entry o.fmt.toNat).width ∧ o.d.toNat + 4 ≤ 768 ∧
      g.SourceOk (g.active o.pred) (o.xf.toNat % 8) o.a o.ap ∧ g.TargetOk (g.active o.pred) o.fmt.toNat o.d 4 :=
  ⟨⟨st vG, vG, oA 6 4 0 (fmt := 3), issues_of (by decide), by decide, by decide, by decide, by decide, target_direct (by decide) (by decide),
      source_direct (by decide) (by decide)⟩,
    st vG, vG, oA 6 4 0 (xf := 3), issues_of (by decide), by decide, by decide, source_direct (by decide) (by decide),
    target_direct (by decide) (by decide)⟩
theorem witness_PairedHalves : ∃ s g hi lo i j, Issues s g (.pair hi lo) ∧ formOf hi = some i ∧ formOf lo = some j ∧ hi.d.toNat < 768 ∧ lo.d.toNat < 768 ∧
    hi.d ≠ lo.d ∧ HalfOk s g i ∧ HalfOk s g j := by
  refine ⟨st vG, vG, half 0x02 6 4, half 0x20 7 5, _, _, issues_of (by decide), rfl, rfl, by decide, by decide, by decide,
    ⟨by decide, by decide, by decide, target_direct (by decide) (by decide), fun a ha => ?_⟩, names_direct (by decide) (by decide), fun a ha => ?_⟩ <;>
  · simp only [half, List.mem_cons, List.not_mem_nil, or_false] at ha
    rcases ha with rfl | rfl
    all_goals first
      | exact source_direct (by decide) (by decide)
      | exact names_direct (by decide) (by decide)

-- ## predicates, reductions and the registers beside v

theorem test_pall_empty : after (st { g0 with mask := 0 }) (.pall (oA 1 2 0)) 3 fun _ h => h.getC 1 := by decide
theorem test_pnot_p7 : after (st g0) (.pnot (oA 7 7 0)) 3 fun _ h => h.getP 7 == 0xFFFFFFFF := by decide
theorem test_pfirst_none : after (st g0) (.pfirst (oA 1 2 0)) 3 fun _ h => h.getS 1 == 32 := by decide
/-- Example 9.2: groups of six threads. -/
def gR : Group :=
  let g : Group := lanes (lanes g0 1 [3, 5, 7, 9, 11, 13]) 2 [0x4B800000, 0x3F800000, 0x3F800000, 0xCB800000]
  ({ g with live := 0x3F, mask := 0x3F }.setP 1 0xFFFFFFFB).setP 2 0xF
theorem test_vredx_int : after (st gR) (.vredx (oA 8 1 0 8 (pred := 1))) 3 fun _ h => lanesIn h 8 6 == [41, 41, 0, 41, 41, 41] && h.fflags == 0 := by decide
theorem test_vscan_int : after (st gR) (.vscan (oA 9 1 0 8 (pred := 1))) 3 fun _ h => lanesIn h 9 6 == [3, 8, 0, 17, 28, 41] := by decide
theorem test_vredx_float : after (st gR) (.vredx (oA 10 2 0 (pred := 2))) 3 fun _ h =>
    lanesIn h 10 5 == [0x3F800000, 0x3F800000, 0x3F800000, 0x3F800000, 0] && h.fflags == Fmt.NX := by decide
theorem test_vscan_float : after (st gR) (.vscan (oA 11 2 0 (pred := 2))) 3 fun _ h =>
    lanesIn h 11 4 == [0x4B800000, 0x4B800000, 0x4B800001, 0x3F800000] := by decide
theorem test_spop_underflow : after (st gU) (.spop (oS 3 0 0)) 3 fun _ h => h.trap.sys == gU.trap.sys && h.pc == 0x50000 && h.trap.usr.cause == 0x6810 := by
  decide

def gP : Group := (g0.setP 1 0xC0000000).setP 2 5
theorem witness_PredicateLogic : (∃ s g i o x, Issues s g i ∧ predicateResult g i = some (o, x)) ∧
    ∃ s g o, Issues s g (.pany o) ∧ Issues s g (.pall o) ∧ Issues s g (.ppopc o) ∧ Issues s g (.pfirst o) ∧ o.d.toNat < 8 ∧
      (g.getP o.a.toNat &&& (g.mask &&& g.live)).getLsbD 30 = true ∧ ∀ j, j < 30 → (g.getP o.a.toNat &&& (g.mask &&& g.live)).getLsbD j = false :=
  ⟨⟨st gP, gP, .pand (oA 3 1 2), oA 3 1 2, _, issues_of (by decide), rfl⟩,
    st gP, gP, oA 1 1 0, issues_of (by decide), issues_of (by decide), issues_of (by decide), issues_of (by decide), by decide, by decide, by decide⟩
theorem witness_PredicateLogic_none : ∃ s g o, Issues s g (.pfirst o) ∧ g.getP o.a.toNat &&& (g.mask &&& g.live) = 0 :=
  ⟨st gP, gP, oA 1 3 0, issues_of (by decide), by decide⟩
theorem witness_ReductionsAndScans (scan : Bool) : ∃ s g o, Issues s g (if scan then .vscan o else .vredx o) ∧
    (o.xf.getLsbD 3 = false → (g.entry o.fmt.toNat).v = true ∧ 1 ≤ (g.entry o.fmt.toNat).e ∧ (g.entry o.fmt.toNat).sc = 0) ∧
    g.DestOk (g.active o.pred) o.d ∧ g.SrcOk (g.active o.pred) o.a o.ap := by
  refine ⟨st gR, gR, oA 10 2 0 (pred := 2), ?_, fun _ => by decide, names_direct (by decide) (by decide), names_direct (by decide) (by decide)⟩
  cases scan <;> exact issues_of (by decide)
theorem witness_ControlRegisters : ∃ s g o, Issues s g (.zset o) ∧ Issues s g (.zmov o) ∧ Issues s g (.xset o) ∧ Issues s g (.xidx o) ∧
    Issues s g (.xinc o) ∧ Issues s g (.fmtget o) ∧ g.SrcOk 0xF o.a o.ap ∧ g.SrcOk (g.active o.pred) o.a o.ap :=
  ⟨st vG, vG, oA 7 4 0, issues_of (by decide), issues_of (by decide), issues_of (by decide), issues_of (by decide), issues_of (by decide),
    issues_of (by decide), names_direct (by decide) (by decide), names_direct (by decide) (by decide)⟩
theorem witness_ControlRegisters_immediate : ∃ s g, Issues s g (.xsetImm (oI 7 5)) ∧ Issues s g (.kset (oI 0 5)) ∧ Issues s g (.kset (oI 1 5)) ∧
    Issues s g (.fmtset (oI 3 0xD441E000)) ∧ Fmt.entryRefusal (g.immOf (oI 3 0xD441E000)) = 0 ∧ Issues s g (.fmtset (oI 7 1)) ∧
    Fmt.entryRefusal (g.immOf (oI 7 1)) ≠ 0 :=
  ⟨st g0, g0, issues_of (by decide), issues_of (by decide), issues_of (by decide), issues_of (by decide), by decide, issues_of (by decide), by decide⟩
theorem witness_ReturnQueue : (∃ s g o, Issues s g (.vput o) ∧ (g.active 7).getLsbD 31 = true ∧ (∀ j, j < 31 → (g.active 7).getLsbD j = false) ∧
      g.SrcOk (BitVec.ofNat 32 (2 ^ 31)) o.a o.ap) ∧ (∃ s g o, Issues s g (.vput o) ∧ g.active 7 = 0 ∧ g.SrcOk 0 o.a o.ap) ∧
    (∃ s g o x r, Issues s g (.spop o) ∧ g.getC o.cond.toNat = true ∧ g.rq = x :: r) ∧
    ∃ s g o, Issues s g (.spop o) ∧ g.getC o.cond.toNat = true ∧ g.rq = [] :=
  ⟨⟨st { g0 with mask := 0x80000000 }, { g0 with mask := 0x80000000 }, oA 0 4 0, issues_of (by decide), by decide, by decide,
      names_direct (by decide) (by decide)⟩,
    ⟨st { g0 with mask := 0 }, { g0 with mask := 0 }, oA 0 4 0, issues_of (by decide), by decide, names_direct (by decide) (by decide)⟩,
    ⟨st { g0 with rq := [5] }, { g0 with rq := [5] }, oS 3 0 0, 5, [], issues_of (by decide), by decide, rfl⟩,
    st g0, g0, oS 3 0 0, issues_of (by decide), by decide, rfl⟩

-- ## special registers

def srd (n : BitVec 32) : OpS := oS 3 0 0 1 n
def swr (n : BitVec 32) : OpS := oS 0 4 0 1 n

theorem test_srd_identity : after (st g0) (.srd (srd 0)) 3 fun _ h => h.getS 3 == 32 := by decide
theorem test_srd_ltime : after (st { g0 with ltime := 41 }) (.srd (srd 0x31)) 3 fun _ h => h.getS 3 == 41 && h.ltime == 42 := by decide
theorem test_srd_privileged : after (st gU) (.srd (srd 0x800)) 3 fun _ h => h.getS 3 == 0 && h.pc != gU.pc + 8 := by decide
theorem test_swr_mask : after (st (g0.setS 4 (-1))) (.swr (swr 0x45)) 3 fun _ h => h.trap.utvec == 0xFFFFFFFFFFFFFFF9 := by decide
theorem test_swr_agelim : after (st (g0.setS 4 5)) (.swr (swr 0x32)) 3 fun _ h => h.agelim == 64 := by decide

/-- A group at level 2. -/
def gK : Group := { g0.setS 4 9 with trap := { g0.trap with lvl := 2 } }

theorem witness_SpecialReads : (∃ s g o t c v, Issues s g (.srd o) ∧ g.getC o.cond.toNat = true ∧ s.team? g.id.team = some t ∧
      s.cluster? g.id.cluster = some c ∧ specialValue s g t c (o.imm.toNat % 4096) = some v ∧ mayAccess g (o.imm.toNat % 4096) ∧
      s.timingRefused g.id.vf = false ∧ s.log g.id.vf = 0 ∧ g.fqHeld = [] ∧ g.speculative = false) ∧
    ∃ s g, Issues s g (.srd (srd 0x20)) ∧ Issues s g (.srd (srd 0x21)) ∧ s.timingRefused g.id.vf = false ∧ s.log g.id.vf = 0 ∧ g.speculative = false :=
  ⟨⟨st gK, gK, srd 0x83B, t0, c0, gK.enacc, issues_of (by decide), by decide, by decide, by decide, by decide, by intro; decide, by decide, by decide,
      by decide, by decide⟩,
    st g0, g0, issues_of (by decide), issues_of (by decide), by decide, by decide, by decide⟩
/-- A team whose stream runs. -/
def tGoing : Team := { t0 with seqr := { t0.seqr with run := true } }
theorem witness_SpecialWrites : (∃ s g g' o, Issues s g (.swr o) ∧ g.getC o.cond.toNat = true ∧
      writtenGroup g (o.imm.toNat % 4096) (g.getS o.sa.toNat) = some g' ∧ mayAccess g (o.imm.toNat % 4096) ∧ g.fqHeld = [] ∧ g.speculative = false) ∧
    ∀ n ∈ ([0x800, 0x801, 0x82D, 0x82F, 0x83A, 0x832] : List (BitVec 32)), ∃ s g t, Issues s g (.swr (swr n)) ∧ g.trap.lvl = 2 ∧ g.fqHeld = [] ∧
      g.speculative = false ∧ s.team? g.id.team = some t ∧ (s.det g.id.vf = true → g.id.grpid ∉ t.mx) ∧ (s.vf g.id.vf).tlbi = none ∧
      g.sel.image.length = 5 ∧ t.seqr.run = true ∧ g.sel.bar < 16 := by
  refine ⟨⟨st gK, gK, _, swr 0x83B, issues_of (by decide), by decide, rfl, by intro; decide, by decide, by decide⟩, fun n hn => ?_⟩
  simp only [List.mem_cons, List.not_mem_nil, or_false] at hn
  rcases hn with rfl | rfl | rfl | rfl | rfl | rfl <;>
    exact ⟨(st gK).setTeam tGoing, gK, tGoing, issues_of (by decide), by decide, by decide, by decide, by decide, by decide, by decide, by decide, by decide, by decide⟩
/-- A group with one tile. -/
theorem witness_SpecialWrites_tile : ∃ (s : State) (g : Group) (k : Nat), Issues s g (.swr (swr 0x83A)) ∧ s.tileKey g g.sel.acc = some k ∧ g.trap.lvl = 2 :=
  ⟨(st gK).setTeam { t0 with tiles := [[5], [], [], []] }, gK, 5, issues_of (by decide), by decide, by decide⟩
theorem witness_RefusedAccess : (∃ s g, Issues s g (.srd (srd 0x800)) ∧ Issues s g (.swr (swr 0x800)) ∧ g.trap.lvl ≠ 2) ∧
    (∃ s g, Issues s g (.swr (swr 0x4B))) ∧ (∃ s g, Issues s g (.swr (swr 0x815)) ∧ g.trap.lvl = 2) ∧
    ∃ s g, Issues s g (.srd (srd 0x30)) ∧ s.det g.id.vf = true ∧ s.rawclk g.id.vf = false :=
  ⟨⟨st g0, g0, issues_of (by decide), issues_of (by decide), by decide⟩, ⟨st g0, g0, issues_of (by decide)⟩,
    ⟨st gK, gK, issues_of (by decide), by decide⟩, stMode 1 g0, g0, issues_of (by decide), by decide, by decide⟩

-- ## divergence, ends, handlers

/-- Example 6.4: the group of eight threads at its first `vbr`, and what each word leaves. -/
def gD : Group :=
  let g : Group := { g0 with live := 0xFF, mask := 0xFF, pc := 0x2020 }
  (g.setP 2 0x24).setP 1 0x12
def path (m : Lane) (pc : Word) : DivEntry := { isPath := true, pc, mask := m }
def join (m : Lane) (pc : Word) : DivEntry := { isPath := false, pc, mask := m }
/-- A group with the given stack. -/
def withStack (g : Group) (l : List DivEntry) : Group := { g with dv := l ++ g.dv.drop l.length, dvDepth := l.length }
def stackOf (g : Group) : List DivEntry := g.dv.take g.dvDepth
theorem test_vbr : after (st gD) (.vbr (oI 0 1 (pred := 2))) 3 fun _ h => h.mask == 0x24 && h.pc == 0x2030 && stackOf h == [join 0xFF 0, path 0xDB 0x2028] := by
  decide
theorem test_vexit : after (st { withStack gD [join 0xFF 0, path 0xDB 0x2028] with mask := 0x24, pc := 0x2030 }) (.vexit (oA 0 0 0)) 3 fun _ h =>
    h.mask == 0xDB && h.live == 0xDB && h.pc == 0x2028 && stackOf h == [join 0xDB 0] := by decide
theorem test_vjoin_path : after (st { withStack gD [join 0xDB 0, path 0xC9 0x2048] with live := 0xDB, mask := 0x12, pc := 0x2060 }) (.vjoin (oA 0 0 0)) 3 fun _ h =>
    h.mask == 0xC9 && h.pc == 0x2048 && stackOf h == [join 0xDB 0x2068] := by decide
theorem test_vjoin_join : after (st { withStack gD [join 0xDB 0x2068] with live := 0xDB, mask := 0xC9, pc := 0x2060 }) (.vjoin (oA 0 0 0)) 3 fun _ h =>
    h.mask == 0xDB && h.pc == 0x2068 && h.dvDepth == 0 := by decide

def full (n : Nat) : Group := withStack { g0 with mask := 6 } (List.replicate n (join 6 0))
def fullP (n : Nat) (p : Lane) : Group := (full n).setP 1 p
def wB : OpI := oI 0 1 (pred := 1)
theorem witness_DivergentBranches :
    (∃ s g o, Issues s g (.vbr o) ∧ g.fqHeld = [] ∧ g.dv.length = 16 ∧ g.dvDepth = 14 ∧ g.mask &&& g.live &&& g.getP o.pred.toNat ≠ 0 ∧
      g.mask &&& g.live &&& ~~~ g.getP o.pred.toNat ≠ 0) ∧
    (∀ p : Lane, p = 0 ∨ p = 6 → ∃ s g o, Issues s g (.vbr o) ∧ g.dv.length = 16 ∧ g.dvDepth = 15 ∧
      (g.mask &&& g.live &&& g.getP o.pred.toNat = 0 ∨ g.mask &&& g.live &&& ~~~ g.getP o.pred.toNat = 0)) ∧
    (∃ s g o, Issues s g (.vbr o) ∧ g.dv.length = 16 ∧ g.dvDepth = 15 ∧ g.mask &&& g.live &&& g.getP o.pred.toNat ≠ 0 ∧
      g.mask &&& g.live &&& ~~~ g.getP o.pred.toNat ≠ 0) ∧
    (∃ s g o, Issues s g (.vjoin o) ∧ g.dvDepth = 0) ∧ (∃ s g o, Issues s g (.vjoin o) ∧ g.dvDepth = 16 ∧ g.dv.length = 16) := by
  refine ⟨⟨st (fullP 14 2), fullP 14 2, wB, issues_of (by decide), by decide, by decide, by decide, by decide, by decide⟩, fun p hp => ?_,
    ⟨st (fullP 15 2), fullP 15 2, wB, issues_of (by decide), by decide, by decide, by decide, by decide⟩,
    ⟨st g0, g0, oA 0 0 0, issues_of (by decide), by decide⟩, st (full 16), full 16, oA 0 0 0, issues_of (by decide), by decide, by decide⟩
  rcases hp with rfl | rfl
  · exact ⟨st (fullP 15 0), fullP 15 0, wB, issues_of (by decide), by decide, by decide, by decide⟩
  · exact ⟨st (fullP 15 6), fullP 15 6, wB, issues_of (by decide), by decide, by decide, by decide⟩

/-- The topmost entry with a lane left is a PATH, a JOIN that was not reached, or none. -/
def gTop (e : DivEntry) : Group := withStack { g0 with mask := 6, live := 7 } [e, path 6 0x2000]
theorem witness_EndingThreads :
    (∃ s g o, Issues s g (.vexit o) ∧ g.fqHeld = [] ∧ g.speculative = false ∧ g.dv.length = 16 ∧ g.dvDepth = 2 ∧
      (g.entryAt 0).mask &&& ~~~(g.mask &&& g.live) ≠ 0 ∧ (g.entryAt 1).mask &&& ~~~(g.mask &&& g.live) = 0 ∧ (g.entryAt 0).isPath = true) ∧
    (∃ s g o, Issues s g (.vexit o) ∧ g.dvDepth = 2 ∧ (g.entryAt 0).mask &&& ~~~(g.mask &&& g.live) ≠ 0 ∧
      (g.entryAt 1).mask &&& ~~~(g.mask &&& g.live) = 0 ∧ (g.entryAt 0).isPath = false ∧ (g.entryAt 0).pc = 0) ∧
    (∃ s g o, Issues s g (.vexit o) ∧ ∀ k, k < g.dvDepth → (g.entryAt k).mask &&& ~~~(g.mask &&& g.live) = 0) ∧
    ∃ s g o, Issues s g (.exit o) ∧ g.failed = [] :=
  ⟨⟨st (gTop (path 7 0x2000)), gTop (path 7 0x2000), oA 0 0 0, issues_of (by decide), by decide, by decide, by decide, by decide, by decide, by decide,
      by decide⟩,
    ⟨st (gTop (join 7 0)), gTop (join 7 0), oA 0 0 0, issues_of (by decide), by decide, by decide, by decide, by decide, by decide⟩,
    ⟨st g0, g0, oA 0 0 0, issues_of (by decide), by decide⟩, st g0, g0, oA 0 0 0, issues_of (by decide), by decide⟩

/-- The virtual function has a system handler at 0x60000. -/
def withSystem (s : State) : State := s.setVf { s.vf 0 with stvec := 0x60001 }
def pend (g : Group) (t : TrapReq) : Group := { g with trap := { g.trap with entry := some t } }
theorem test_trap_user : after (st { gU with mask := 0xF0 }) (.trap (oI 0 7)) 3 fun _ h =>
    h.trap.usr.cause == 0x9807 && h.trap.usr.pc == 0x40000 && h.trap.usr.mask == 0xF0 && h.mask == 0xFFFFFFFF && h.trap.lvl == 1 && h.pc == 0x50000 := by decide
theorem test_rtt : after (st { gU with mask := 6, trap := { gU.trap with lvl := 1, usr := { gU.trap.usr with pc := 0x40010, mask := 0xFF } } }) (.rtt (oA 0 0 0)) 3
    fun _ h => h.pc == 0x40010 && h.mask == 0xFF && h.trap.lvl == 0 := by decide
theorem witness_HandlerEntry :
    (∃ s g t key, s.group? key = some g ∧ g.trap.entry = some t ∧ Drained g ∧ g.wait = .run ∧ s.log g.id.vf = 0 ∧ s.standing g = true ∧ ToUser s g t) ∧
    (∃ s g t key, s.group? key = some g ∧ g.trap.entry = some t ∧ Drained g ∧ g.wait = .run ∧ s.log g.id.vf = 0 ∧ s.standing g = true ∧ ToSystem s g t) ∧
    (∃ s g o, Issues s g (.trap o) ∧ Drained g ∧ s.log g.id.vf = 0 ∧ g.wait = .run ∧ g.trap.lvl = 0 ∧ g.trap.utvec.getLsbD 0 = true ∧
      g.trap.utdeleg.getLsbD 19 = true) ∧
    ∃ s g o, Issues s g (.trap o) ∧ Drained g ∧ s.log g.id.vf = 0 ∧ g.wait = .run ∧ g.trap.lvl = 0 ∧ g.trap.utvec.getLsbD 0 = true ∧
      g.trap.utdeleg.getLsbD 19 = false ∧ (s.vf g.id.vf).stvec.getLsbD 0 = true := by
  refine ⟨⟨st (pend gU (mkTrap 5 1 4)), pend gU (mkTrap 5 1 4), mkTrap 5 1 4, 3, by decide, by decide, by unfold Drained; decide, by decide, by decide, by decide,
      by unfold ToUser Handled AlwaysFatal; decide⟩,
    ⟨withSystem (st (pend g0 (mkTrap 5 1 4))), pend g0 (mkTrap 5 1 4), mkTrap 5 1 4, 3, by decide, by decide, by unfold Drained; decide, by decide,
      by decide, by decide, by unfold ToSystem ToUser Handled AlwaysFatal; decide⟩,
    ⟨st gU, gU, oI 0 7, issues_of (by decide), by unfold Drained; decide, by decide, by decide, by decide, by decide, by decide⟩,
    withSystem (st { gU with trap := { gU.trap with utdeleg := 0 } }), { gU with trap := { gU.trap with utdeleg := 0 } }, oI 0 7, issues_of (by decide),
    by unfold Drained; decide, by decide, by decide, by decide, by decide, by decide, by decide⟩

def gL (n : BitVec 2) (d : BitVec 5) : Group := { g0 with trap := { g0.trap with lvl := n, udepth := d, sdepth := d } }
theorem witness_ReturnFromTrap : ∀ (n : BitVec 2) (d : BitVec 5), n < 3 → d < 2 → ∃ s g, Issues s g (.rtt (oA 0 0 0)) ∧ g.speculative = false ∧ g.trap.lvl = n ∧
    g.trap.udepth = d ∧ g.trap.sdepth = d ∧ g.dvDepth = 0 := by
  intro n d hn hd
  refine ⟨st (gL n d), gL n d, ?_, rfl, rfl, rfl, rfl, show g0.dvDepth = 0 by decide⟩
  apply issues_of
  revert n d
  decide
/-- A debug agent is attached to the virtual function. -/
def withAgent (s : State) : State := s.setPart { s.part 0 with dbg := { (s.part 0).dbg with unl := true, ctl := 0x0001000000000000 } }
theorem witness_GroupControl :
    (∃ s g c, Issues s g (.yield (oA 0 0 0)) ∧ Issues s g (.ckpt (oA 0 0 0)) ∧ Issues s g (.brk (oI 0 3)) ∧ Issues s g (.fence (oM 0 0 0 0 0)) ∧
      Issues s g (.wait (oI 0 0)) ∧ Issues s g (.sigMark (oA 0 0 0)) ∧ s.cluster? g.id.cluster = some c ∧ s.attached g.id.vf = false ∧ g.failed = [] ∧
      g.ops = [] ∧ g.ldcnt = 0 ∧ g.stcnt = 0 ∧ g.cpcnt = 0 ∧ s.mxcnt g = 0 ∧ g.tagDone = 0 ∧ s.log g.id.vf = 0) ∧
    (∃ s g, Issues s g (.brk (oI 0 3)) ∧ s.attached g.id.vf = true) ∧
    ∀ n : BitVec 2, n = 0 ∨ n = 2 → ∃ s g c p k, Issues s g (.halt (oA 0 0 0)) ∧ g.trap.lvl = n ∧ g.speculative = false ∧ s.cluster? g.id.cluster = some c ∧
      s.partOf g.id.vf = some p ∧ p.slotOf g.id.vf = some k := by
  refine ⟨⟨st g0, g0, c0, issues_of (by decide), issues_of (by decide), issues_of (by decide), issues_of (by decide), issues_of (by decide),
      issues_of (by decide), by decide, by decide, by decide, by decide, by decide, by decide, by decide, by decide, by decide, by decide⟩,
    ⟨withAgent (st g0), g0, issues_of (by decide), by decide⟩, fun n hn => ?_⟩
  refine ⟨st (gL n 0), gL n 0, c0, s0.part 0, 0, ?_, rfl, rfl, by rcases hn with rfl | rfl <;> decide, by rcases hn with rfl | rfl <;> decide,
    show (s0.part 0).slotOf g0.id.vf = some 0 by decide⟩
  apply issues_of
  rcases hn with rfl | rfl <;> decide

-- ## memory words

/-- A word of memory. -/
def withWord (s : State) (a : Nat) (w : Lane) : State := { s with mem := Memory.writeN s.mem a (leBytes 4 w.toNat) }
/-- Lanes 0 and 1 load or store 4 bytes at s4 + 4 × v5. -/
def gM : Group := { (lanes g0 5 [0, 1]).setS 4 0x100000 with mask := 3 }
def wM : OpM := oM 6 5 4 2 2
def planM (i : Instr) : AccessPlan := (memoryWord gM i).getD { req := { kind := .load }, lanes := [], ok := True }
/-- The addresses of the lanes' accesses, their translations and the state translation leaves. -/
def placesM (i : Instr) : List Nat := match allOk ((planM i).lanes.map ((st gM).place gM (planM i).req)) with | .ok l => l | .error _ => []
def pasM (i : Instr) : List (Nat × Nat) := match ((st gM).resolve gM (planM i).req (planM i).lanes (placesM i)).1 with | .ok l => l | .error _ => []
def leftM (i : Instr) : State := ((st gM).resolve gM (planM i).req (planM i).lanes (placesM i)).2
theorem test_translated : pasM (.vldG wM) = [(0x100000, 0), (0x100004, 0)] := by decide

/-- Addresses outside every register window. -/
theorem plain_of {pas : List (Nat × Nat)} {n : Nat} (h : ∀ p ∈ pas, windowAt p.1 = none) :
    ∀ p ∈ pas, ∀ off, windowAt p.1 = some (.vf n, off) → ¬ (0x100 ≤ off ∧ off < 0x200) :=
  fun p hp off hw => absurd hw (by rw [h p hp]; exact fun h => nomatch h)
theorem witness_MemoryAccesses : (∃ s s' g a pas, Issues s g (.vldG wM) ∧ memoryWord g (.vldG wM) = some a ∧ a.ok ∧ Passes s g a pas s') ∧
    ∃ s s' g a pas, Issues s g (.vstG wM) ∧ memoryWord g (.vstG wM) = some a ∧ a.ok ∧ Passes s g a pas s' :=
  ⟨⟨st gM, leftM (.vldG wM), gM, planM (.vldG wM), pasM (.vldG wM), issues_of (by decide), rfl,
      ⟨names_direct (by decide) (by decide), fun _ => names_direct (by decide) (by decide)⟩,
      ⟨by decide, by decide, by decide, ⟨placesM (.vldG wM), rfl, rfl, by decide⟩, by decide, plain_of (by decide)⟩⟩,
    ⟨st gM, leftM (.vstG wM), gM, planM (.vstG wM), pasM (.vstG wM), issues_of (by decide), rfl,
      ⟨names_direct (by decide) (by decide), fun _ => names_direct (by decide) (by decide)⟩,
      ⟨by decide, by decide, by decide, ⟨placesM (.vstG wM), rfl, rfl, by decide⟩, by decide, plain_of (by decide)⟩⟩⟩
/-- Lane 0 is aligned and lane 1 is not. -/
def wMis : OpM := oM 6 5 4 0 2
def gMis1 : Group := { lanes gM 5 [0, 2] with mask := 3 }
theorem test_misaligned : after (st { gU with regs := gMis1.regs, mask := 3 }) (.vldG wMis) 3 fun _ h =>
    h.trap.usr.cause == 0x01014003 && h.trap.usr.det0 == 0x100002 && h.trap.usr.det2 == 2 := by decide
theorem witness_MemoryAccesses_misaligned : ∃ s g a below above r, Issues s g (.vldG wMis) ∧ memoryWord g (.vldG wMis) = some a ∧ a.ok ∧
    g.memStall a.req = false ∧ watchTrap g a.req.kind.access a.req.elem a.lanes = none ∧ a.req.stash = false ∧ a.lanes = below ++ r :: above ∧
    (∀ x ∈ below, x.va.toNat % x.size = 0) ∧ r.va.toNat % r.size ≠ 0 :=
  ⟨st gMis1, gMis1, (memoryWord gMis1 (.vldG wMis)).getD { req := { kind := .load }, lanes := [], ok := True },
    [{ lane := 0, va := 0x100000, size := 4, reg := 6 }], [], { lane := 1, va := 0x100002, size := 4, reg := 6 }, issues_of (by decide), rfl,
    ⟨names_direct (by decide) (by decide), fun _ => names_direct (by decide) (by decide)⟩, by decide, by decide, by decide, rfl, by decide,
    by decide⟩

-- ## elements, stash rows, and accesses that perform

/-- A gather of registers 8 to 15 indexed by registers 16 to 23 by lanes 0 and 1, with PIDX left at element 7. -/
def gG : Group := { gM with pidx := 7, pidxPc := gM.pc }
def wG' : OpM := oM 8 16 4 2 2
def elemG (g : Group) (j : Nat) : Except TrapReq (State × Group) :=
  ((st gG).issueMem { g with pidx := BitVec.ofNat 4 j, pidxPc := g.pc } { g with pidx := BitVec.ofNat 4 j, pidxPc := g.pc } { kind := .load, elem := j } g.nextInst
    (g.elemReqs wG' false j)).1
/-- What an answer holds, or something else. -/
def okOr {α : Type} (d : α) (x : Except TrapReq α) : α := match x with | .ok a => a | .error _ => d
def isOk {α : Type} (x : Except TrapReq α) : Bool := match x with | .ok _ => true | .error _ => false
theorem ok_of {α : Type} (d : α) {x : Except TrapReq α} (h : isOk x = true) : x = .ok (okOr d x) := by
  cases x with
  | ok a => rfl
  | error t => cases h
theorem answer_of {α : Type} (d : α) (x : Except TrapReq α × State) (h : isOk x.1 = true) : x = (.ok (okOr d x.1), x.2) := Prod.ext (ok_of d h) rfl
def gGl : Group := gG.latched (.vgath wG')
def elemsG : State × Group := okOr (s0, g0) (elemG gGl 7)
theorem elemsG_ok : elemG gGl 7 = .ok (elemsG.1, elemsG.2) := ok_of (s0, g0) (by decide)
theorem elemsG_from : (List.range 8).drop (if gG.pidxPc = gG.pc then gG.pidx.toNat else 0) = [7] := by decide
theorem witness_GatherAndScatter : ∃ s s' g g' o, Issues s g (.vgath o) ∧ g.DestOk (g.active o.pred) o.d 8 ∧ g.DestOk (g.active o.pred) o.a 8 ∧
    g.memStall { kind := .load } = false ∧ o.d.toNat + 8 ≤ o.a.toNat ∧
    ElementsPass o false g.nextInst ((List.range 8).drop (if g.pidxPc = g.pc then g.pidx.toNat else 0)) [] s (g.latched (.vgath o)) s' g' ∧
      s'.group? g.id.key = some g :=
  ⟨st gG, elemsG.1, gG, elemsG.2, wG', issues_of (by decide), names_direct (by decide) (by decide), names_direct (by decide) (by decide), by decide, by decide,
    elemsG_from ▸ ⟨elemsG.1, elemsG.2, elemsG_ok, rfl, rfl⟩, by decide⟩
/-- Element 0 is misaligned in lane 1. -/
def gE : Group := { lanes gM 16 [0, 1] with pidx := 0 }
def wE : OpM := oM 8 16 4 0 2
theorem witness_GatherAndScatter_fails : ∃ s g o t g', Issues s g (.vgath o) ∧ g.DestOk (g.active o.pred) o.d 8 ∧ g.DestOk (g.active o.pred) o.a 8 ∧
    g.memStall { kind := .load } = false ∧ ElementsPass o false g.nextInst [] [] s (g.latched (.vgath o)) s g' ∧
    (s.issueMem { g' with pidx := 0, pidxPc := g'.pc } { g' with pidx := 0, pidxPc := g'.pc } { kind := .load, uc := o.uc, dz := o.dz == 1, elem := 0 } g.nextInst
      (g'.elemReqs o false 0)).1 = .error t ∧ t.grp ≠ 31 :=
  ⟨st gE, gE, wE, _, gE.latched (.vgath wE), issues_of (by decide), names_direct (by decide) (by decide), names_direct (by decide) (by decide), by decide, ⟨rfl, rfl⟩, rfl, by decide⟩
theorem witness_GatherAndScatter_overlap : ∃ s g o, Issues s g (.vgath o) ∧ g.DestOk (g.active o.pred) o.d 8 ∧ g.DestOk (g.active o.pred) o.a 8 ∧
    o.d.toNat < o.a.toNat + 8 ∧ o.a.toNat < o.d.toNat + 8 :=
  ⟨st gM, gM, oM 8 15 4 2 2, issues_of (by decide), names_direct (by decide) (by decide), names_direct (by decide) (by decide), by decide, by decide⟩

/-- Row 63 of the team's own stash, for a count of 1 in s5. -/
def gT : Group := ((g0.setS 3 (15 * 2 ^ 20 + 128 * 63)).setS 5 1).setS 4 0x100080
def wT : OpM := oM 3 5 4 0 0
def lineT : Except TrapReq (Nat × Nat) × State := (st gT).translate { gT.asker with normal := true } .write (laneAddress gT { wT with scl := 7 } (fun _ => 0) 0)
theorem lineT_ok : lineT = (.ok ((okOr (0, 0) lineT.1).1, (okOr (0, 0) lineT.1).2), lineT.2) := answer_of (0, 0) lineT (by decide)
theorem witness_StashMapping : (∃ s g t, s.team? g.id.team = some t ∧ g.speculative = false ∧ g.getS 5 = 0 ∧ Issues s g (.stmap wT) ∧ Issues s g (.stunmap wT) ∧
      Issues s g (.stflush wT) ∧ Issues s g (.stinv wT)) ∧
    ∃ s g t, s.team? g.id.team = some t ∧ g.speculative = false ∧ g.getS 5 = 1 ∧ 63 < t.stashRows ∧ (g.getS 3).toNat = 15 * 2 ^ 20 + 128 * 63 ∧ s.locks = [] ∧
      (∀ h ∈ s.groups, h.ops = []) ∧ (s.row (t.core * 4096 + t.stashBase + 63)).st ≠ .d ∧ Issues s g (.stmap wT) ∧ Issues s g (.stunmap wT) ∧
      Issues s g (.stflush wT) ∧ Issues s g (.stinv wT) ∧ Unshared s ∧ ∃ s' pa mt, (laneAddress g { wT with scl := 7 } (fun _ => 0) 0).toNat % 128 = 0 ∧
        s.translate { g.asker with normal := true } .write (laneAddress g { wT with scl := 7 } (fun _ => 0) 0) = (.ok (pa, mt), s') ∧ s'.rows = s.rows ∧
        s'.stash = s.stash ∧ s'.locks = [] ∧ s'.groups = s.groups :=
  ⟨⟨st g0, g0, t0, by decide, by decide, by decide, issues_of (by decide), issues_of (by decide), issues_of (by decide), issues_of (by decide)⟩,
    st gT, gT, t0, by decide, by decide, by decide, by decide, by decide, by decide, by decide, by decide, issues_of (by decide), issues_of (by decide),
    issues_of (by decide), issues_of (by decide), ⟨by decide, by decide⟩, lineT.2, _, _, by decide, lineT_ok, by decide, by decide, by decide, by decide⟩

/-- A pending operation of group 3 on two words of memory, for lanes 0 and 1. -/
def opOf (kind : OpKind) (parts : List Part) : MemOp := { id := 5, inst := 5, kind, space := .mem, parts }
def two (data swap : List Byte) : List Part :=
  [{ lane := 0, va := 0x100000, addr := 0x100000, size := 4, data, swap, reg := 6 }, { lane := 1, va := 0x100000, addr := 0x100000, size := 4, data, swap, reg := 6 }]
def withOp (o : MemOp) : State := st { g0 with ops := [o] }
/-- A load, a store and an atomic of a group, each alone in flight, may perform (R256, Example 12.3: old values by lane). -/
theorem test_load : after (withWord (withOp (opOf .load (two [] []))) 0x100000 0x12345678) (.loadDataReturn 3 5 0) 3 fun _ h =>
    h.getV 6 0 == 0x12345678 && h.ops.isEmpty := by decide
theorem test_store_order : after (withOp (opOf .store ((two [1, 2, 3, 4] []).take 1 ++ (two [5, 6, 7, 8] []).drop 1))) (.storePerformed 3 5 0) 3 fun t _ =>
    Memory.readN t.mem 0x100000 4 == [5, 6, 7, 8] := by decide
theorem test_atomic_lanes : after (withWord (withOp (opOf (.rmw .add) (two [1, 0, 0, 0] []))) 0x100000 10) (.loadDataReturn 3 5 0) 3 fun t h =>
    h.getV 6 0 == 10 && h.getV 6 1 == 11 && Memory.readN t.mem 0x100000 4 == [12, 0, 0, 0] := by decide
theorem test_cas_lanes : after (withWord (withOp (opOf (.rmw .cas) (two [46, 0, 0, 0] [100, 0, 0, 0]))) 0x100000 46) (.loadDataReturn 3 5 0) 3 fun t h =>
    h.getV 6 0 == 46 && h.getV 6 1 == 100 && Memory.readN t.mem 0x100000 4 == [100, 0, 0, 0] := by decide

def performsB (s : State) (g : Group) (o : MemOp) : Bool :=
  s.group? 3 == some g && (g.ops.find? fun x => x.id == 5) == some o && s.eligible g o && s.stepFive g o == none && o.space != .device &&
    s.log g.id.vf == 0 && s.rows.isEmpty && (s.slices.all fun x => !x.dz) && !o.dz && !s.overtakes g o && s.injectable g o &&
    (s.linesOf o).all fun k => !s.linkBlocks k
theorem performs_of {s : State} {g : Group} {o : MemOp} (h : performsB s g o = true) : Performs s 3 5 g o := by
  simp only [performsB, Bool.and_eq_true, beq_iff_eq, bne_iff_ne, List.isEmpty_iff, List.all_eq_true, Bool.not_eq_true'] at h
  obtain ⟨⟨⟨⟨⟨⟨⟨⟨⟨⟨⟨h1, h2⟩, h3⟩, h4⟩, h5⟩, h6⟩, h7⟩, h8⟩, h9⟩, h10⟩, h11⟩, h12⟩ := h
  exact ⟨h1, h2, h3, h4, h5, h6, ⟨h7, h8⟩, h9, h10, h11, h12⟩
def gO (o : MemOp) : Group := { g0 with ops := [o] }
def oneWord (kind : OpKind) : MemOp := opOf kind ((two [1, 2, 3, 4] []).take 1)
theorem witness_LoadsAndStoresPerform : ∀ k ∈ ([.load, .sload 3, .store] : List OpKind), ∃ s g o, Performs s 3 5 g o ∧ o.kind = k ∧ o.parts.length = 1 ∧
    (o.parts.map (·.lane)).Nodup ∧ (∀ p ∈ o.parts, p.lane < 32) ∧ (∀ p ∈ o.parts, p.data.length = p.size) ∧ g.olderThan o = [] ∧ (∀ n l, o.keeps n l = true) :=
  fun k hk => ⟨withOp (oneWord k), gO (oneWord k), oneWord k,
    performs_of ((by decide : ∀ k ∈ ([.load, .sload 3, .store] : List OpKind), performsB (withOp (oneWord k)) (gO (oneWord k)) (oneWord k) = true) k hk), rfl, rfl,
    by simp [oneWord, opOf, two], by simp [oneWord, opOf, two], by simp [oneWord, opOf, two], by simp [Group.olderThan, gO, oneWord, opOf], fun _ _ => rfl⟩
/-- A mailbox operation on the line at 0x100080 by lanes 0 to 3. -/
def boxParts : List Part := [0, 1, 2, 3].map fun l => { lane := l, va := 0x100080, addr := 0x100080, size := 128, data := [1, 2, 3, 4], reg := 20 }
def boxState (kind : OpKind) (head count : Nat) : State := withWord (withOp (opOf kind boxParts)) 0x100080 (BitVec.ofNat 32 (head + 256 * count))
/-- Example 12.2: HEAD = 5 and COUNT = 6; a get takes slot 5, a put fills slot (5 + 6) mod 7. -/
theorem test_mbox_get : after (boxState (.mboxGet 1) 5 6) (.loadDataReturn 3 5 0) 3 fun t h => h.getC 1 && Memory.readN t.mem 0x100080 2 == [6, 5] := by decide
theorem test_mbox_put : after (boxState (.mboxPut 1) 5 6) (.storePerformed 3 5 0) 3 fun t h =>
    h.getC 1 && Memory.readN t.mem 0x100080 2 == [5, 7] && Memory.readN t.mem 0x1000D0 4 == [1, 2, 3, 4] := by decide
def twoOp (k : OpKind) : MemOp := opOf k (two [1, 2, 3, 4] [5, 6, 7, 8])
theorem witness_AtomicsPerform : ∀ k ∈ ([.rmw .add, .rmw .cas, .red .add] : List OpKind), ∃ s g o, Performs s 3 5 g o ∧ o.kind = k ∧ o.space = .mem ∧
    (∀ p ∈ o.parts, (p.size = 4 ∨ p.size = 8) ∧ p.data.length = p.size) ∧ (∀ p ∈ o.parts, p.swap.length = p.size) ∧
    (o.parts.map (·.lane)).Nodup ∧ (∀ p ∈ o.parts, p.lane < 32) ∧ s.det g.id.vf = false ∧ ∀ n l, o.keeps n l = true :=
  fun k hk => ⟨withOp (twoOp k), gO (twoOp k), twoOp k,
    performs_of ((by decide : ∀ k ∈ ([.rmw .add, .rmw .cas, .red .add] : List OpKind), performsB (withOp (twoOp k)) (gO (twoOp k)) (twoOp k) = true) k hk), rfl, rfl,
    by simp [twoOp, opOf, two], by simp [twoOp, opOf, two], by simp [twoOp, opOf, two], by simp [twoOp, opOf, two],
    (show (st g0).det 0 = false by decide), fun _ _ => rfl⟩
theorem witness_AtomicsPerform_mailbox : ∀ k ∈ ([.mboxPut 1, .mboxGet 1] : List OpKind), ∀ n ∈ [0, 7], ∃ s g o, Performs s 3 5 g o ∧ o.kind = k ∧ o.space = .mem ∧
    (∃ p0 p1 p2 p3 : Part, o.parts = [p0, p1, p2, p3] ∧ (∀ p ∈ o.parts, p.addr = 0x100080) ∧ p0.lane = 0 ∧ p1.lane = 1 ∧ p2.lane = 2 ∧ p3.lane = 3) ∧
    Memory.readN s.mem 0x100080 2 = [6, BitVec.ofNat 8 n] ∧ ∀ p ∈ o.parts, p.data.length = 4 :=
  fun k hk n hn => ⟨boxState k 6 n, gO (opOf k boxParts), opOf k boxParts,
    performs_of ((by decide : ∀ k ∈ ([.mboxPut 1, .mboxGet 1] : List OpKind), ∀ n ∈ [0, 7],
      performsB (boxState k 6 n) (gO (opOf k boxParts)) (opOf k boxParts) = true) k hk n hn), rfl, rfl, ⟨_, _, _, _, rfl, by simp [opOf, boxParts], rfl, rfl, rfl, rfl⟩,
    (by decide : ∀ k ∈ ([.mboxPut 1, .mboxGet 1] : List OpKind), ∀ n ∈ [0, 7],
      Memory.readN (boxState k 6 n).mem 0x100080 2 = [6, BitVec.ofNat 8 n]) k hk n hn, by simp [opOf, boxParts]⟩

-- ## copies and tags

theorem untraced_of {s : State} {vf : Nat} (h : ((s.partOf vf).all fun p => s.device.trsel.toNat % 32 != 16 + p.num &&
    (decide (p.trbase.toNat % 32 < 4) || decide (20 < p.trbase.toNat % 32))) = true) : Untraced s vf := by
  intro p hp
  rw [hp] at h
  simpa using h

/-- s6 and s7 name addresses, s8 is a shape of 16 bytes, s10 and s11 are the strides. -/
def gY : Group := ((((g0.setS 6 0x100000).setS 7 0x100100).setS 8 0x10001000010)).setS 5 20
def wY : OpE := oE (d := 8) (a := 10) (sb1 := 6) (sb2 := 7) (num := 63)
def wZ : OpE := oE (sb1 := 6) (sb2 := 5) (num := 63)
def busyTag (g : Group) : Group := { g with tagBusy := 0x8000000000000000 }
def endAt (a : Word) : CopyEnd := { isStash := false, addr := a, core := 0, base := 0, ystr := 0, zstr := 0 }
/-- The pages of a destination (write) and of a source. -/
def pagesY (s : State) (acc : Access) (l : List Nat) : Except TrapReq (List (Nat × Nat × Bool)) × State := s.pagesOf gY acc l
def pZ := pagesY (st gY) .write [0x10]
def pD := pagesY (st gY) .write ((endAt 0x100000).pages 0x10001000010)
def pS := pagesY pD.2 .read ((endAt 0x100100).pages 0x10001000010)
theorem pZ_ok : pZ = (.ok (okOr [] pZ.1), pZ.2) := answer_of [] pZ (by decide)
theorem pD_ok : pD = (.ok (okOr [] pD.1), pD.2) := answer_of [] pD (by decide)
theorem pS_ok : pS = (.ok (okOr [] pS.1), pS.2) := answer_of [] pS (by decide +kernel)

theorem endpoint_of {s : State} {g : Group} {addr shape stride : Word} {e : CopyEnd} (h : e.isStash = false ∧ e.addr = addr ∧
    e.ystr = (stride.extractLsb' 0 32).toInt ∧ e.zstr = (stride.extractLsb' 32 32).toInt ∧ e.core = 0 ∧ e.base = 0) :
    EndpointOk s g false addr shape stride e := ⟨h.1, h.2.1, h.2.2.1, h.2.2.2.1, by rw [if_neg (by decide)]; exact h.2.2.2.2⟩
theorem witness_CopyCommands_traps : (∃ s g o, Issues s g (.cpy o) ∧ g.speculative = false ∧ ¬ LegalShape (g.getS o.d.toNat)) ∧
    ∃ s g o, Issues s g (.cpy o) ∧ Issues s g (.comb o) ∧ g.speculative = false ∧ LegalShape (g.getS o.d.toNat) ∧ g.tagBusy.getLsbD o.num.toNat = true :=
  ⟨⟨st g0, g0, wY, issues_of (by decide), by decide, by unfold LegalShape; decide⟩, st (busyTag gY), busyTag gY, wY, issues_of (by decide), issues_of (by decide),
    by decide, by unfold LegalShape; decide, by decide⟩
theorem witness_CopyCommands_comb : (∃ s g o, Issues s g (.comb o) ∧ g.tagBusy.getLsbD o.num.toNat = false ∧ g.tagDone.getLsbD o.num.toNat = false ∧
      g.getS o.sb2.toNat = 0) ∧
    ∃ (s : State) (g : Group) (o : OpE) (s1 : State) (ps : List (Nat × Nat × Bool)) (li ci : Nat), Issues s g (.comb o) ∧ (g.getS o.sb2.toNat).toNat = 20 ∧
      (g.getS o.sb1.toNat).toNat = 0x100000 ∧ s.pagesOf g .write [0x10] = (.ok ps, s1) ∧ s1.group? g.id.key = some g ∧ s1.freeLock g.id.core = some li ∧
      s1.freeCmd g.id.core = some ci ∧ s1.lockClash g.id.core g.id.vf (endAt 0x100000) (0x100000, 0x100014) none = none ∧ Untraced s1 g.id.vf ∧
      (List.range ((0x100000 % 65536 + 24 + 65535) / 65536)).map (fun i => (0x100000 / 65536 + i) % 2 ^ 48) = [0x10] :=
  ⟨⟨st g0, g0, wZ, issues_of (by decide), by decide, by decide, by decide⟩,
    st gY, gY, wZ, pZ.2, okOr [] pZ.1, 0, 0, issues_of (by decide), by decide, by decide, pZ_ok, by decide, by decide, by decide, by decide,
    untraced_of (by decide), by decide⟩
theorem witness_CopyCommands_cpy : ∃ (s : State) (g : Group) (o : OpE) (d r : CopyEnd) (s1 s2 : State) (dp sp : List (Nat × Nat × Bool)) (li ci : Nat),
    Issues s g (.cpy o) ∧ CopyOk s g o d r ∧ g.getS o.d.toNat = 0x10001000010 ∧ s.pagesOf g .write (d.pages 0x10001000010) = (.ok dp, s1) ∧
    s1.pagesOf g .read (r.pages 0x10001000010) = (.ok sp, s2) ∧ s2.group? g.id.key = some g ∧
    (d.range (boundingRange 0x10001000010 0).1 (boundingRange 0x10001000010 0).2).2 ≤ (r.range (boundingRange 0x10001000010 0).1 (boundingRange 0x10001000010 0).2).1 ∧
    s2.freeLock g.id.core = some li ∧ s2.freeCmd g.id.core = some ci ∧ s2.copyFits g.id.vf 16 = true ∧ d.isStash = false ∧
    s2.lockClash g.id.core g.id.vf d (d.range (boundingRange 0x10001000010 0).1 (boundingRange 0x10001000010 0).2)
      (some (r, r.range (boundingRange 0x10001000010 0).1 (boundingRange 0x10001000010 0).2)) = none ∧ Untraced s2 g.id.vf :=
  ⟨st gY, gY, wY, endAt 0x100000, endAt 0x100100, pD.2, pS.2, okOr [] pD.1, okOr [] pS.1, 0, 0, issues_of (by decide),
    ⟨by unfold LegalShape; decide, by decide, endpoint_of (by decide), endpoint_of (by decide)⟩, by decide, pD_ok, pS_ok, by decide, by decide, by decide,
    by decide, by decide, by decide, by decide, untraced_of (by decide)⟩

/-- Tags 3 and 63 are done and tag 5 is busy; one observer names the done ones. -/
def gTags : Group := { g0.setS 6 0x8000000000000008 with tagDone := 0x8000000000000008, tagBusy := 0x20 }
def gFlt : Group := { gTags with tagFlt := 0x8000000000000000 }
theorem witness_TagObservation : (∃ s g o, s.log g.id.vf = 0 ∧ g.speculative = false ∧ Issues s g (.cpyWall o) ∧ Issues s g (.cpyWany o) ∧ Issues s g (.cpyFfr o) ∧
      Issues s g (.cpyCancel o) ∧ g.tagDone &&& g.getS o.sb1.toNat &&& g.tagFlt = 0 ∧ g.tagBusy &&& g.getS o.sb1.toNat = 0 ∧
      (g.tagDone &&& g.getS o.sb1.toNat).getLsbD 3 = true ∧ ∀ j, j < 3 → (g.tagDone &&& g.getS o.sb1.toNat).getLsbD j = false) ∧
    (∃ s g o, Issues s g (.cpyFfr o) ∧ g.tagDone &&& g.getS o.sb1.toNat = 0) ∧
    (∃ s g o, Issues s g (.cpyWall o) ∧ g.tagBusy &&& g.getS o.sb1.toNat = 0 ∧ (g.tagDone &&& g.getS o.sb1.toNat &&& g.tagFlt).getLsbD 63 = true ∧
      ∀ j, j < 63 → (g.tagDone &&& g.getS o.sb1.toNat &&& g.tagFlt).getLsbD j = false) ∧
    ∃ s g o, Issues s g (.wait o) ∧ g.failed = [] ∧ g.ldcnt = 0 ∧ g.stcnt = 0 ∧ g.tagBusy = 0 ∧ s.mxcnt g = 0 ∧ o.imm.toNat / 2 ^ 16 % 256 = 0 ∧
      g.tagDone &&& g.tagFlt = 0 :=
  ⟨⟨st gTags, gTags, oE (d := 2) (sb1 := 6), by decide, by decide, issues_of (by decide), issues_of (by decide), issues_of (by decide), issues_of (by decide),
      by decide, by decide, by decide, by decide⟩,
    ⟨st g0, g0, oE (d := 2) (sb1 := 6), issues_of (by decide), by decide⟩,
    ⟨st gFlt, gFlt, oE (sb1 := 6), issues_of (by decide), by decide, by decide, by decide⟩,
    st { gTags with tagBusy := 0 }, { gTags with tagBusy := 0 }, oI 0 0, issues_of (by decide), by decide, by decide, by decide, by decide, by decide, by decide,
    by decide⟩

-- ## barriers, regrouping, tiles and streams

/-- The part with another team, or with nodes in graph slot 0 of virtual function 0. -/
def withTeam (s : State) (t : Team) : State := s.setTeam t
def withNodes (s : State) (rcds : List (List Word)) (running : Option Launch := none) : State :=
  s.setVf { s.vf 0 with slots := [(0, { nodes := rcds, compl := 0x30000, count := 0, done := 0, queue := [], running, pl := 0 })] }
def coopRec : List Word := 0x100 :: placedNode.tail

def gHalf : Group := { g0 with mask := 1 }
theorem witness_Barriers_arrival : (∃ s g t o, Issues s g (.barT o) ∧ o.d.toNat = 15 ∧ s.team? g.id.team = some t ∧ g.mask &&& g.live ≠ g.live) ∧
    (∃ s g t o, Issues s g (.barG o) ∧ s.team? g.id.team = some t ∧ g.mask &&& g.live = g.live ∧ s.coop g = false) ∧
    (∃ s g t, Issues s g (.barT (oA 15 0 0)) ∧ Issues s g (.barC (oA 0 0 0)) ∧ Issues s g (.barG (oA 0 0 0)) ∧ s.team? g.id.team = some t ∧
      g.mask &&& g.live = g.live ∧ s.coop g = true ∧ g.ops = [] ∧ g.fqHeld = [] ∧ g.failed = [] ∧ Untraced s g.id.vf) :=
  ⟨⟨st gHalf, gHalf, t0, oA 15 0 0, issues_of (by decide), by decide, by decide, by decide⟩,
    ⟨st g0, g0, t0, oA 0 0 0, issues_of (by decide), by decide, by decide, by decide⟩,
    withNodes (st g0) [coopRec], g0, t0, issues_of (by decide), issues_of (by decide), issues_of (by decide), by decide, by decide, by decide, by decide, by decide,
    by decide, untraced_of (by decide)⟩
def arrived (n : Nat) : Team := { t0 with arrive := putNth t0.arrive n 1 }
def gWait (n : Nat) : Group := { g0 with wait := .bar n }
theorem test_barrier_completes : after (withTeam (st (gWait 15)) (arrived 15)) (.barrierComplete (.team 2 15)) 3 fun t h =>
    h.wait == .run && h.pc == 0x40008 && (t.team? 2).map (fun u => nth 0 u.arrive 15) == some 0 := by decide
theorem witness_Barriers_completion : (∃ s t g, s.team? t.key = some t ∧ KeysOk s ∧ t.arrive.length = 18 ∧ g ∈ s.teamGroups t.key ∧ g.live ≠ 0 ∧
      (nth 0 t.arrive 15).getLsbD g.id.tidx = false) ∧
    (∃ s t, s.team? t.key = some t ∧ KeysOk s ∧ t.arrive.length = 18 ∧ t.seqr.run = true ∧ t.seqr.barw ≠ some 15) ∧
    ∃ s t, s.team? t.key = some t ∧ KeysOk s ∧ t.arrive.length = 18 ∧ (∀ g ∈ s.teamGroups t.key, g.live ≠ 0 → (nth 0 t.arrive 15).getLsbD g.id.tidx = true) ∧
      t.filed = [] ∧ t.drawn = [] ∧ (∀ b ∈ s.bins, b.team ≠ t.key) ∧ t.seqr.run = false ∧ (∃ g ∈ s.teamGroups t.key, g.wait = .bar 15 ∧ g.live ≠ 0) ∧
      ∀ g ∈ s.teamGroups t.key, Untraced s g.id.vf := by
  refine ⟨⟨st g0, t0, g0, by decide, by unfold KeysOk; decide, by decide, by decide, by decide, by decide⟩,
    ⟨withTeam (st g0) { t0 with seqr := { t0.seqr with run := true } }, { t0 with seqr := { t0.seqr with run := true } }, by decide, by unfold KeysOk; decide, by decide, by decide, by decide⟩,
    withTeam (st (gWait 15)) (arrived 15), arrived 15, by decide, by unfold KeysOk; decide, by decide, by decide, by decide, by decide, by decide, by decide,
    by decide, fun g hg => ?_⟩
  have h : (withTeam (st (gWait 15)) (arrived 15)).teamGroups (arrived 15).key = [gWait 15] := by decide
  rw [h] at hg
  rw [List.mem_singleton.1 hg]
  exact untraced_of (by decide)

def gF : Group := { withStack { g0 with mask := 6, live := 7 } [join 7 0x2000, path 6 0x3000] with pc := 0x1000 }
theorem test_reform : after ((stMode 1 gF)) (.reform (oI 0 3)) 3 fun t h => h.pc == 0x2000 && h.mask == 1 && h.live == 1 &&
    ((t.team? 2).map fun u => u.filed.map fun f => (f.lane, f.pc.toNat, f.set)) == some [(1, 0x1008, 3), (2, 0x1008, 3)] := by decide
theorem witness_Reforming_reform : (∃ s g t o, Issues s g (.reform o) ∧ g.fqHeld = [] ∧ s.team? g.id.team = some t ∧ g.getZ 63 ≠ zDefault ∧
      ∀ j, j < 63 → g.getZ j = zDefault) ∧
    (∃ s g t o, Issues s g (.reform o) ∧ s.team? g.id.team = some t ∧ (∀ n, n < 64 → g.getZ n = zDefault) ∧ t.mx.contains g.id.grpid = true) ∧
    ∃ s g t o, Issues s g (.reform o) ∧ g.fqHeld = [] ∧ s.team? g.id.team = some t ∧ (∀ n, n < 64 → g.getZ n = zDefault) ∧
      t.mx.contains g.id.grpid = false ∧ g.fmtPend = [] ∧ g.ops = [] ∧ g.tagBusy = 0 ∧ g.tagDone = 0 ∧ g.failed = [] ∧ g.dv.length = 16 ∧ g.dvDepth = 2 ∧
      g.leftAt (g.mask &&& g.live) 0 ≠ 0 ∧ g.leftAt (g.mask &&& g.live) 1 = 0 ∧ (g.entryAt 0).pc ≠ 0 ∧ s.det g.id.vf = true :=
  ⟨⟨st (g0.setZ 63 1), g0.setZ 63 1, t0, oI 0 15, issues_of (by decide), by decide, by decide, by decide, by decide⟩,
    ⟨withTeam (st g0) { t0 with mx := [0] }, g0, { t0 with mx := [0] }, oI 0 15, issues_of (by decide), by decide, by decide, by decide⟩,
    stMode 1 gF, gF, t0, oI 0 15, issues_of (by decide), by decide, by decide, by decide, by decide, by decide, by decide, by decide, by decide, by decide,
    by decide, by decide, by decide, by decide, by decide, by decide⟩
theorem witness_Reforming_last : ∃ s g t o, Issues s g (.reform o) ∧ s.team? g.id.team = some t ∧ (∀ n, n < 64 → g.getZ n = zDefault) ∧ g.dvDepth = 0 :=
  ⟨st g0, g0, t0, oI 0 0, issues_of (by decide), by decide, by decide, by decide⟩
def filed1 : Filed := { lane := 31, origin := 31, pc := 0x5000, set := 0, quad := 0, time := 0, donor := g0 }
def tVac : Team := { t0 with vacant := [(0, 1, 1, 0)] }
def bin1 : Bin := { id := 9, core := 0, quad := 0, team := 2, key := 0x5000, ready := true, threads := [filed1] }
theorem witness_Reforming_draws : (∃ (s : State) (t : Team) (v : Nat × Nat × Nat × Nat) (b : Bin), s.team? t.key = some t ∧ (∀ g ∈ s.groups, s.isDone g = false) ∧ t.slotOn v.1 = some v ∧
      (s.bins.find? fun x => x.id == b.id) = some b ∧ b.team = t.key ∧ b.quad = v.1 ∧ b.threads ≠ [] ∧ (∀ f ∈ b.threads, f.donor.id.team = t.key) ∧ b.ready = true ∧
      (∀ c ∈ s.bins.takeWhile fun x => x.id != b.id, c.team ≠ t.key) ∧ ∀ f ∈ b.threads, s.log f.donor.id.vf ≠ 2) ∧
    ∃ (s : State) (t : Team) (v : Nat × Nat × Nat × Nat) (d : Drawn), s.team? t.key = some t ∧ (∀ g ∈ s.groups, s.isDone g = false) ∧ t.slotOn v.1 = some v ∧ t.filed = [] ∧
      (t.drawn.find? fun x => x.quad == v.1) = some d ∧ d.threads ≠ [] ∧ ∀ f ∈ d.threads, f.donor.id.team = t.key :=
  ⟨⟨{ withTeam (st g0) tVac with bins := [bin1] }, tVac, (0, 1, 1, 0), bin1, by decide, by decide, by decide, by decide, by decide, by decide, by decide,
      by decide, by decide, by decide, by decide⟩,
    withTeam (st g0) { tVac with drawn := [{ quad := 0, key := 0x5000, threads := [filed1] }] }, { tVac with drawn := [{ quad := 0, key := 0x5000, threads := [filed1] }] },
    (0, 1, 1, 0), { quad := 0, key := 0x5000, threads := [filed1] }, by decide, by decide, by decide, by decide, by decide, by decide, by decide⟩

/-- A team with one tile on each quadrant, whose group is its matrix group. -/
def tMx : Team := { t0 with tiles := [[5], [5], [5], [5]], mx := [0] }
def gRow : Group := g0.setS 6 31
theorem test_acc_wr_rd : after (withTeam (st (lanes (lanes gRow 8 [0x3F800000]) 9 [0x40000000])) tMx) (.accWr (oE (a := 8) (sb1 := 6) (md := 1))) 3 fun t _ =>
    Sparse.get 0 t.tileVals (cell 5 31 0) == tileOf 0x3F800000 && Sparse.get 0 t.tileVals (cell 5 31 32) == tileOf 0x40000000 := by decide
/-- The team without matrix groups in a DET = 1 part, its tile row 31 written by a sequencer in the same interval (R299). -/
def tClash : Team := { tMx with mx := [] }
def sClash : State := { withTeam (stMode 1 gRow) tClash with conflicts := [(tileLoc 5 31, { accesses := [{ agent := { t0.seqr.conf s0 t0 0 true |>.agent with vf := 0, gslot := 0, launch := 0, node := 0 }, counts := g0.counts, isWrite := true, isRed := false, isAtom := false, inst := 0, cmd := 0 }] })] }
theorem witness_TileWords_clash : ∃ s g t o key, s.team? g.id.team = some t ∧ s.tileKey g o.sco.toNat = some key ∧ o.sco.toNat < t.accClaim ∧ Issues s g (.accRd o) ∧
    s.det g.id.vf = true ∧ g.active o.pred ≠ 0 ∧ (s.conflictAt (tileLoc key 31) (s.confOf g g.ltime false false false) g.mxSeen).isSome = true ∧ s.rawclk g.id.vf = false :=
  ⟨sClash, gRow, tClash, oE (d := 2) (a := 8) (sb1 := 6) (md := 1), 5, by decide, by decide, by decide, issues_of (by decide), by decide, by decide, by decide, by decide⟩
theorem test_acc_rd_clash : after sClash (.accRd (oE (d := 2) (a := 8) (num := 30))) 3 (fun _ h => h.ltime == 1) = true ∧
    after sClash (.accRd (oE (d := 2) (a := 8) (num := 31))) 3 (fun _ h => h.ltime == 0) = true := by decide
theorem witness_TileWords : (∃ s g t o key, s.team? g.id.team = some t ∧ g.speculative = false ∧ s.log g.id.vf = 0 ∧ s.tileKey g o.sco.toNat = some key ∧
      o.sco.toNat < t.accClaim ∧ (if o.md = 1 then (g.getS o.sb1.toNat).toNat else o.num.toNat) = 31 ∧ Issues s g (.accRd o) ∧ Issues s g (.accWr o) ∧
      Issues s g (.accZero o) ∧ o.d.toNat + 2 ≤ g.id.claim ∧ o.a.toNat + 2 ≤ g.id.claim ∧ o.a ≠ o.d ∧ o.a.toNat ≠ o.d.toNat + 1 ∧ s.det g.id.vf = false) ∧
    (∃ s g t o key, s.team? g.id.team = some t ∧ s.tileKey g o.sco.toNat = some key ∧ Issues s g (.accZero o) ∧ o.sco.toNat < t.accClaim ∧
      32 ≤ (if o.md = 1 then (g.getS o.sb1.toNat).toNat else o.num.toNat)) ∧
    ∃ s g t o key, s.team? g.id.team = some t ∧ s.tileKey g o.sco.toNat = some key ∧ Issues s g (.accZero o) ∧ t.accClaim ≤ o.sco.toNat :=
  ⟨⟨withTeam (st gRow) tMx, gRow, tMx, oE (d := 2) (a := 8) (sb1 := 6) (md := 1), 5, by decide, by decide, by decide, by decide, by decide, by decide, issues_of (by decide),
      issues_of (by decide), issues_of (by decide), by decide, by decide, by decide, by decide, by decide⟩,
    ⟨withTeam (st (g0.setS 6 32)) tMx, g0.setS 6 32, tMx, oE (sb1 := 6) (md := 1), 5, by decide, by decide, issues_of (by decide), by decide, by decide⟩,
    withTeam (st { g0 with id := { g0.id with quad := 1 } }) { t0 with tiles := [[], [5], [], []] }, { g0 with id := { g0.id with quad := 1 } },
    { t0 with tiles := [[], [5], [], []] }, oE, 13, by decide, by decide, issues_of (by decide), by decide⟩
/-- The part whose group is about to start team t's stream at w. -/
def goAt (x : Team × Word) : State := withTeam (st (g0.setS 6 x.2)) x.1
/-- No matrix group, a running stream, a start off an 8-byte place, no start at all, a start. -/
def starts : List (Team × Word) := [(t0, 0x5000), ({ tMx with seqr := { tMx.seqr with run := true } }, 0x5000), (tMx, 0x5004), (tMx, 0), (tMx, 0x5000)]
theorem starts_issue : ∀ x ∈ starts, issuesB (goAt x) (g0.setS 6 x.2) (.mxgo (oE (sb1 := 6))) = true ∧ (g0.setS 6 x.2).speculative = false ∧
    (goAt x).team? (g0.setS 6 x.2).id.team = some x.1 ∧ (goAt x).cluster? (g0.setS 6 x.2).id.cluster = some c0 := by decide
theorem witness_StartingTheStream : ∀ x ∈ starts, ∃ s g c, Issues s g (.mxgo (oE (sb1 := 6))) ∧ g.speculative = false ∧ s.team? g.id.team = some x.1 ∧
    s.cluster? g.id.cluster = some c := fun x hx =>
  have h := starts_issue x hx
  ⟨goAt x, g0.setS 6 x.2, c0, issues_of h.1, h.2.1, h.2.2.1, h.2.2.2⟩
-- ## stream words and the sequencer's events

/-- A team of one matrix group whose stream runs with this sequencer, about to issue a word. -/
def qRun : Sequencer := { t0.seqr with run := true, mxpc := 0x5000, owner := 3 }
def tRun (q : Sequencer) : Team := { tMx with seqr := q }
def runs (q : Sequencer) : State := { withTeam (st (lanes (lanes g0 763 [0x222]) 767 [0x7F7F7F7F])) (tRun q) with cur := .seqr 2 }
def readyAt (s : State) (q : Sequencer) : Bool := s.cur == .seqr 2 && s.team? 2 == some (tRun q) && s.cluster? (tRun q).cluster == some c0 && q.run &&
  q.faultPost.isNone && q.barw.isNone && !s.det c0.vf && ((s.group? q.owner).map fun h => h.ops.isEmpty) != some false
def ready (q : Sequencer) : Bool := readyAt (runs q) q
theorem readyAt_of {s : State} {q : Sequencer} (h : readyAt s q = true) : StreamReady s 2 (tRun q) c0 := by
  simp only [readyAt, Bool.and_eq_true, beq_iff_eq, Option.isNone_iff_eq_none, Bool.not_eq_true'] at h
  obtain ⟨⟨⟨⟨⟨⟨⟨h0, h1⟩, h2⟩, h3⟩, h4⟩, h5⟩, h6⟩, h7⟩ := h
  refine ⟨h0, h1, h2, ⟨h3, h4, h5⟩, h6, ⟨rfl, fun hh => absurd hh (by decide)⟩, fun h hg o ho _ => ?_⟩
  change s.group? q.owner = some h at hg
  cases hops : h.ops with
  | nil => rw [hops] at ho; cases ho
  | cons a l => simp [hg, hops] at h7
theorem ready_of {q : Sequencer} (h : ready q = true) : StreamReady (runs q) 2 (tRun q) c0 := readyAt_of h
def mxOp (steps : Nat) (zero : Bool := false) : MxOp := { id := 90, isZero := zero, tile := 0, fa := 0xC8202900, fb := 0xC8202900, arow := 0, brow := 0, steps
                                                          done := 0, lockEntry := 64, b := [], pc := 0x5000 }
def qFull : Sequencer := { qRun with flight := [mxOp 2, mxOp 2, mxOp 2, mxOp 2, mxOp 2, mxOp 2, mxOp 2, mxOp 2] }
/-- Entries 1 and 2 are invalid. -/
def odd : Sequencer := { qRun with view := putNth (putNth qRun.view 1 0) 2 0 }
def oX (fmt tgt : BitVec 3 := 0) (brow : BitVec 10 := 0) (arow : BitVec 13 := 0) (fb : BitVec 3 := 0) : OpQ := { fmt, tgt := tgt.setWidth 10, brow, arow, fb }

/-- What holds of the team's sequencer and the state after a word of the stream or an event. -/
def afterSeq (s : State) (i : Instr) (p : State → Sequencer → Bool) : Bool :=
  match exec i s with
  | .next t => (match t.team? 2 with | some u => p t u.seqr | none => false)
  | .fault _ | .refused _ => false

theorem test_mx_mma : afterSeq (runs qRun) (.mxMma (oX 5 0 763 30 5)) fun s q => q.mxpc == 0x5008 && (q.flight.map fun x => (x.steps, x.arow)) == [(2, 30)] &&
    s.locks.map (fun e => (e.idx, e.dlo.toNat, e.dhi.toNat)) == [(64, 30 * 128, 64 * 128)] && q.faultPost.isNone &&
    (nth [] ((q.flight.map (·.b)).flatten) 0).take 2 == [0x222, 0] := by decide
theorem test_mx_faults : ∀ x ∈ ([(Instr.mxMma (oX 5 0 764 0 5), 4, 0), (.mxMma (oX 5 0 0 31 5), 5, 31), (.mxMma (oX 5 1 0 0 5), 3, 1), (.mxZero (oX 0 1), 3, 1),
    (.mxFmt (oX (arow := 64)), 5, 64)] : List (Instr × Nat × Nat)), afterSeq (runs qRun) x.1 fun _ q =>
    q.faultPost.map (fun r => (r.grp, r.code, r.detail.toNat)) == some (12, x.2.1, 0x5000 + 2 ^ 64 * x.2.2) := by decide
theorem witness_StreamWords : (∃ (s : State) (k : Nat) (t : Team) (c : Cluster) (o : OpQ), StreamReady s k t c ∧ t.seqr.flight = [] ∧ t.accClaim ≤ o.tgt.toNat) ∧
    (∃ (s : State) (k : Nat) (t : Team) (c : Cluster) (o : OpQ), StreamReady s k t c ∧ t.seqr.flight = [] ∧ o.tgt.toNat < t.accClaim) ∧ (∃ (s : State) (k : Nat) (t : Team) (c : Cluster), StreamReady s k t c ∧ t.seqr.flight.length = 8) ∧
    (∃ (s : State) (k : Nat) (t : Team) (c : Cluster) (o : OpQ), StreamReady s k t c ∧ t.stashRows = o.arow.toNat) ∧
    ∃ (s : State) (k : Nat) (t : Team) (c : Cluster) (o : OpQ), StreamReady s k t c ∧ o.arow.toNat + 1 = t.stashRows ∧ s.locks = [] ∧ (s.row (t.core * 4096 + t.stashBase + o.arow.toNat)).st ≠ .i ∧
      o.tgt.toNat < t.seqr.view.length ∧ s.log c.vf = 0 ∧ s.linkUp = true ∧
      Fmt.entryRefusal (BitVec.ofNat 32 (leNat (Memory.readN s.stash (t.core * Config.stashBytes + (t.stashBase + o.arow.toNat) * 128) 4))) = 0 :=
  ⟨⟨runs qRun, 2, tRun qRun, c0, oX 0 1, ready_of (by decide), by decide, by decide⟩, ⟨runs qRun, 2, tRun qRun, c0, oX, ready_of (by decide), by decide, by decide⟩,
    ⟨runs qFull, 2, tRun qFull, c0, ready_of (by decide), by decide⟩, ⟨runs qRun, 2, tRun qRun, c0, oX (arow := 64), ready_of (by decide), by decide⟩,
    { runs qRun with stash := Memory.writeN [] (63 * 128) [0, 0xE0, 0xEF, 0xE2] }, 2, tRun qRun, c0, oX (tgt := 7) (arow := 63),
    readyAt_of (by decide), by decide, by decide, by decide, by decide, by decide, by decide, by decide⟩
theorem witness_StreamWords_mma :
    (∀ na : BitVec 3, ∀ nb : BitVec 3, na = 1 ∨ nb = 2 → ∃ (s : State) (k : Nat) (t : Team) (c : Cluster) (o : OpQ), StreamReady s k t c ∧ o.fmt = na ∧ o.fb = nb ∧
      (na = 1 → (Fmt.Entry.of (nth 0 t.seqr.view na.toNat)).v = false) ∧ (nb = 2 → (Fmt.Entry.of (nth 0 t.seqr.view nb.toNat)).v = false)) ∧
    ∃ (s : State) (k : Nat) (t : Team) (c : Cluster) (o : OpQ), StreamReady s k t c ∧ t.seqr.flight.length < 8 ∧ (Fmt.Entry.of (nth 0 t.seqr.view o.fmt.toNat)).v = true ∧
      (Fmt.Entry.of (nth 0 t.seqr.view o.fb.toNat)).v = true ∧ o.tgt.toNat < t.accClaim ∧ o.brow.toNat + 5 = t.claim ∧
      bRows (Fmt.Entry.of (nth 0 t.seqr.view o.fb.toNat)) = 4 ∧ o.arow.toNat + aRows (Fmt.Entry.of (nth 0 t.seqr.view o.fmt.toNat)) = t.stashRows ∧ s.locks = [] :=
  ⟨fun na nb _ => ⟨runs odd, 2, tRun odd, c0, oX na 0 0 0 nb, ready_of (by decide), rfl, rfl, fun h => by subst h; decide, fun h => by subst h; decide⟩,
    runs qRun, 2, tRun qRun, c0, oX 5 0 763 30 5, ready_of (by decide), by decide, by decide, by decide, by decide, by decide, by decide, by decide, by decide⟩

/-- A stream with one operation in flight, and one whose first word `mx.bar 0` is at 0x5000. -/
def qFly (x : MxOp) : Sequencer := { qRun with flight := [x] }
def fetches : State := withWord (runs qRun) 0x5004 0x36B80000
/-- The matrix group that owns the stream. -/
def gOwner : Group := lanes (lanes g0 763 [0x222]) 767 [0x7F7F7F7F]
def fetched : Except TrapReq (Nat × Nat) × State := fetches.translate gOwner.asker .fetch 0x5000
theorem fetched_ok : fetched = (.ok ((okOr (0, 0) fetched.1).1, (okOr (0, 0) fetched.1).2), fetched.2) := answer_of (0, 0) fetched (by decide)
theorem test_stream_fetch : afterSeq fetches (.streamFetch 2 false) fun _ q => q.word == some 0x36B8000000000000 := by decide
def qPost : Sequencer := { qRun with faultPost := some { mkTrap 12 3 0x5000 with async := true, pc := 0x5000 } }
theorem witness_StreamEvents :
    (∃ (s : State) (t : Team) (c : Cluster) (s1 : State) (g : Group) (pa mt : Nat) (i : Instr), s.team? t.key = some t ∧ s.cluster? t.cluster = some c ∧
      c.residence = .resident ∧ (c.halting = true → c.atck = true) ∧ s.log c.vf = 0 ∧ s.linkUp = true ∧ s.group? t.seqr.owner = some g ∧ t.seqr.run = true ∧ t.seqr.word = none ∧ t.seqr.faultPost = none ∧ t.seqr.fault = none ∧ t.seqr.barw = none ∧
      s.translate g.asker .fetch t.seqr.mxpc = (.ok (pa, mt), s1) ∧ s1.rows = [] ∧ s1.teams = s.teams ∧
      Dec.stream (BitVec.ofNat 64 (leNat (Memory.readN s1.mem pa 8))) = .ok i) ∧
    (∀ z : Bool, ∃ (s : State) (t : Team) (c : Cluster) (x : MxOp), s.team? t.key = some t ∧ s.cluster? t.cluster = some c ∧ c.residence = .resident ∧
      (c.halting = true → c.atck = true) ∧ s.log c.vf = 0 ∧ s.linkUp = true ∧ t.seqr.flight = [x] ∧ x.isZero = z ∧ s.rows = [] ∧ (t.tileKeys x.tile).Nodup) ∧
    ∃ (s : State) (t : Team) (c : Cluster) (x : TrapReq) (g : Group), s.team? t.key = some t ∧ s.cluster? t.cluster = some c ∧ c.residence = .resident ∧
      (c.halting = true → c.atck = true) ∧ s.log c.vf = 0 ∧ s.linkUp = true ∧ t.seqr.faultPost = some x ∧ t.seqr.flight = [] ∧ s.group? t.seqr.owner = some g ∧ g.live ≠ 0 :=
  ⟨⟨fetches, tRun qRun, c0, fetched.2, gOwner, _, _, .mxBar (oX 0 0), by decide, by decide, by decide, by decide, by decide, by decide, by decide, by decide, by decide, by decide, by decide, by decide,
      fetched_ok, by decide, by decide, by decide⟩,
    fun z => ⟨runs (qFly (mxOp 2 z)), tRun (qFly (mxOp 2 z)), c0, mxOp 2 z, by cases z <;> decide, by cases z <;> decide, by decide, by decide, by cases z <;> decide, by cases z <;> decide, rfl, rfl, by cases z <;> decide,
      by cases z <;> decide⟩,
    runs qPost, tRun qPost, c0, mkTrap 12 3 0x5000 |> fun x => { x with async := true, pc := 0x5000 }, gOwner,
    by decide, by decide, by decide, by decide, by decide, by decide, by decide, by decide, by decide, by decide⟩
-- ## the fabric and its mailboxes

def withVf (s : State) (f : Vf → Vf) : State := s.setVf (f (s.vf 0))
def box0 : FabMbox := { base := 0x100000, pa := 0x100000, leaf := 0, err := false, v := true, arr := 0, head := 255, count := 3 }
/-- s6 names mailbox 63 of partition 0 of this device, s7 a reserved bit, s8 a device that no port reaches, s9 stash byte 64, s10 byte 4. -/
def gFab : Group := ((((lanes g0 8 [1, 2]).setS 6 0x3F000000).setS 7 0x2000).setS 8 1).setS 9 0xF00040 |>.setS 10 0xF00004
theorem test_fsend : after (st gFab) (.fsend (oE (a := 8) (sb1 := 6))) 3 fun _ h =>
    (h.ops.map fun o => match o.kind with | .fsend m => (m.dst.toNat, m.payload.take 3) | _ => (0, [])) == [(0x3F000000, [1, 2, 0])] := by decide
/-- The device is 1 of a pod of 3, and partition 0 holds mailbox 5. -/
def sBox (x : FabMbox) : State := withVf { st gFab with device := { s0.device with devcfg := 0x20001 } } fun v => { v with mboxes := [(5, x)] }
theorem ok_is {α : Type} (d : α) {x : Except TrapReq α} {n : α} (h : isOk x = true) (h' : okOr d x = n) : x = .ok n := h' ▸ ok_of d h
def far (s : State) (g : Group) (d : Word) : Prop := ¬ (d &&& 0xFFFFFFFFC0C0E000 ≠ 0 ∨ 12 ≤ dstPart d) ∧
  (s.podSize ≤ dstDev d ∨ (dstDev d ≠ s.deviceNum ∧ s.routeSet (dstDev d) = [])) ∧ g.speculative = false ∧ s.log g.id.vf = 0
theorem witness_FabricWords_sends :
    (∃ s g o, g.speculative = false ∧ s.log g.id.vf = 0 ∧ Issues s g (.fsend o) ∧ Issues s g (.fsendS o) ∧ g.Names o.a 1 (fun l => l < 16 ∧ g.live.getLsbD l = true) ∧
      g.getS o.sb1.toNat &&& 0xFFFFFFFFC0C0E000 ≠ 0) ∧
    (∃ s g o, far s g (g.getS o.sb1.toNat) ∧ dstDev (g.getS o.sb1.toNat) = 1 ∧ Issues s g (.fsend o) ∧ Issues s g (.fsendS o) ∧
      g.Names o.a 1 (fun l => l < 16 ∧ g.live.getLsbD l = true)) ∧
    (∃ s g o b, s.Reaches (g.getS o.sb1.toNat) ∧ g.stcnt < 255 ∧ s.streamLoad (g.getS o.sb1.toNat) < 256 ∧ Issues s g (.fsend o) ∧ Issues s g (.fsendS o) ∧
      g.Names o.a 1 (fun l => l < 16 ∧ g.live.getLsbD l = true) ∧ (g.getS o.sb2.toNat).toNat < 2 ^ 32 ∧ s.stashByte g (g.getS o.sb2.toNat) = .ok b ∧
      (g.getS o.sb2.toNat).toNat % 64 = 0 ∧ s.linkUp = true ∧ s.locks = [] ∧ s.det g.id.vf = false ∧ (s.row (b / 128)).st ≠ .i ∧ ∀ x ∈ g.ops, x.space ≠ .stash) ∧
    ∃ s g o b, s.Reaches (g.getS o.sb1.toNat) ∧ Issues s g (.fsendS o) ∧ s.stashByte g (g.getS o.sb2.toNat) = .ok b ∧ (g.getS o.sb2.toNat).toNat % 64 ≠ 0 :=
  ⟨⟨st gFab, gFab, oE (a := 8) (sb1 := 7) (sb2 := 9), by decide, by decide, issues_of (by decide), issues_of (by decide), names_direct (by decide) (by decide), by decide⟩,
    ⟨st gFab, gFab, oE (a := 8) (sb1 := 8) (sb2 := 9), by unfold far; decide, by decide, issues_of (by decide), issues_of (by decide), names_direct (by decide) (by decide)⟩,
    ⟨st gFab, gFab, oE (a := 8) (sb1 := 6) (sb2 := 9), 64, by unfold State.Reaches; decide, by decide, by decide, issues_of (by decide), issues_of (by decide),
      names_direct (by decide) (by decide), by decide, ok_is 0 (by decide) (by decide), by decide, by decide, by decide, by decide, by decide, by decide⟩,
    st gFab, gFab, oE (a := 8) (sb1 := 6) (sb2 := 10), 4, by unfold State.Reaches; decide, issues_of (by decide), ok_is 0 (by decide) (by decide), by decide⟩
def share1 : LinkShare := { part := 0, base := 0, n := 64, turns := 0, target := 32 }
def linked (m : BitVec 32) (g : Group) : State := { stMode m g with links := putNth s0.links 0 { DieLink.reset with shares := [share1] } }
def gBox : Group := ((g0.setS 6 64).setS 7 63).setS 8 5
theorem test_dlink_stat : after (linked 0 g0) (.dlinkStat (oE (d := 2))) 3 fun _ h => h.getS 2 == 64 + 2 ^ 8 * 32 := by decide
theorem witness_FabricWords_others : (∀ n : Nat, ∀ b : BitVec 6, (b = 6 ∧ n = 64) ∨ (b = 7 ∧ n = 63) ∨ (b = 8 ∧ n = 5) → ∃ s g o, g.speculative = false ∧
      s.log g.id.vf = 0 ∧ Issues s g (.frecv o) ∧ o.d.toNat < g.id.claim ∧ o.d.toNat < 768 ∧ g.ldcnt < 255 ∧ (g.getS o.sb1.toNat).toNat = n ∧
      ((s.vf g.id.vf).mboxes.find? fun e => e.1 == 5) = some (5, box0) ∧ ((s.vf g.id.vf).mboxes.find? fun e => e.1 == 63) = none) ∧
    (∃ s g o, Issues s g (.dlinkStat o) ∧ s.timingRefused g.id.vf = true) ∧
    (∃ s g o p x, Issues s g (.dlinkStat o) ∧ s.timingRefused g.id.vf = false ∧ s.partOf g.id.vf = some p ∧
      ((nth DieLink.reset s.links (leafOf g.id.core)).shares.find? fun y => y.part == p.num) = some x) ∧
    ∀ m : BitVec 32, m = 0 ∨ m = 16 → ∃ s g o p, Issues s g (.dlinkTurn o) ∧ s.partOf g.id.vf = some p ∧ (s.dlb g.id.vf = true ↔ m = 16) := by
  refine ⟨fun n b h => ?_, ⟨linked 1 g0, g0, oE (d := 2), issues_of (by decide), by decide⟩,
    ⟨linked 0 g0, g0, oE (d := 2), (linked 0 g0).part 0, share1, issues_of (by decide), by decide, by decide, by decide⟩, fun m h => ?_⟩
  · refine ⟨withVf (st gBox) fun v => { v with mboxes := [(5, box0)] }, gBox, oE (d := 2) (a := 1) (sb1 := b), ?_⟩
    rcases h with ⟨rfl, rfl⟩ | ⟨rfl, rfl⟩ | ⟨rfl, rfl⟩ <;>
      exact ⟨by decide, by decide, issues_of (by decide), by decide, by decide, by decide, by decide, by decide, by decide⟩
  · refine ⟨linked m g0, g0, oI 0 6, (linked m g0).part 0, ?_⟩
    rcases h with rfl | rfl <;> exact ⟨issues_of (by decide), by decide, by decide⟩

/-- A message of a group waits; a message for mailbox 5 of device 1 comes from device 2. -/
def msg1 : Msg := { dst := 0x05000001, kind := 0, srcDev := 2, srcPart := 0, srcVf := 7, clust := 0, team := 0, grp := 0, seq := 0, payload := List.replicate 16 9 }
def fOp : MemOp := { id := 5, inst := 5, kind := .fsend msg1, space := .mem, parts := [] }
/-- Device 0 is reached by port 0. -/
def msg0 : Msg := { msg1 with dst := 0x05000000 }
def fOp0 : MemOp := { fOp with kind := .fsend msg0 }
def routed : State := { withOp fOp0 with device := { s0.device with devcfg := 0x20001 }, fabric := { s0.fabric with routes := [(0, 0x100000000)], portsUp := putNth s0.fabric.portsUp 0 true } }
theorem test_mailbox_write : (match execFabricArrival msg1 (sBox box0) with
    | .next t => Memory.readN t.mem (0x100000 + 128 * 2) 4 != [0, 0, 0, 0] && (t.mbox 0 5).count == 4 && (t.mbox 0 5).arr == 1
    | .fault _ | .refused _ => false) = true := by decide +kernel
/-- The mailbox base maps to itself. -/
def baseOk := (st g0).stage2 0 0x100000 1 0 7
def remoteOk := (withVf (st g0) fun v => { v with frcopy := 1 }).schedXlate 0 .write (pageParts 0x100000 128)
theorem baseOk_ok : baseOk = (.ok ((okOr (0, 0) baseOk.1).1, (okOr (0, 0) baseOk.1).2), baseOk.2) := answer_of (0, 0) baseOk (by decide)
theorem remoteOk_ok : remoteOk = (.ok (okOr [] remoteOk.1), remoteOk.2) := answer_of [] remoteOk (by decide)
theorem witness_FabricEvents_messages :
    (∃ (s : State) (key : Nat) (g : Group) (o : MemOp) (rest : List MemOp) (m : Msg), s.group? key = some g ∧ g.ops = o :: rest ∧ o.kind = .fsend m ∧ s.streamLoad m.dst < 256 ∧
      dstDev m.dst = s.deviceNum) ∧
    (∃ (s : State) (key : Nat) (g : Group) (o : MemOp) (rest : List MemOp) (m : Msg), s.group? key = some g ∧ g.ops = o :: rest ∧ o.kind = .fsend m ∧
      s.streamLoad m.dst < 256 ∧ s.log g.id.vf ≠ 2 ∧ s.routeSet (dstDev m.dst) ≠ []) ∧
    (∀ n : Nat, n = 255 ∨ n = 256 → ∃ (s : State) (m : Msg) (v : Nat) (x : FabMbox), dstDev m.dst = s.deviceNum ∧ dstPart m.dst < 12 ∧ m.srcDev.toNat ≠ s.deviceNum ∧
      s.fabric.held = [] ∧ s.rows = [] ∧ m.seq.toNat = Sparse.get 0 s.fabric.seqIn (m.srcDev.toNat * 4 + dstCls m.dst) ∧
      s.mailboxOwner (s.part (dstPart m.dst)) (dstMbx m.dst) = some (v, x) ∧ x.count = n ∧ s.linkUp = true ∧ ((s.part (dstPart m.dst)).mode.extractLsb' 2 2).toNat ≠ 2) ∧
    ∃ (s : State) (m : Msg), dstDev m.dst = s.deviceNum ∧ m.srcDev.toNat ≠ s.deviceNum ∧ s.fabric.held = [] ∧ s.rows = [] ∧
      m.seq.toNat = Sparse.get 0 s.fabric.seqIn (m.srcDev.toNat * 4 + dstCls m.dst) ∧ s.mailboxOwner (s.part (dstPart m.dst)) (dstMbx m.dst) = none := by
  refine ⟨⟨{ withOp fOp with device := { s0.device with devcfg := 0x20001 } }, 3, gO fOp, fOp, [], msg1, by decide, by decide, by decide, by decide, by decide⟩,
    ⟨routed, 3, gO fOp0, fOp0, [], msg0, by decide, by decide, by decide, by decide, by decide, by decide⟩, fun n h => ?_,
    ⟨sBox { box0 with v := false }, msg1, by decide, by decide, by decide, by decide, by decide, by decide⟩⟩
  rcases h with rfl | rfl
  · exact ⟨sBox { box0 with count := 255 }, msg1, 0, { box0 with count := 255 }, by decide, by decide, by decide, by decide, by decide, by decide, by decide, by decide, by decide, by decide⟩
  · exact ⟨sBox { box0 with count := 256 }, msg1, 0, { box0 with count := 256 }, by decide, by decide, by decide, by decide, by decide, by decide, by decide, by decide, by decide, by decide⟩
theorem witness_FabricEvents_registers :
    (∃ (s : State) (vf dev part mbx reason : Nat), vf < 192 ∧ s.HasVf vf ∧ reason = 2 ∧ dev = 8191 ∧ part = 15 ∧ mbx = 63) ∧
    (∃ (s : State) (p : Partition) (w : Word), s.HasVf 0 ∧ s.partOf 0 = some p ∧ w.getLsbD 0 = false ∧ (s.mbox 0 5).v = true) ∧
    (∃ (s : State) (p : Partition) (w : Word) (s1 : State) (e : Word) (lv : Nat), s.HasVf 0 ∧ s.partOf 0 = some p ∧ w.getLsbD 0 = true ∧ s.mailboxOwner p 63 = none ∧
      s.stage2 0 (w.toNat / 2 ^ 15 * 2 ^ 15) 1 0 7 = (.ok (e, lv), s1) ∧ s1.vfs = s.vfs ∧ entryMt e = 0 ∧ e.getLsbD 3 = true ∧
      rangeOf (leafPa e lv (w.toNat / 2 ^ 15 * 2 ^ 15)) = some 0) ∧
    (∃ (s : State) (bs : List Byte), (s.vf 0).frcopy.getLsbD 0 = false ∧ bs.length = 4096) ∧
    ∃ (s : State) (a : Word) (bs : List Byte) (s1 : State) (pa : Nat), (s.vf 0).frcopy.getLsbD 0 = true ∧ bs.length = 128 ∧
      s.schedXlate 0 .write (pageParts a.toNat bs.length) = (.ok [(pa, bs.length)], s1) ∧ pa % 128 + bs.length ≤ 128 ∧ s1.log 0 = 0 ∧ s1.rows = [] ∧ s1.linkUp = true :=
  ⟨⟨s0, 0, 8191, 15, 63, 2, by decide, by unfold State.HasVf; decide, rfl, rfl, rfl, rfl⟩,
    ⟨sBox box0, (sBox box0).part 0, 0, by unfold State.HasVf; decide, by decide, by decide, by decide⟩,
    ⟨st g0, (st g0).part 0, 0x100001, baseOk.2, _, _, by unfold State.HasVf; decide, by decide, by decide, by decide, baseOk_ok, by decide, by decide, by decide, by decide⟩,
    ⟨s0, List.replicate 4096 1, by decide, List.length_replicate⟩,
    withVf (st g0) fun v => { v with frcopy := 1 }, 0x100000, List.replicate 128 5, remoteOk.2, 0x100000, by decide, by decide,
    (by decide : okOr [] remoteOk.1 = [(0x100000, 128)]) ▸ remoteOk_ok, by decide, by decide, by decide, by decide⟩
-- ## links, the memory hierarchy

def withPart0 (s : State) (f : Partition → Partition) : State := s.setPart (f (s.part 0))
/-- Die link 0 holds one share of 64 bundles, 4 µs after power-up, with DLB = 1 and a queued request for ratio 6. -/
def linkReq (q : Option Nat) (t : List Nat) (dark : Nat) : DieLink :=
  { DieLink.reset with shares := [share1], queued := q.toList.map fun r => (0, r), turning := t, darkEnd := dark }
def linkAt (l : DieLink) (ns : Nat) : State := { stMode 16 g0 with links := putNth s0.links 0 l, ns }
def wiunoAt (w : Wiuno) : State := { st g0 with wiuno := w }
/-- The part with a partition 0 that maps nothing. -/
def unmapped (s : State) : State := withPart0 s fun p => { p with ps2root := 0 }
theorem test_turn_window : (match execTurnWindow (linkAt (linkReq (some 6) [] 0) 4000) with
    | .next t => t.window == 2 && (t.links.map fun l => (l.turning.length, l.darkEnd)).take 1 == [(16, 4012)]
    | .fault _ | .refused _ => false) = true := by decide
theorem linkAt_has : ∀ q ∈ ([none, some 6] : List (Option Nat)), (linkAt (linkReq q [] 0) 4000).links[0]? = some (linkReq q [] 0) ∧
    (linkAt (linkReq q [] 0) 4000).window < (linkAt (linkReq q [] 0) 4000).ns / 2000 ∧ (linkReq q [] 0).turning = [] ∧ (linkReq q [] 0).due = false := by decide
theorem linkAt_dlb : ∀ q ∈ ([none, some 6] : List (Option Nat)), ((linkAt (linkReq q [] 0) 4000).part 0).mode.getLsbD 4 = true := by decide
def darkAt (ns : Nat) : State := { st g0 with links := putNth s0.links 3 (linkReq none [63, 5] 4012), ns }
theorem darkAt_has : ∀ ns ∈ [4011, 4012], (darkAt ns).links[3]? = some (linkReq none [63, 5] 4012) := by decide
theorem witness_LinkEvents :
    (∃ s : State, s.ns / 2000 = s.window) ∧
    (∀ q ∈ ([none, some 6] : List (Option Nat)), ∃ (s : State) (leaf : Nat) (l : DieLink), leaf < 4 ∧ (s.links[leaf]? = some l ∧ s.window < s.ns / 2000 ∧ l.turning = [] ∧ l.due = false) ∧
      Sparse.get 0 l.queued 0 = q.getD 0 ∧ (l.shares.map (·.part)).Nodup ∧ ∀ x ∈ l.shares, (s.part x.part).mode.getLsbD 4 = true) ∧
    (∀ ns ∈ [4011, 4012], ∃ (s : State) (leaf : Nat) (l : DieLink) (b : Nat) (r : List Nat), leaf = 3 ∧ s.links[leaf]? = some l ∧ l.turning = b :: r ∧
      l.darkEnd = 4012 ∧ s.ns = ns) ∧
    (∃ s : State, s.wiuno.up = true ∧ s.wiuno.training = false) ∧ (∃ s : State, s.wiuno.training = true ∧ s.HasPart 0 ∧ (s.part 0).force.nonEmpty = true) ∧
    (∃ (s : State) (pa n : Nat), s.wiuno.up = true ∧ s.wiuno.training = false ∧ 0 < n ∧ pa % 128 + n = 128 ∧ pa + n = 0x8000000000 ∧ s.rows = [] ∧
      s.log (((s.partMapping pa).map Partition.spineVf).getD 192) = 0) ∧
    ∃ (s : State) (line : Nat), s.wiuno.up = true ∧ s.wiuno.training = false ∧ rangeOf (line * 128) = some 1 ∧ s.rows = [] := by
  refine ⟨⟨s0, by decide⟩, fun q hq => ⟨linkAt (linkReq q [] 0) 4000, 0, linkReq q [] 0, by decide, linkAt_has q hq,
      by cases q <;> rfl, List.pairwise_singleton _ _, fun x hx => ?_⟩, fun ns h => ?_,
    ⟨wiunoAt wUp, rfl, rfl⟩, ⟨wiunoAt { wUp with training := true }, rfl, by unfold State.HasPart; decide, by decide⟩,
    ⟨unmapped (wiunoAt wUp), 0x8000000000 - 128, 128, by decide, by decide, by decide, by decide, by decide, by decide, by decide⟩,
    ⟨wiunoAt wUp, 0x8000000000000 / 128, by decide, by decide, by decide, by decide⟩⟩
  · rw [List.mem_singleton.1 hx]
    exact linkAt_dlb q hq
  · exact ⟨darkAt ns, 3, linkReq none [63, 5] 4012, 63, [5], rfl, darkAt_has ns h, rfl, rfl, rfl⟩

/-- Row 4095 of core 0 with the line of 0x100000 in a state, touched by an operation of the group. -/
def mapped (x : RowState) : Row := { st := x, line := 0x2000, gpa := 0x100000, dirty := 5, checked := false }
def stashOp : MemOp := { opOf .load [] with space := .stash, parts := [{ lane := 0, va := 0, addr := 4095 * 128 + 4, size := 4 }] }
def rowState (x : RowState) (o : List MemOp) : State := { withWord (st { g0 with ops := o }) 0x100000 7 with rows := [(4095, mapped x)] }
theorem test_fill : (match execStashFill 0 4095 (rowState .i [stashOp]) with
    | .next t => Memory.readN t.stash (4095 * 128) 2 == [7, 0] && (t.row 4095).st == .v | .fault _ | .refused _ => false) = true := by decide
def inval (s : State) (w : Word) (p : Option Word) : State := withPart0 (withVf s fun v => { v with tlbi := some w }) fun x => { x with ps2pend := p }
def memOp1 : MemOp := opOf .load []
theorem witness_MemoryEvents :
    (∀ x : RowState, ∃ (s : State) (r : Row), s.rows = [(0 * 4096 + 4095, r)] ∧ s.toucher (0 * 4096 + 4095) = some (0, 0) ∧ r.st = x ∧ ∀ y ∈ s.slices, y.dz = false) ∧
    (∀ x : RowState, ∃ (s : State) (key : Nat) (r : Row), s.rows = [(key, r)] ∧ r.st = x ∧ r.dirty = 5 ∧ ∀ g ∈ s.groups, g.ops = []) ∧
    (∃ (s : State) (line : Nat), s.partMapping (line * 128) = none) ∧ (∃ (s : State) (line : Nat) (p : Partition), s.partMapping (line * 128) = some p) ∧
    (∃ (s : State) (p : Nat), p < 12 ∧ s.HasPart p ∧ s.log (s.part p).spineVf = 0) ∧
    (∀ b : Bool, ∃ (s : State) (w : Word), s.HasVf 0 ∧ (s.vf 0).tlbi = some w ∧ s.quietVf 0 = b ∧ s.HasPart 0 ∧ (s.part 0).ps2pend = some 3 ∧ (b = true → s.quietRows ((s.part 0).vfsOf 65535) (s.inPages (s.part 0) 3) = true) ∧
      ((s.part 0).vfsOf 65535).all s.quietVf = b) ∧
    (∃ w : Word, w.toNat / 4 % 2 ^ 14 ≠ 0) ∧ ∃ w : Word, w.toNat / 4 % 2 ^ 14 = 0 ∧ w.getLsbD 1 = false ∧ w ≠ 0 := by
  refine ⟨fun x => ⟨rowState x [stashOp], mapped x, rfl, by cases x <;> decide, rfl, by cases x <;> decide⟩,
    fun x => ⟨rowState x [], 4095, mapped x, rfl, rfl, rfl, by cases x <;> decide⟩, ⟨unmapped (st g0), 0, by decide⟩, ⟨st g0, 0, (st g0).part 0, by decide⟩,
    ⟨st g0, 0, by decide, by unfold State.HasPart; decide, by decide⟩, fun b => ?_, ⟨4, by decide⟩, ⟨1, by decide, by decide, by decide⟩⟩
  cases b
  · exact ⟨inval (withOp memOp1) 5 (some 3), 5, by unfold State.HasVf; decide, by decide, by decide, by unfold State.HasPart; decide, by decide, by decide, by decide⟩
  · exact ⟨inval (st g0) 5 (some 3), 5, by unfold State.HasVf; decide, by decide, by decide, by unfold State.HasPart; decide, by decide, by decide, by decide⟩
-- ## traps without a handler, rings, the debug agent

def hRing (n : Nat) : Ring := { Ring.reset with base := 0x100004, head := BitVec.ofNat 64 n }
/-- A permission fault of stage 1, and one for the host ring. -/
def tPerm (host : Bool) : TrapReq := { mkTrap 6 3 (0x100000 + if host then 2 ^ 64 else 0) with pc := 0x40000 }
def withRings (s : State) (x : Ring) : State := (s.setRing (.vf 0) x).setRing (.host 0) x
def faultState (host : Bool) : State := withRings (st (pend g0 (tPerm host))) (hRing 0)
def launch0 : Launch := { count := 1, nodes := [], failure := none, waiting := none, colophon := [], noRecord := false }
def fatalSlot : GraphSlot := { nodes := [placedNode], compl := 0x30000, count := 0, done := 0, queue := [], running := some launch0, pl := 0 }
def fatalState : State := withNodes (st (pend g0 (mkTrap 5 1 4))) [placedNode] (some launch0)
theorem test_fatal : (match execFatalTrap 3 fatalState with
    | .next t => (t.groups.map fun h => (h.live, h.wait)) == [(0, .ended)] && ((t.slot? 0 0).bind fun x => x.running.bind (·.failure)) == some (33, 0, 0x2801)
    | .fault _ | .refused _ => false) = true := by decide
/-- A breakpoint at the group's word, in comparator 1. -/
def gBp : Group := { g0 with cmp := { g0.cmp with ibp := [0, 0x40001] } }
def halting (ns : Nat) : State := { st g0 with clusters := [{ c0 with halting := true, atck := true, told := 1000 }], ns }
theorem witness_TrapEvents :
    (∃ (s : State) (key : Nat) (g : Group) (t : TrapReq) (c : Cluster) (m : Team) (x : GraphSlot) (l : Launch), s.group? key = some g ∧ s.log g.id.vf = 0 ∧
      g.trap.entry = some t ∧ Drained g ∧ s.standing g = true ∧ ToFatal s g t ∧ s.attached g.id.vf = false ∧ s.cluster? g.id.cluster = some c ∧ s.team? g.id.team = some m ∧
      m.cluster = c.key ∧ s.slot? g.id.vf c.gslot = some x ∧ x.running = some l ∧ l.failure = none) ∧
    (∀ h : Bool, ∃ (s : State) (key : Nat) (g : Group) (t : TrapReq), s.group? key = some g ∧ s.log g.id.vf = 0 ∧ g.trap.entry = some t ∧ Drained g ∧ s.standing g = true ∧ t.grp = 6 ∧
      t.code = 3 ∧ faultRing s g.id.vf t = (if h then .host 0 else .vf 0) ∧ (s.ring (faultRing s g.id.vf t)).enabled = true) ∧
    (∃ (s : State) (key : Nat) (g : Group) (t : TrapReq), s.group? key = some g ∧ s.log g.id.vf = 0 ∧ g.trap.entry = some t ∧ Drained g ∧ s.standing g = true ∧ t.grp = 18) ∧
    (∃ (s : State) (key : Nat) (g : Group), s.group? key = some g ∧ s.log g.id.vf = 0 ∧ (∀ j, j < 1 → (nth (0 : Word) g.cmp.ibp j).getLsbD 0 = false) ∧
      s.attached g.id.vf = true ∧ g.exempt = false ∧ g.wait = .run ∧ g.trap.entry = none ∧ g.live ≠ 0 ∧ s.standing g = true ∧ (nth (0 : Word) g.cmp.ibp 1).getLsbD 0 = true ∧
      aligned8 (nth (0 : Word) g.cmp.ibp 1) = g.pc) ∧
    ∀ ns ∈ [20999, 21000], ∃ (s : State) (key : Nat) (g : Group) (c : Cluster), s.group? key = some g ∧ s.log g.id.vf = 0 ∧ s.cluster? g.id.cluster = some c ∧
      c.residence = .resident ∧ c.halting = true ∧ c.atck = true ∧ g.wait = .run ∧ g.trap.entry = none ∧ s.ns = ns ∧ c.told + 20000 = 21000 := by
  refine ⟨⟨fatalState, 3, pend g0 (mkTrap 5 1 4), mkTrap 5 1 4, c0, t0, fatalSlot, launch0, by decide, by decide, by decide, by unfold Drained; decide, by decide,
      ⟨by unfold Handled; decide, fun h => absurd h.2.2.2.1 (by decide), fun h => absurd h.2.2.2.2 (by decide)⟩, by decide, by decide, by decide, by decide, by decide, by decide, by decide⟩, fun h => ?_,
    ⟨st (pend g0 (mkTrap 18 1 4)), 3, pend g0 (mkTrap 18 1 4), mkTrap 18 1 4, by decide, by decide, by decide, by unfold Drained; decide, by decide, by decide⟩,
    ⟨withAgent (st gBp), 3, gBp, by decide, by decide, by decide, by decide, by decide, by decide, by decide, by decide, by decide, by decide, by decide⟩,
    fun ns h => ?_⟩
  · cases h
    · exact ⟨faultState false, 3, pend g0 (tPerm false), tPerm false, by decide, by decide, by decide, by unfold Drained; decide, by decide, by decide, by decide, by decide, by decide⟩
    · exact ⟨faultState true, 3, pend g0 (tPerm true), tPerm true, by decide, by decide, by decide, by unfold Drained; decide, by decide, by decide, by decide, by decide, by decide⟩
  · have hd : ∀ n ∈ [20999, 21000], (halting n).group? 3 = some g0 ∧ (halting n).log 0 = 0 ∧
        (halting n).cluster? 1 = some { c0 with halting := true, atck := true, told := 1000 } := by decide
    exact ⟨halting ns, 3, g0, { c0 with halting := true, atck := true, told := 1000 }, (hd ns h).1, (hd ns h).2.1, (hd ns h).2.2, by decide, rfl, rfl, by decide,
      by decide, rfl, rfl⟩

def post0 : RingPost := { bytes := List.replicate 32 9, group := some 3 }
def gFault (r : RingRef) (n : Option Nat) : Group := { g0 with wait := .fault r n }
def postState (r : RingRef) (n : Nat) : State := withRings (st (gFault r none)) { hRing n with queue := [post0] }
def slotOf (r : RingRef) (n : Nat) : Except TrapReq (Option Nat) × State := ((postState r n).setRing r (hRing n)).ringSlot r
/-- The physical address of a ring's next record, when it has one. -/
def slotPa (x : Except TrapReq (Option Nat)) : Option Nat := match x with | .ok a => a | .error _ => none
theorem slot_some {x : Except TrapReq (Option Nat) × State} (h : (slotPa x.1).isSome = true) : x = (.ok (some ((slotPa x.1).getD 0)), x.2) := by
  obtain ⟨a, s⟩ := x
  cases a with
  | ok a =>
    cases a with
    | some n => rfl
    | none => cases h
  | error t => cases h
theorem test_post : (match execFaultRecordPost (.vf 0) (postState (.vf 0) 15) with
    | .next t => Memory.readN t.mem (0x100000 + 32 * 15) 2 == [9, 9] && (t.ring (.vf 0)).head == 16 && (t.groups.map (·.wait)) == [.fault (.vf 0) (some 0x09090909)]
    | .fault _ | .refused _ => false) = true := by decide
def replayState (l : List Nat) : State := withRings (st (gFault (.vf 0) (some 7))) { hRing 0 with released := l }
theorem witness_FaultService :
    (∀ r ∈ ([.vf 0, .host 0] : List RingRef), ∃ (s : State) (q : RingPost) (rest : List RingPost) (s1 : State) (pa : Nat), (s.ring r).queue = q :: rest ∧
      (s.ring r).enabled = true ∧ ((s.ring r).head - (s.ring r).tail).toNat = 2 ^ ((s.ring r).base.toNat % 32) - 1 ∧
      (s.setRing r { s.ring r with queue := rest }).ringSlot r = (.ok (some pa), s1) ∧ s1.ring r = { s.ring r with queue := rest } ∧ s1.rows = [] ∧ s1.linkUp = true ∧
      s1.log (leNat ((q.bytes.drop 22).take 2)) = 0 ∧ ∃ g, q.group = some 3 ∧ s1.group? 3 = some g ∧ g.wait = .fault r none) ∧
    (∃ (s : State) (r : RingRef) (q : RingPost), (s.ring r).queue = [q] ∧ (s.ring r).enabled = true ∧
      ((s.ring r).head - (s.ring r).tail).toNat = 2 ^ ((s.ring r).base.toNat % 32)) ∧
    (∃ (s : State) (w : Word) (g : Group), (s.ring (.vf 0)).enabled = true ∧ w.toNat / 2 ^ 32 % 2 ^ 31 = 0 ∧ s.waitingTags (.vf 0) = [] ∧ g ∈ s.groups ∧
      g.wait = .fault (.vf 0) (some 7) ∧ w.toNat % 2 ^ 32 = 7) ∧
    ∀ l ∈ ([[7], [6]] : List (List Nat)), ∃ (s : State) (g : Group), s.group? 3 = some g ∧ g.wait = .fault (.vf 0) (some 7) ∧ (s.ring (.vf 0)).released = l := by
  refine ⟨fun r hr => ?_, ⟨postState (.vf 0) 16, .vf 0, post0, by decide, by decide, by decide⟩,
    ⟨replayState [], 7, gFault (.vf 0) (some 7), by decide, by decide, by decide, by decide, by decide, by decide⟩, fun l hl => ?_⟩
  · have h : ∀ r ∈ ([.vf 0, .host 0] : List RingRef), ((postState r 15).ring r = { hRing 15 with queue := [post0] } ∧ (slotPa (slotOf r 15).1).isSome = true) ∧
        (slotOf r 15).2.ring r = hRing 15 ∧ (slotOf r 15).2.rows = [] ∧ (slotOf r 15).2.linkUp = true ∧ (slotOf r 15).2.log (leNat ((post0.bytes.drop 22).take 2)) = 0 ∧
        (slotOf r 15).2.group? 3 = some (gFault r none) := by decide
    obtain ⟨⟨h1, h2⟩, h3, h4, hl, h5, h6⟩ := h r hr
    refine ⟨postState r 15, post0, [], (slotOf r 15).2, (slotPa (slotOf r 15).1).getD 0, by rw [h1], by rw [h1]; decide, by rw [h1]; decide, by rw [h1]; exact slot_some h2,
      by rw [h1]; exact h3, h4, hl, h5, gFault r none, rfl, h6, rfl⟩
  · have h : ∀ l ∈ ([[7], [6]] : List (List Nat)), (replayState l).group? 3 = some (gFault (.vf 0) (some 7)) ∧ ((replayState l).ring (.vf 0)).released = l := by decide
    exact ⟨replayState l, gFault (.vf 0) (some 7), (h l hl).1, by decide, (h l hl).2⟩

def withDebug (s : State) (f : DebugRegs → DebugRegs) : State := withPart0 s fun p => { p with dbg := f p.dbg }
def gStop : Group := { g0 with wait := .debug (some 9), dbgpc := 0x45 }
def dbgState (sel : Word) : State := withDebug (st gStop) fun d => { d with unl := true, sel }
theorem test_dbgres : (match execDbgres 0 0x8000000000000009 (dbgState 0) with
    | .next t => t.groups.map (fun g => (g.wait, g.pc)) == [(.run, 0x40)]
    | .fault _ | .refused _ => false) = true := by decide
def tokenState (x : Option Word) : State := withDebug s0 fun d => { d with token := x }
theorem tokens : ∀ x ∈ ([some 5, some 6] : List (Option Word)), ((tokenState x).parts.any fun p => p.num == 0) = true ∧
    ((tokenState x).part 0).dbg.token = x ∧ ((tokenState x).part 0).dbg.failTimes = [] := by
  intro x hx
  simp only [List.mem_cons, List.not_mem_nil, or_false] at hx
  obtain rfl | rfl := hx <;> decide
/-- Event 9 is selected, with s63 or with register 767 of lane 31. -/
def itemWords : List Word := [0x90000803F, 0x900025FFF]
def stoppedAt (s : State) (n : Nat) : Bool := ((s.stoppedGroup (s.part 0) n).map fun g => s.log g.id.vf != 1 && decide (767 < g.id.claim)).getD false
theorem stopped_of {s : State} {n : Nat} (h : stoppedAt s n = true) : ∃ g, s.log g.id.vf ≠ 1 ∧ 767 < g.id.claim ∧ s.stoppedGroup (s.part 0) n = some g := by
  unfold stoppedAt at h
  cases hg : s.stoppedGroup (s.part 0) n with
  | none => rw [hg] at h; cases h
  | some g =>
    rw [hg] at h
    simp at h
    exact ⟨g, h.1, h.2, rfl⟩
def itemOk (x : Word) : Bool := ((dbgState x).part 0).dbg.unl && stoppedAt (dbgState x) (x.toNat / 2 ^ 32) && ((dbgState x).part 0).dbg.sel == x
theorem items : itemWords.all itemOk = true := by decide
theorem item_of {x : Word} (h : x ∈ itemWords) : ((dbgState x).part 0).dbg.unl = true ∧ stoppedAt (dbgState x) (x.toNat / 2 ^ 32) = true ∧
    ((dbgState x).part 0).dbg.sel = x := by
  have h := List.all_eq_true.1 items x h
  simp only [itemOk, Bool.and_eq_true, beq_iff_eq] at h
  exact ⟨h.1.1, h.1.2, h.2⟩
theorem witness_DebugAgent :
    (∀ x ∈ ([some 5, some 6] : List (Option Word)), ∃ (s : State) (w : Word), s.HasPart 0 ∧ (s.part 0).dbg.token = x ∧ w = 5 ∧ (s.part 0).dbg.failTimes = []) ∧
    (∃ (s : State) (w : Word), (s.part 0).dbg.unl = true ∧ (∃ g, s.log g.id.vf ≠ 1 ∧ 767 < g.id.claim ∧ s.stoppedGroup (s.part 0) (w.toNat % 2 ^ 32) = some g) ∧
      w.getLsbD 63 = true) ∧
    (∀ x ∈ itemWords, ∃ s : State, (s.part 0).dbg.unl = true ∧ (s.part 0).dbg.sel = x ∧ ∃ g, s.log g.id.vf ≠ 1 ∧ 767 < g.id.claim ∧
      s.stoppedGroup (s.part 0) (x.toNat / 2 ^ 32) = some g) ∧
    (∃ s : State, (s.part 0).dbg.unl = false) :=
  ⟨fun x hx =>
      have ⟨p, hp, hn⟩ := List.any_eq_true.1 (tokens x hx).1
      ⟨tokenState x, 5, ⟨p, hp, by simpa using hn⟩, (tokens x hx).2.1, rfl, (tokens x hx).2.2⟩,
    ⟨dbgState 0, 0x8000000000000009, by decide, stopped_of (by decide), by decide⟩,
    fun x hx => ⟨dbgState x, (item_of hx).1, (item_of hx).2.2, stopped_of (item_of hx).2.1⟩, s0, by decide⟩
theorem witness_DebugAgent_key : (∃ w : Word, w.extractLsb' 8 56 = Config.fusedToken) ∧
    ∃ (s : State) (w : Word), w.extractLsb' 8 56 ≠ Config.fusedToken ∧ s.device.dbgFails = [] := by
  refine ⟨⟨Config.fusedToken ++ (0 : BitVec 8), ?_⟩, State.reset, ~~~(Config.fusedToken ++ (0 : BitVec 8)), fun h => ?_, rfl⟩
  · ext i hi
    simp only [BitVec.getElem_extractLsb', BitVec.getLsbD_append]
    rw [if_neg (by omega)]
    simp [hi]
  · have hb : ((~~~(Config.fusedToken ++ (0 : BitVec 8))).extractLsb' 8 56).getLsbD 0 = Config.fusedToken.getLsbD 0 := by rw [h]
    rw [BitVec.getLsbD_extractLsb', BitVec.getLsbD_not, BitVec.getLsbD_append] at hb
    revert hb
    cases BitVec.getLsbD Config.fusedToken 0 <;> decide
-- ## graphs, launches, copies of the spine

theorem single_of {α : Type} {l : List α} {p : α → Bool} (h : l.length = 1 ∧ l.all p = true) : ∃ x, l = [x] ∧ p x = true := by
  match l, h with
  | [x], h => exact ⟨x, rfl, by simpa using h.2⟩
theorem some_of {α : Type} {o : Option α} {p : α → Bool} (h : (o.map p).getD false = true) : ∃ x, o = some x ∧ p x = true := by
  cases o with
  | none => cases h
  | some x => exact ⟨x, rfl, h⟩

/-- Virtual function 0 has 64 graph slots and 8 nodes, a full quota of core 0 and room to save. -/
def quota0 : Word := 0x1040080010000000
def withSoft (s : State) : State :=
  withPart0 s fun p =>
    let force := { p.force with vfsoft := putNth p.force.vfsoft 0 0x0040000800000C00, pquota := quota0, vfsave := putNth p.force.vfsave 0 0xFFFF, pwt := 1 }
    { p with force }
/-- A copy of 24 bytes from 0x100100 to 0x100000; a kernel of one cluster of one group; an event node that waits for 5 at 0x100000, and one that writes it. -/
def cRec : List Word := [1, 0, 0, 0, 0, 0, 0x100000, 0x100100, 0x10001000018] ++ List.replicate 23 0
def kRec : List Word := [0, 0, 0, 0, 0, 0, 0x40000, 0, 0x100010001, 0x20111, 64] ++ List.replicate 21 0
def eRec (t : Word) : List Word := [t, 0, 0, 0, 0, 0, 0x100000, 5] ++ List.replicate 24 0
def node0 (st : NodeState) (placed retired : Nat) (copy : Option SpineCopy := none) : NodeRun :=
  { idx := 0, state := st, deps := 0, placed, retired, life := 0, copy, wait := none }
def launchOf (n : NodeRun) : Launch := { launch0 with nodes := [n] }
def running (r : List Word) (n : NodeRun) : State :=
  withVf (withNodes (withSoft { st g0 with groups := [], teams := [], clusters := [], cur := .none }) [r] (some (launchOf n))) fun v =>
    { v with queues := [[{ gslot := 0, node := 0, time := 7 }], [], [], []] }
def slotX (rcds : List (List Word)) (q : List Word) (running : Option Launch) : GraphSlot := { nodes := rcds, compl := 0x30000, count := 9, done := 0, queue := q, running, pl := 0 }
def slotState (k : Nat) (x : GraphSlot) : State := withVf (withSoft (st g0)) fun v => { v with slots := [(k, x)] }

/-- A graph image of two nodes at 0x100000: a copy, then a kernel that waits for it. -/
def cRec2 : List Word := [0x100000001, 1] ++ cRec.drop 2
def kRec2 : List Word := 0x1000000000000 :: kRec.tail
/-- The bytes of words that are not 0, from an address. -/
def cells (a : Nat) (l : List Word) : List Host.Cell := l.zipIdx.flatMap fun (w, i) => if w = 0 then [] else
  (leBytes 8 w.toNat).zipIdx.filterMap fun (b, j) => if b = 0 then none else some (a + 8 * i + j, b)
def imgMem (l : List (List Word)) : List Host.Cell := s0.mem ++ cells 0x100000 [BitVec.ofNat 64 l.length, 0x30000] ++ cells 0x100100 l.flatten
def imgState (l : List (List Word)) : State := { slotState 63 (slotX [] [] none) with mem := imgMem l }
def imgHead (l : List (List Word)) := (imgState l).schedRead 0 0x100000 256
def imgBody (l : List (List Word)) := (imgHead l).2.schedRead 0 0x100100 (256 * l.length)
def replaying0 (s : State) : State := withPart0 s fun p => { p with log := { p.log with rpstat := 2 } }
theorem witness_GraphRequests :
    (∃ s : State, s.HasVf 0 ∧ s.replaying 0 = true) ∧ (∃ s : State, s.HasVf 0 ∧ s.replaying 0 = false ∧ (s.soft 0).toNat / 2 ^ 48 % 2 ^ 7 ≤ 0) ∧
    (∃ s : State, s.HasVf 0 ∧ s.replaying 0 = false ∧ 62 < (s.soft 0).toNat / 2 ^ 48 % 2 ^ 7 ∧ s.slot? 0 62 = none) ∧
    (∀ q ∈ ([[1, 2, 3, 4], [1, 2, 3]] : List (List Word)), ∃ (s : State) (x : GraphSlot), s.HasVf 0 ∧ s.replaying 0 = false ∧
      (s.soft 0).toNat / 2 ^ 48 % 2 ^ 7 = 64 ∧ s.slot? 0 63 = some x ∧ x.queue = q) ∧
    ∃ (s : State) (x : GraphSlot) (r : Word), s.HasVf 0 ∧ s.slot? 0 63 = some x ∧ x.running = none ∧ x.queue = [r] ∧ r.toNat = 63 ∧ (s.vf 0).queues.length = 4 ∧
      x.nodes = [cRec2, kRec2] := by
  refine ⟨⟨replaying0 (st g0), by unfold State.HasVf; decide, by decide⟩, ⟨st g0, by unfold State.HasVf; decide, by decide, by decide⟩,
    ⟨slotState 63 (slotX [] [] none), by unfold State.HasVf; decide, by decide, by decide, by decide⟩, fun q hq => ?_,
    slotState 63 (slotX [cRec2, kRec2] [63] none), slotX [cRec2, kRec2] [63] none, 63, by unfold State.HasVf; decide, by decide, by decide, by decide, by decide, by decide,
    by decide⟩
  have h : ∀ q ∈ ([[1, 2, 3, 4], [1, 2, 3]] : List (List Word)), ((slotState 63 (slotX [] q none)).vfs.any fun v => v.num == 0) = true ∧
      (slotState 63 (slotX [] q none)).replaying 0 = false ∧ ((slotState 63 (slotX [] q none)).soft 0).toNat / 2 ^ 48 % 2 ^ 7 = 64 ∧
      (slotState 63 (slotX [] q none)).slot? 0 63 = some (slotX [] q none) := by decide
  obtain ⟨v, hv, hn⟩ := List.any_eq_true.1 (h q hq).1
  exact ⟨slotState 63 (slotX [] q none), slotX [] q none, ⟨v, hv, by simpa using hn⟩, (h q hq).2.1, (h q hq).2.2.1, (h q hq).2.2.2, rfl⟩
/-- What the load reads: the header and the records. -/
def loadOk (l : List (List Word)) (good : Bool) : Bool :=
  match imgHead l with
  | (.error _, _) => false
  | (.ok hb, s1) =>
    match imgBody l with
    | (.error _, _) => false
    | (.ok bs, s2) =>
      (match wordsOf hb with
        | n :: c :: r => n.toNat == l.length && c.toNat % 16 == 0 && r.all fun x => x == 0
        | [] | [_] => false) && decide (l.length + s1.nodesHeld 0 63 ≤ 8) && s2.vfs.any (fun v => v.num == 0) &&
        graphOk ((List.range l.length).map fun i => ((wordsOf bs).drop (32 * i)).take 32) == good
theorem test_images : loadOk [cRec] true = true ∧ loadOk [5 :: kRec.tail] false = true := by decide +kernel
theorem witness_GraphRequests_load : (∃ s : State, s.HasVf 0 ∧ s.replaying 0 = false ∧ 63 < (s.soft 0).toNat / 2 ^ 48 % 2 ^ 7 ∧
      ¬ (∃ x, s.slot? 0 63 = some x ∧ (x.running.isSome = true ∨ x.queue ≠ [])) ∧ (0x10003F : Word).toNat % 64 = 63 ∧ (0x10003F : Word).toNat / 64 % 4 = 0) ∧
    ∃ s : State, s.HasVf 0 ∧ s.replaying 0 = false ∧ ∃ x, s.slot? 0 63 = some x ∧ x.queue ≠ [] :=
  ⟨⟨slotState 63 (slotX [] [] none), by unfold State.HasVf; decide, by decide, by decide, fun ⟨x, h, h2⟩ => by
      rw [(by decide : (slotState 63 (slotX [] [] none)).slot? 0 63 = some (slotX [] [] none))] at h
      cases h
      exact absurd h2 (by decide), by decide, by decide⟩,
    slotState 63 (slotX [] [5] none), by unfold State.HasVf; decide, by decide, slotX [] [5] none, by decide, by decide⟩

theorem test_dispatch_kernel : (match execDispatchStep (running kRec (node0 .running 0 0)) with
    | .next t => t.clusters.length == 1 && t.groups.map (fun g => (g.pc, g.id.claim)) == [(0x40000, 768)]
    | .fault _ | .refused _ => false) = true := by decide +kernel
def headB (s : State) (n : Nat) (h : Head) : Bool := s.log h.vf == 0 && nodeType h.rcd == n && s.node? h.vf h.item.gslot h.item.node == some h.run &&
  (if n = 1 then (copyNode h.rcd).ok else h.run.state == .running && (h.refused (s.det h.vf)).isNone && !(nth (0 : Word) h.rcd 0).getLsbD 8 &&
    (s.findRect (s.part h.p.num) h.cls (shapeOf h.rcd) fun _ => false).isSome && s.claimFits (s.part h.p.num) h.vf (shapeOf h.rcd).dirty)
theorem witness_NodesAndClusters_dispatch :
    (∃ (s : State) (h : Head), s.heads 0 = [h] ∧ s.log h.vf = 0 ∧ nodeType h.rcd = 1 ∧ (copyNode h.rcd).ok = true ∧ s.node? h.vf h.item.gslot h.item.node = some h.run) ∧
    ∃ (s : State) (h : Head) (r : Rect), s.heads 0 = [h] ∧ s.log h.vf = 0 ∧ nodeType h.rcd = 0 ∧ h.run.state = .running ∧ h.refused (s.det h.vf) = none ∧
      (nth (0 : Word) h.rcd 0).getLsbD 8 = false ∧ s.clusters = [] ∧ s.rows = [] ∧ (∀ g ∈ s.groups, g.ops = []) ∧
      s.findRect (s.part h.p.num) h.cls (shapeOf h.rcd) (fun _ => false) = some r ∧ s.claimFits (s.part h.p.num) h.vf (shapeOf h.rcd).dirty = true := by
  have hc : ((running cRec (node0 .ready 0 0)).heads 0).length = 1 ∧ ((running cRec (node0 .ready 0 0)).heads 0).all (headB (running cRec (node0 .ready 0 0)) 1) = true := by decide
  have hk : ((running kRec (node0 .running 0 0)).heads 0).length = 1 ∧ ((running kRec (node0 .running 0 0)).heads 0).all (headB (running kRec (node0 .running 0 0)) 0) = true := by
    decide +kernel
  obtain ⟨x, hx, px⟩ := single_of hc
  obtain ⟨y, hy, py⟩ := single_of hk
  simp only [headB, if_true, Bool.and_eq_true, beq_iff_eq] at px
  simp only [headB, Nat.zero_ne_one, if_false, Bool.and_eq_true, beq_iff_eq, Option.isNone_iff_eq_none, Bool.not_eq_true', Option.isSome_iff_exists] at py
  obtain ⟨⟨⟨py1, py2⟩, -⟩, ⟨⟨⟨⟨py4, py5⟩, py6⟩, ⟨r, py7⟩⟩, py8⟩⟩ := py
  exact ⟨⟨_, x, hx, px.1.1.1, px.1.1.2, px.2, px.1.2⟩, _, y, r, hy, py1, py2, py4, py5, py6, rfl, rfl, fun g hg => (nomatch hg), py7, py8⟩
-- ## nodes that end, copies that end

def hasNode (s : State) (r : List Word) (n : NodeRun) : Bool := ((s.slot? 0 0).map fun x => x.nodes == [r]).getD false && s.node? 0 0 0 == some n
theorem node_of {s : State} {r : List Word} {n : NodeRun} (h : hasNode s r n = true) : ∃ x, s.slot? 0 0 = some x ∧ nth [] x.nodes 0 = r ∧ s.node? 0 0 0 = some n := by
  simp only [hasNode, Bool.and_eq_true, beq_iff_eq] at h
  obtain ⟨x, hx, px⟩ := some_of h.1
  have e : x.nodes = [r] := by simpa using px
  exact ⟨x, hx, by rw [e]; rfl, h.2⟩
def evState (w : Lane) (t : Word) : State := withWord (running (eRec t) (node0 .running 0 0)) 0x100000 w
def evRead (w : Lane) := (evState w 2).schedRead 0 0x100000 8
def evWrite := (evState 0 3).schedWrite 0 0x100000 (leBytes 8 5)
theorem test_event_wait : ∀ x ∈ [(4, NodeState.running), (5, .done)], (match execEventWaitPoll 0 0 0 (evState (BitVec.ofNat 32 x.1) 2) with
    | .next t => (t.node? 0 0 0).map (·.state) == some x.2
    | .fault _ | .refused _ => false) = true := by decide
theorem evRead_ok (w : Lane) (h : isOk (evRead w).1 = true) : evRead w = (.ok (okOr [] (evRead w).1), (evRead w).2) := answer_of [] (evRead w) h
theorem witness_NodesAndClusters_events :
    (∀ w : Bool, ∃ (s : State) (x : GraphSlot) (n : NodeRun) (p : Partition) (s1 : State) (bs : List Byte), s.slot? 0 0 = some x ∧ s.node? 0 0 0 = some n ∧
      n.state = .running ∧ s.partOf 0 = some p ∧ p.stopped 0 (nodeClass (nth [] x.nodes 0)) = false ∧ n.wait = none ∧ nodeType (nth [] x.nodes 0) = 2 ∧
      s.schedRead 0 (nth (0 : Word) (nth [] x.nodes 0) 6).toNat 8 = (.ok bs, s1) ∧ s1.node? 0 0 0 = some n ∧
      (decide (leNat bs < (nth (0 : Word) (nth [] x.nodes 0) 7).toNat) = w)) ∧
    ∃ (s : State) (x : GraphSlot) (n : NodeRun) (p : Partition) (s1 : State), s.slot? 0 0 = some x ∧ s.node? 0 0 0 = some n ∧
      n.state = .running ∧ s.partOf 0 = some p ∧ p.stopped 0 (nodeClass (nth [] x.nodes 0)) = false ∧ n.wait = none ∧ nodeType (nth [] x.nodes 0) = 3 ∧
      s.schedWrite 0 (nth (0 : Word) (nth [] x.nodes 0) 6).toNat (leBytes 8 (nth (0 : Word) (nth [] x.nodes 0) 7).toNat) = (.ok (), s1) ∧ s1.node? 0 0 0 = some n := by
  have hw : ∀ w : Bool, hasNode (evState (if w then 4 else 5) 2) (eRec 2) (node0 .running 0 0) = true ∧
      (evState (if w then 4 else 5) 2).partOf 0 = some ((evState 0 2).part 0) ∧ isOk (evRead (if w then 4 else 5)).1 = true ∧
      (evRead (if w then 4 else 5)).2.node? 0 0 0 = some (node0 .running 0 0) ∧ decide (leNat (okOr [] (evRead (if w then 4 else 5)).1) < 5) = w := by decide
  refine ⟨fun w => ?_, ?_⟩
  · obtain ⟨h1, h2, h3, h4, h5⟩ := hw w
    obtain ⟨x, hx, hr, hn⟩ := node_of h1
    exact ⟨_, x, _, _, (evRead (if w then 4 else 5)).2, okOr [] (evRead (if w then 4 else 5)).1, hx, hn, rfl, h2, by rw [hr]; decide, rfl, by rw [hr]; decide,
      by rw [hr]; exact evRead_ok _ h3, h4, by rw [hr]; exact h5⟩
  · obtain ⟨x, hx, hr, hn⟩ := node_of (by decide : hasNode (evState 0 3) (eRec 3) (node0 .running 0 0) = true)
    have h : isOk evWrite.1 = true ∧ evWrite.2.node? 0 0 0 = some (node0 .running 0 0) := by decide
    exact ⟨evState 0 3, x, _, (evState 0 3).part 0, evWrite.2, hx, hn, rfl, by decide, by rw [hr]; decide, rfl, by rw [hr]; decide,
      by rw [hr]; exact answer_of () evWrite h.1, h.2⟩
def doneL : Launch := launchOf (node0 .done 1 1)
def compState : State := { withSoft (st g0) with vfs := s0.vfs.map fun (v : Vf) => if v.num = 0 then { v with slots := [(0, slotX [kRec] [] (some doneL))] } else v }
def compWrite := compState.schedWrite 0 0x30000 (leBytes 8 1 ++ leBytes 8 0)
theorem test_completion : (match execLaunchComplete 0 0 compState with
    | .next t => Memory.readN t.mem 0x30000 9 == [1, 0, 0, 0, 0, 0, 0, 0, 0] && ((t.slot? 0 0).map fun x => (x.done, x.running.isSome)) == some (1, false)
    | .fault _ | .refused _ => false) = true := by decide
theorem witness_NodesAndClusters_ends :
    (∀ n ∈ [0, 1], ∃ (s : State) (x : GraphSlot) (m : NodeRun), s.slot? 0 0 = some x ∧ s.node? 0 0 0 = some m ∧ m.state = .running ∧ nodeType (nth [] x.nodes 0) = 0 ∧
      gridOfRec (nth [] x.nodes 0) = 1 ∧ m.placed = 1 ∧ m.retired = n ∧ s.slots = []) ∧
    (∃ (s : State) (x y : GraphSlot) (l : Launch) (s1 : State), s.slot? 0 0 = some x ∧ x.running = some l ∧ x.pl = 0 ∧ l.waiting = none ∧ l.failure = none ∧
      l.noRecord = false ∧ (∀ n ∈ l.nodes, n.state = .done) ∧ s.schedWrite 0 x.compl.toNat (leBytes 8 l.count ++ leBytes 8 0) = (.ok (), s1) ∧ s1.log 0 = 0 ∧
      s1.slot? 0 0 = some y) ∧
    (∃ (s : State) (c : Cluster), s.reap.cluster? 1 = some c ∧ s.reap.clusterOver c = false) ∧
    ∃ (s : State) (c : Cluster), s.reap.cluster? 1 = some c ∧ s.reap.clusterOver c = true := by
  refine ⟨fun n hn => ?_, ⟨compState, slotX [kRec] [] (some doneL), slotX [kRec] [] (some doneL), doneL, compWrite.2, by decide, rfl, rfl, rfl, rfl, rfl, by decide,
      answer_of () compWrite (by decide), by decide, by decide⟩, ⟨st g0, c0, by decide, by decide⟩,
    { st g0 with groups := [] }, c0, by decide, by decide⟩
  have h : ∀ n ∈ [0, 1], hasNode (running kRec (node0 .running 1 n)) kRec (node0 .running 1 n) = true ∧ (running kRec (node0 .running 1 n)).slots.isEmpty = true := by decide
  obtain ⟨x, hx, hr, hm⟩ := node_of (h n hn).1
  exact ⟨_, x, _, hx, hm, rfl, by rw [hr]; decide, by rw [hr]; decide, rfl, rfl, by simpa using (h n hn).2⟩

/-- A copy of 15 bytes from 0x100071 to 0x200001 by tag 63 of the group. -/
def cmd1 (comb cancelled : Bool) (done : Nat) : CopyCmd :=
  { group := 3, vf := 0, core := 0, slot := 0, tag := 63, isComb := comb, dst := endAt 0x200001, src := endAt 0x100071, xlen := 15, ycnt := 1, zcnt := 1, done, pieces := 0
    sco := 0, lockIdx := 0, cancelled, pages := [(0x10, 0x100000, false), (0x20, 0x200000, false)], agent := Agent.nobody, ltime := 0, after := 0, cancelAt := 0, serial := 8 }
def cpState (c : CopyCmd) : State := { withWord (st (busyTag g0)) 0x100074 0x01020304 with copies := [c] }
theorem test_copy : (match execCopyComplete 3 63 1 (cpState (cmd1 false false 0)) with
    | .next t => Memory.readN t.mem 0x200000 9 == [0, 0, 0, 0, 4, 3, 2, 1, 0] && t.groups.map (fun g => (g.tagBusy, g.tagDone, g.tagFlt)) == [(0, 0x8000000000000000, 0)] && t.copies.isEmpty
    | .fault _ | .refused _ => false) = true := by decide
def cmdOk (c : CopyCmd) : Bool := (cpState c).cmdOf 3 63 == some c && (cpState c).group? 3 == some (busyTag g0) && (cpState c).mayMove c && (cpState c).log 0 == 0 &&
  (cpState c).det 0 == false && (cpState c).rows.isEmpty && (cpState c).slices.isEmpty && (cpState c).linkUp &&
  (c.endParts c.src 0 c.xlen ++ c.endParts c.dst 0 c.xlen).all ((cpState c).partAffords c)
theorem cmds_ok : ∀ x ∈ [(false, false, 0), (true, false, 0), (false, false, 15), (false, true, 14)], cmdOk (cmd1 x.1 x.2.1 x.2.2) = true := by decide
theorem witness_CopiesEnd : ∀ x ∈ [(false, false, 0), (true, false, 0), (false, false, 15), (false, true, 14)], ∃ (s : State) (g : Group) (c : CopyCmd),
    s.cmdOf g.id.key c.tag = some c ∧ s.group? g.id.key = some g ∧ c.tag < 64 ∧ (s.copies.find? fun y => y.serial == c.serial) = some c ∧ s.mayMove c = true ∧
    s.log c.vf = 0 ∧ Untraced s c.vf ∧ (c.isComb, c.cancelled, c.done) = x ∧ s.det c.vf = false ∧ c.dst.isStash = false ∧ c.src.isStash = false ∧
    c.ycnt = 1 ∧ c.zcnt = 1 ∧ c.xlen = 15 ∧ s.linkUp = true ∧ (c.endParts c.src 0 c.xlen ++ c.endParts c.dst 0 c.xlen).all (s.partAffords c) = true ∧ Unshared s ∧ c.src.addr.toNat % 128 + c.xlen = 128 ∧ c.dst.addr.toNat % 16 + c.xlen = 16 ∧
    c.src.addr.toNat / 65536 = 16 ∧ (c.pages.find? fun p => p.1 == 16) = some (16, 0x100000, false) ∧
    c.dst.addr.toNat / 65536 = 32 ∧ (c.pages.find? fun p => p.1 == 32) = some (32, 0x200000, false) := by
  intro x hx
  have h := cmds_ok x hx
  have hu : ∀ x ∈ [(false, false, 0), (true, false, 0), (false, false, 15), (false, true, 14)], (((cpState (cmd1 x.1 x.2.1 x.2.2)).partOf 0).all fun p =>
    (cpState (cmd1 x.1 x.2.1 x.2.2)).device.trsel.toNat % 32 != 16 + p.num && (decide (p.trbase.toNat % 32 < 4) || decide (20 < p.trbase.toNat % 32))) = true := by decide
  simp only [cmdOk, Bool.and_eq_true, beq_iff_eq, List.isEmpty_iff] at h
  obtain ⟨⟨⟨⟨⟨⟨⟨⟨h1, h2⟩, h3⟩, h4⟩, h5⟩, h6⟩, h7⟩, h8⟩, h9⟩ := h
  exact ⟨cpState (cmd1 x.1 x.2.1 x.2.2), busyTag g0, cmd1 x.1 x.2.1 x.2.2, h1, h2, (show (63 : Nat) < 64 by decide), by simp [cpState], h3, h4, untraced_of (hu x hx), rfl, h5, rfl, rfl,
    rfl, rfl, rfl, h8, h9, ⟨h6, by rw [h7]; intro y hy; cases hy⟩, (show (0x100071#64).toNat % 128 + 15 = 128 by decide),
    (show (0x200001#64).toNat % 16 + 15 = 16 by decide),
    (show (0x100071#64).toNat / 65536 = 16 by decide), rfl, (show (0x200001#64).toNat / 65536 = 32 by decide), rfl⟩

/-- A copy node with its one chunk to do, on engine 7, or waiting for another device's answer. -/
def spineOf (todo : List Nat) (run : List (Nat × Nat)) : SpineCopy := { todo, running := run, total := 1, parked := none, ready := 7 }
def chunkState (todo : List Nat) (run : List (Nat × Nat)) : State := withWord (running cRec (node0 .running 0 0 (some (spineOf todo run)))) 0x100100 0x99
/-- The chunk has moved, and nothing of it goes to another device. -/
def isDone (m : Moved) : Bool := match m with | .done _ [] => true | .done _ (_ :: _) | .fault _ _ | .held _ | .refused _ => false
def leftOf (m : Moved) : State := match m with | .done s _ => s | .fault _ s => s | .held s => s | .refused s => s
theorem done_of {m : Moved} (h : isDone m = true) : m = .done (leftOf m) [] := by
  cases m with
  | done s o =>
    cases o with
    | nil => rfl
    | cons a l => cases h
  | fault t s => cases h
  | held s => cases h
  | refused s => cases h
theorem test_chunk : (match execSpineChunkComplete 7 0 (chunkState [] [(7, 0)]) with
    | .next t => Memory.readN t.mem 0x100000 1 == [0x99] && (t.node? 0 0 0).map (·.state) == some .done
    | .fault _ | .refused _ => false) = true := by decide
def chunkB (s : State) (n : Nat) (perform : Bool) (c : SpineCmd) : Bool := c.vf == 0 && c.gslot == 0 && c.node == 0 && isDone (s.moveChunk c n perform) &&
  !c.rcd.away (leftOf (s.moveChunk c n perform)) && ((leftOf (s.moveChunk c n perform)).partOf 0).all (fun p =>
    (leftOf (s.moveChunk c n perform)).device.trsel.toNat % 32 != 16 + p.num && (decide (p.trbase.toNat % 32 < 4) || decide (20 < p.trbase.toNat % 32))) &&
  ((leftOf (s.moveChunk c n perform)).node? 0 0 0).isSome
theorem chunk_of {s : State} {n : Nat} {perform : Bool} {c : SpineCmd} (h : chunkB s n perform c = true) : ∃ s1 m, s.moveChunk c n perform = .done s1 [] ∧
    c.rcd.away s1 = false ∧ Untraced s1 c.vf ∧ s1.node? c.vf c.gslot c.node = some m := by
  simp only [chunkB, Bool.and_eq_true, beq_iff_eq, Bool.not_eq_true', Option.isSome_iff_exists] at h
  obtain ⟨⟨⟨⟨⟨⟨hv, hg⟩, hn⟩, hd⟩, ha⟩, hu⟩, m, hm⟩ := h
  exact ⟨_, m, done_of hd, ha, hv ▸ untraced_of hu, by rw [hv, hg, hn]; exact hm⟩
def selB (s : State) : Bool := (s.nextChunk.map fun x => x.2.2 == 0 && chunkB s 0 false x.2.1).getD false
theorem sel_of {s : State} (h : selB s = true) : ∃ p c, s.nextChunk = some (p, c, 0) ∧ chunkB s 0 false c = true := by
  obtain ⟨⟨p, c, n⟩, hx, px⟩ := some_of h
  simp only [Bool.and_eq_true, beq_iff_eq] at px
  exact ⟨p, c, by rw [hx, px.1], px.2⟩
def engB (s : State) : Bool := ((s.onEngine 7).map fun x => x.2 == 0 && x.1.prog.todo == [] && x.1.prog.running == [(7, 0)] && chunkB s 0 true x.1).getD false
theorem eng_of {s : State} (h : engB s = true) : ∃ c, s.onEngine 7 = some (c, 0) ∧ c.prog.todo = [] ∧ c.prog.running = [(7, 0)] ∧ chunkB s 0 true c = true := by
  obtain ⟨⟨c, n⟩, hx, px⟩ := some_of h
  simp only [Bool.and_eq_true, beq_iff_eq] at px
  exact ⟨c, by rw [hx, px.1.1.1], px.1.1.2, px.1.2, px.2⟩
theorem idle_of {s : State} (h : s.parts.all (fun p => (s.spineCmds p).all fun c => c.prog.running.isEmpty) = true) :
    ∀ p ∈ s.parts, ∀ c ∈ s.spineCmds p, ∀ r ∈ c.prog.running, r.1 ≠ 7 := by
  intro p hp c hc r hr
  rw [List.isEmpty_iff.1 (List.all_eq_true.1 (List.all_eq_true.1 h p hp) c hc)] at hr
  cases hr
theorem witness_SpineCopies_engines :
    (∃ (s : State) (p : Partition) (c : SpineCmd) (s1 : State) (m : NodeRun), (∀ p ∈ s.parts, ∀ c ∈ s.spineCmds p, ∀ r ∈ c.prog.running, r.1 ≠ 7) ∧
      s.nextChunk = some (p, c, 0) ∧ s.moveChunk c 0 false = .done s1 [] ∧ Untraced s1 c.vf ∧ s1.node? c.vf c.gslot c.node = some m) ∧
    ∃ (s : State) (c : SpineCmd) (s1 : State) (m : NodeRun), s.onEngine 7 = some (c, 0) ∧ s.moveChunk c 0 true = .done s1 [] ∧ c.rcd.away s1 = false ∧ Untraced s1 c.vf ∧
      s1.node? c.vf c.gslot c.node = some m ∧ c.prog.todo = [] ∧ c.prog.running.erase (7, 0) = [] := by
  obtain ⟨p, c, hx, hc⟩ := sel_of (show selB (chunkState [0] []) = true by decide)
  obtain ⟨s1, m, h1, -, h3, h4⟩ := chunk_of hc
  obtain ⟨c', hx', ht, hr, hc'⟩ := eng_of (show engB (chunkState [] [(7, 0)]) = true by decide)
  obtain ⟨s1', m', h1', h2', h3', h4'⟩ := chunk_of hc'
  exact ⟨⟨_, p, c, s1, m, idle_of (by decide), hx, h1, h3, h4⟩, _, c', s1', m', hx', h1', h2', h3', h4', ht, by rw [hr]; decide⟩
def ackB (run : List (Nat × Nat)) : Bool := (((chunkState [] run).spineCmds ((chunkState [] run).part 0)).find? fun c => c.vf == 0 && c.gslot == 0 && c.node == 0).any fun c =>
  c.prog.running == run && c.vf == 0 && c.gslot == 0 && c.node == 0
theorem witness_SpineCopies_answers :
    (∀ run ∈ [[(8, 0)], [(7, 0)]], ∃ (s : State) (p : Partition) (c : SpineCmd) (m : NodeRun), s.partOf 0 = some p ∧
      ((s.spineCmds p).find? fun c => c.vf == 0 && c.gslot == 0 && c.node == 0) = some c ∧ s.node? c.vf c.gslot c.node = some m ∧ c.prog.running = run) ∧
    ∀ r : Word, r = 0 ∨ r = 1 → ∃ s : State, Sparse.wf 0 s.spent = true ∧ s.rateOf 0 0 = r.toNat ∧
      Sparse.get 0 s.spent (budgetKey 0 0 0) = 65536 := by
  refine ⟨fun run hr => ?_, fun r hr => ⟨{ (withPart0 (st g0) fun p => { p with force := { p.force with vfrate := putNth p.force.vfrate 0 r } }) with
      spent := [(budgetKey 0 0 0, 65536)] }, ?_⟩⟩
  · have h : ∀ run ∈ [[(8, 0)], [(7, 0)]], (chunkState [] run).partOf 0 = some ((chunkState [] run).part 0) ∧ ackB run = true ∧
        (chunkState [] run).node? 0 0 0 = some (node0 .running 0 0 (some (spineOf [] run))) := by decide
    obtain ⟨h1, h2, h3⟩ := h run hr
    unfold ackB at h2
    cases ho : ((chunkState [] run).spineCmds ((chunkState [] run).part 0)).find? fun c => c.vf == 0 && c.gslot == 0 && c.node == 0 with
    | none => rw [ho] at h2; cases h2
    | some c =>
      rw [ho] at h2
      simp only [Option.any_some, Bool.and_eq_true, beq_iff_eq] at h2
      exact ⟨_, _, c, _, h1, ho, by rw [h2.1.1.2, h2.1.2, h2.2]; exact h3, h2.1.1.1⟩
  · rcases hr with rfl | rfl <;> exact ⟨by decide, by decide, by decide⟩
-- ## partitions

def withCluster (s : State) (c : Cluster) : State := { s with clusters := [c] }
def cHalt : Cluster := { c0 with halting := true }
def cStill : Cluster := { c0 with residence := .halted, cause := 1 }
def anchoring (s : State) : State := withPart0 s fun p => { p with log := { p.log with anchorWait := some 3 } }
theorem test_preemption : (match execPreemption 1 (withCluster (st g0) cHalt) with
    | .next t => t.clusters.map (fun c => (c.residence, c.halting)) == [(.halted, false)]
    | .fault _ | .refused _ => false) = true := by decide
theorem reap_of {s : State} (h : s.groups.all (fun g => !s.isDone g) = true) : s.reap = s := by
  have he : s.groups.filter s.isDone = [] := by
    rw [List.filter_eq_nil_iff]
    intro g hg
    simpa using List.all_eq_true.1 h g hg
  unfold State.reap
  rw [he]
  rfl
theorem witness_Preemption :
    (∀ b : Bool, ∃ (s : State) (c : Cluster), s.cluster? 1 = some c ∧ s.reap = s ∧ s.clusterOver c = false ∧ c.residence = .resident ∧ c.halting = true ∧
      s.log c.vf = 0 ∧ s.atRest c = b) ∧
    (∀ b : Bool, ∃ (s : State) (c : Cluster) (p : Partition), s.cluster? 1 = some c ∧ s.partOf c.vf = some p ∧ s.spillable c = b ∧ p.log.anchorWait.isSome = true ∧
      (∃ t ∈ s.clusterTeams 1, ∃ u ∈ t.units, t.out.contains u = false) ∧ p.mayResume c = false) ∧
    ∃ (s : State) (c : Cluster) (p : Partition), s.cluster? 1 = some c ∧ s.partOf c.vf = some p ∧ p.mayResume c = true ∧ c.residence = .halted ∧ c.cause ≠ 6 ∧
      s.clusterTeams 1 ≠ [] ∧ s.partly c = false := by
  refine ⟨fun b => ?_, fun b => ?_, withCluster (st g0) cStill, cStill, (withCluster (st g0) cStill).part 0, by decide, by decide, by decide, by decide, by decide, by decide, by decide⟩
  · cases b
    · exact ⟨withCluster (withOp memOp1) cHalt, cHalt, by decide, reap_of (by decide), by decide, by decide, by decide, by decide, by decide⟩
    · exact ⟨withCluster (st g0) cHalt, cHalt, by decide, reap_of (by decide), by decide, by decide, by decide, by decide, by decide⟩
  · cases b
    · exact ⟨anchoring (withCluster (withOp memOp1) cStill), cStill, (anchoring (withCluster (withOp memOp1) cStill)).part 0, by decide, by decide, by decide, by decide,
        ⟨t0, by decide, .group 0, by decide, by decide⟩, by decide⟩
    · exact ⟨anchoring (withCluster (st g0) cStill), cStill, (anchoring (withCluster (st g0) cStill)).part 0, by decide, by decide, by decide, by decide, ⟨t0, by decide, .group 0, by decide, by decide⟩, by decide⟩

theorem part_of {s : State} {n : Nat} (h : (s.parts.any fun p => p.num == n) = true) : s.HasPart n := by
  obtain ⟨p, hp, hn⟩ := List.any_eq_true.1 h
  exact ⟨p, hp, by simpa using hn⟩
/-- Partition 0 as a command finds it: what it answered last, the slots under eviction, its staged registers, the part's bring-up step. -/
def cmdState (cmdst : Nat) (evf : BitVec 16) (staged : Staged → Staged) (step : Nat) : State :=
  { withPart0 (withSoft (st g0)) (fun p => { p with cmdst, evf, stagedRegs := staged p.force }) with device := { s0.device with step }, clusters := [], groups := [], teams := [] }
def badNotice (r : Staged) : Staged := { r with pnotice := 99 }
def badVf (r : Staged) : Staged := { r with vfid := putNth r.vfid 1 0x80000000000000C0 }
theorem test_apply : (match execApplyCmd 0 (cmdState 0 0 (fun r => { r with pnotice := 100 }) 7) with
    | .next t => (t.part 0).force.pnotice == 100 && (t.part 0).cmdst == 0
    | .fault _ | .refused _ => false) = true := by decide
theorem test_apply_refused : (match execApplyCmd 0 (cmdState 0 0 badNotice 7), execApplyCmd 0 (cmdState 0 0 badVf 7) with
    | .next t, .next u => (t.part 0).cmdst == 5 && (u.part 0).cmdst == 6
    | _, _ => false) = true := by decide
theorem witness_PartitionCommands :
    (∃ (s : State) (w : Word), s.HasPart 0 ∧ w.toNat = 256) ∧ (∃ w : Word, w.toNat / 2 ^ 6 % 4 = 3) ∧ (∃ w : Word, w.toNat / 4 % 4 = 3) ∧
    (∃ (s : State) (w : Word), s.HasPart 0 ∧ w.toNat < 256 ∧ w.toNat / 2 ^ 6 % 4 ≠ 3 ∧ w.toNat / 4 % 4 ≠ 3 ∧
      ((w.setWidth 32 ^^^ (s.part 0).mode) &&& ~~~0xC0 : BitVec 32) ≠ 0 ∧ s.anyResident (s.part 0) = true ∧ w.getLsbD 0 = false) ∧
    (∃ (s : State) (w : Word), s.HasPart 0 ∧ w.toNat = 0xBB ∧ w.toNat / 2 ^ 6 % 4 ≠ 3 ∧ w.toNat / 4 % 4 = 2 ∧ s.anyResident (s.part 0) = false) ∧
    (∃ s : State, s.HasPart 0 ∧ (s.part 0).cmdst = 1 ∧ s.device.step = 7) ∧
    (∃ (s : State) (w : Word), s.HasPart 0 ∧ (s.part 0).cmdst ≠ 1 ∧ w.toNat / 2 ^ 32 = 1) ∧
    (∃ (s : State) (w : Word), s.HasPart 0 ∧ (s.part 0).cmdst ≠ 1 ∧ w.toNat = 0x80000000 ∧ (s.part 0).evf &&& w.extractLsb' 16 16 ≠ 0) ∧
    (∃ (s : State) (w : Word), s.HasPart 0 ∧ (s.part 0).cmdst ≠ 1 ∧ w.toNat = 0x101FF ∧ (s.part 0).evf &&& w.extractLsb' 16 16 = 0 ∧ s.clusters ≠ []) ∧
    (∃ s : State, s.HasPart 0 ∧ s.device.step = 6) ∧ (∃ s : State, s.HasPart 0 ∧ s.device.step = 7 ∧ (s.part 0).cmdst ≠ 1 ∧ (s.part 0).evf ≠ 0) ∧
    (∀ f ∈ [(true, false), (false, true), (false, false)], ∃ s : State, s.HasPart 0 ∧ s.device.step = 7 ∧ (s.part 0).cmdst ≠ 1 ∧ (s.part 0).evf = 0 ∧
      s.applyBad 0 (s.part 0).stagedRegs = f.1 ∧ s.vfInUse 0 (s.part 0).stagedRegs = f.2 ∧ s.clusters = []) := by
  refine ⟨⟨st g0, 256, part_of (by decide), by decide⟩, ⟨0xC0, by decide⟩, ⟨0x0C, by decide⟩, ⟨st g0, 16, part_of (by decide), by decide, by decide, by decide, by decide,
      by decide, by decide⟩, ⟨cmdState 0 0 id 7, 0xBB, part_of (by decide), by decide, by decide, by decide, by decide⟩, ⟨cmdState 1 0 id 7, part_of (by decide), by decide, by decide⟩,
    ⟨st g0, 0x100000000, part_of (by decide), by decide, by decide⟩, ⟨cmdState 0 0x8000 id 7, 0x80000000, part_of (by decide), by decide, by decide, by decide⟩,
    ⟨st g0, 0x101FF, part_of (by decide), by decide, by decide, by decide, by decide⟩, ⟨cmdState 0 0 id 6, part_of (by decide), by decide⟩,
    ⟨cmdState 0 1 id 7, part_of (by decide), by decide, by decide, by decide⟩, fun f hf => ?_⟩
  simp only [List.mem_cons, List.not_mem_nil, or_false] at hf
  rcases hf with rfl | rfl | rfl
  · exact ⟨cmdState 0 0 badNotice 7, part_of (by decide), by decide, by decide, by decide, by decide, by decide, by decide⟩
  · exact ⟨cmdState 0 0 badVf 7, part_of (by decide), by decide, by decide, by decide, by decide, by decide, by decide⟩
  · exact ⟨cmdState 0 0 id 7, part_of (by decide), by decide, by decide, by decide, by decide, by decide, by decide⟩

/-- Virtual function slot 0 is to be vacated by 25 µs, its one queue to complete or checkpointed. -/
def queue1 (d : Nat) (v : Option Nat) : EvictQueue := { vfslot := 0, vf := 0, cls := 0, decision := d, switched := false, disc := false, vacantAt := v, dirty0 := 0, finish0 := none }
def evict1 (d : Nat) (v : Option Nat) : Evict := { vfm := 1, t0 := 1000, limit := 25000, enough := true, dirtyCap := [], queues := [queue1 d v] }
def evictState (d : Nat) (v : Option Nat) (ns : Nat) : State :=
  { withPart0 (withSoft (st g0)) (fun p => { p with evict := some (evict1 d v), evf := 1, pdlrep := 0x200FFF }) with ns }
theorem test_report : (match execEvictionReport 0 { evictState 2 (some 27000) 28000 with groups := [], teams := [], clusters := [] } with
    | .next t => Memory.readN t.mem 0x200000 5 == [4, 0, 0, 0, 26] && Memory.readN t.mem 0x200400 1 == [27] && (t.part 0).held == 1
    | .fault _ | .refused _ => false) = true := by decide
theorem witness_Evictions :
    (∃ (s : State) (w : Word), s.HasPart 0 ∧ w.extractLsb' 48 16 = 0) ∧
    (∃ (s : State) (w : Word), s.HasPart 0 ∧ w.extractLsb' 48 16 &&& ~~~(s.part 0).force.validSlots ≠ 0) ∧
    (∃ w : Word, w.extractLsb' 48 16 = 1 ∧ w.toNat / 2 ^ 32 % 2 ^ 16 = 1) ∧ (∃ w : Word, w.extractLsb' 48 16 = 1 ∧ w.toNat % 2 ^ 32 = 0) ∧
    (∀ f ∈ [true, false], ∃ (s : State) (w : Word), s.HasPart 0 ∧ (s.part 0).force.validSlots = 1 ∧ w.extractLsb' 48 16 = 1 ∧ w.toNat / 2 ^ 32 % 2 ^ 16 = 0 ∧
      w.toNat % 2 ^ 32 = 25 ∧ (decide ((s.part 0).evf ≠ 0) = f) ∧ s.clusters ≠ []) ∧
    (∃ s : State, s.HasPart 0 ∧ (s.part 0).evict = none) ∧
    (∀ f ∈ [true, false], ∃ (s : State) (e : Evict), s.HasPart 0 ∧ (s.part 0).evict = some e ∧
      (decide (20000 * 1280 + s.evictBytes (s.part 0) e.vfm.toNat + s.ns * 1280 < (e.t0 + e.limit) * 1280) = f)) ∧
    ∃ (s : State) (e : Evict), s.HasPart 0 ∧ (s.part 0).evict = some e ∧ (∀ q ∈ e.queues, q.vacantAt.isSome = true) ∧ s.log (s.part 0).spineVf = 0 ∧ s.rows = [] ∧
      s.linkUp = true := by
  refine ⟨⟨st g0, 1, part_of (by decide), by decide⟩, ⟨st g0, 0x8001000000000001, part_of (by decide), by decide⟩, ⟨0x0001000100000001, by decide, by decide⟩,
    ⟨0x0001000000000000, by decide, by decide⟩, fun f hf => ?_, ⟨st g0, part_of (by decide), by decide⟩, fun f hf => ?_,
    ⟨evictState 2 (some 27000) 28000, evict1 2 (some 27000), part_of (by decide), by decide, by decide, by decide, by decide, by decide⟩⟩ <;>
    simp only [List.mem_cons, List.not_mem_nil, or_false] at hf <;> rcases hf with rfl | rfl
  · exact ⟨evictState 1 none 0, 0x0001000000000019, part_of (by decide), by decide, by decide, by decide, by decide, by decide, by decide⟩
  · exact ⟨st g0, 0x0001000000000019, part_of (by decide), by decide, by decide, by decide, by decide, by decide, by decide⟩
  · exact ⟨evictState 1 none 1000, evict1 1 none, part_of (by decide), by decide, by decide⟩
  · exact ⟨evictState 1 none 6000, evict1 1 none, part_of (by decide), by decide, by decide⟩
-- ## signatures and replay

def withLog (s : State) (f : LogState → LogState) : State := withPart0 s fun p => { p with log := f p.log }
def marked : Team := { t0 with sig := { t0.sig with mark := true } }
theorem test_boundary : (match execSignatureBoundary 2 (withTeam (stMode 4 g0) marked) with
    | .next t => (t.team? 2).map (fun u => (u.sig.sign, u.sig.mark)) == some (1, false)
    | .fault _ | .refused _ => false) = true := by decide
/-- Partition 0 records (4) or replays (8), and has a record of two words that waits. -/
def post1 : LogPost := { words := [0x0100000200000005, 9], core := 0 }
def stallState : State := withLog (stMode 4 g0) fun l => { l with pending := [post1], qrhead := 0xFFFFFFF0, qrold := 0x80000000 }
def anchorState (num : Nat) (evf : BitVec 16) : State := withPart0 (stMode 4 g0) fun p => { p with evf, log := { p.log with rrstat := BitVec.ofNat 64 (num * 2 ^ 32) } }
theorem witness_SignaturesAndReplay_anchors :
    (∃ (s : State) (u : Team) (c : Cluster), s.team? u.key = some u ∧ s.cluster? u.cluster = some c ∧ s.log c.vf = 1 ∧ s.attached c.vf = false ∧ u.sig.mark = true ∧
      s.settledSig u.key = true) ∧
    (∃ (s : State) (x : LogPost), s.HasPart 0 ∧ (s.part 0).log.pending = [x] ∧ s.rows = [] ∧ 0 < (s.part 0).ringSize ∧
      (s.part 0).log.qrhead.toNat % (s.part 0).ringSize + x.words.length * 8 = (s.part 0).ringSize ∧ (s.part 0).fits x.words.length (usesReserve x.words) = true) ∧
    (∃ s : State, s.HasPart 0 ∧ (s.part 0).cmdst ≠ 1 ∧ ((s.part 0).mode.extractLsb' 2 2).toNat ≠ 1) ∧
    (∀ f ∈ [true, false], ∃ (s : State) (k : Nat), s.HasPart 0 ∧ (s.part 0).cmdst ≠ 1 ∧ ((s.part 0).mode.extractLsb' 2 2).toNat = 1 ∧
      (s.part 0).log.rrstat.toNat / 2 ^ 32 < k ∧ k = 2 ^ 32 - 1 ∧ (decide ((s.part 0).evf ≠ 0) = f) ∧
      (∀ a ∈ (s.part 0).log.anchors, a.num ≠ k) ∧ ∃ c ∈ s.clusters, ((s.part 0).vfsOf 65535).contains c.vf = true ∧ c.residence = .resident) ∧
    (∃ (s : State) (k : Nat), s.HasPart 0 ∧ (s.part 0).cmdst ≠ 1 ∧ ((s.part 0).mode.extractLsb' 2 2).toNat = 1 ∧ k = (s.part 0).log.rrstat.toNat / 2 ^ 32) ∧
    ∃ (s : State) (k : Nat) (off : Word), s.HasPart 0 ∧ (s.part 0).cmdst ≠ 1 ∧ (s.part 0).log.anchorAt = some (k, off) := by
  refine ⟨⟨withTeam (stMode 4 g0) marked, marked, c0, by decide, by decide, by decide, by decide, by decide, by decide⟩,
    ⟨stallState, post1, part_of (by decide), by decide, by decide, by decide, by decide, by decide⟩, ⟨st g0, part_of (by decide), by decide, by decide⟩, fun f hf => ?_,
    ⟨anchorState 7 0, 7, part_of (by decide), by decide, by decide, by decide⟩,
    ⟨withLog (stMode 4 g0) fun l => { l with anchorAt := some (3, 48) }, 3, 48, part_of (by decide), by decide, by decide⟩⟩
  simp only [List.mem_cons, List.not_mem_nil, or_false] at hf
  rcases hf with rfl | rfl
  · exact ⟨anchorState 4294967294 1, 4294967295, part_of (by decide), by decide, by decide, by decide, by decide, by decide, by decide, c0, by decide, by decide, by decide⟩
  · exact ⟨anchorState 4294967294 0, 4294967295, part_of (by decide), by decide, by decide, by decide, by decide, by decide, by decide, c0, by decide, by decide, by decide⟩

def rpState (code : Word) (f : LogState → LogState) : State := withLog (stMode 8 g0) fun l => f { l with rpstat := code }
def anchor3 : Anchor := { num := 3, clusters := [{ c0 with residence := .saved, cause := 3 }], teams := [t0], groups := [g0], bins := [], vfs := [] }
def brkState : State := rpState 3 fun l => { l with rpbrk := [0x8000000000000000, BitVec.ofNat 64 c0.gridid, 0] }
def gBar : Group := { g0 with wait := .bar 17 }
/-- A group of a replay with one operation, or whose team has one event of its log still to meet. -/
def heldState (o : List MemOp) (e : List LogEvent) : State :=
  { withTeam (stMode 8 { g0 with ops := o }) { t0 with sig := { t0.sig with events := e } } with ns := 10000000 }
def evWar : LogEvent := { code := 2, grp := 0, time := 0, a := 0x500, more := [0x2000 * 0x80000] }
def evRfm : LogEvent := { code := 5, grp := 0, time := 0, a := 1, more := [0x5000] }
def evArr : LogEvent := { code := 7, grp := 0, time := 0, a := 1, more := [] }
def popOp : MemOp := { opOf (.frecv 1 5) [] with space := .device }
/-- A replay that stops at its breakpoint, its one cluster halted or not. -/
def breaking (b : Bool) : State := { rpState 3 (fun l => { l with brkTaken := true, breaking := true }) with clusters := [{ c0 with residence := if b then .halted else .resident }] }
theorem witness_SignaturesAndReplay_replay :
    (∃ s : State, s.HasPart 0 ∧ (s.part 0).cmdst ≠ 1 ∧ ((s.part 0).mode.extractLsb' 2 2).toNat ≠ 2) ∧
    (∃ s : State, s.HasPart 0 ∧ (s.part 0).cmdst ≠ 1 ∧ ((s.part 0).mode.extractLsb' 2 2).toNat = 2 ∧ s.clusters ≠ []) ∧
    (∃ (s : State) (k : Nat) (a : Anchor), s.HasPart 0 ∧ (s.part 0).log.loading = some k ∧ ((s.part 0).log.anchors.find? fun a => a.num == k) = some a ∧
      (s.part 0).log.rpstat.toNat % 256 = 2 ∧ a.groups ≠ []) ∧
    (∃ (s : State) (u : Team), s.HasPart 0 ∧ (s.teams.find? fun u => s.atBreak (s.part 0) u) = some u) ∧
    (∀ b : Bool, ∃ s : State, s.HasPart 0 ∧ (s.part 0).log.rpstat.toNat % 256 = 3 ∧ (s.part 0).log.brkTaken = true ∧ (s.part 0).log.breaking = true ∧
      (s.clusters.all fun c => c.residence != .resident) = b ∧ s.clusters.length = 1 ∧ s.clusters.all (fun c => ((s.part 0).vfsOf 65535).contains c.vf) = true) ∧
    (∃ s : State, s.HasPart 0 ∧ (s.part 0).log.rpstat.toNat % 256 = 2) ∧
    (∃ s : State, s.HasPart 0 ∧ (s.part 0).log.rpstat.toNat % 256 = 3 ∧ (s.part 0).log.spine = [] ∧ (s.part 0).log.replayStop = 0 ∧ s.groups = [gBar] ∧ gBar.wait = .bar 17) ∧
    (∀ k : OpKind, k = .load ∨ k = .store → ∃ (s : State) (g : Group) (o : MemOp), s.HasPart 0 ∧ s.group? 3 = some g ∧ s.log g.id.vf = 2 ∧
      (g.ops.find? fun x => x.id == 5) = some o ∧ o.kind = k) ∧
    (∃ (s : State) (g : Group), s.group? 3 = some g ∧ s.log g.id.vf = 2 ∧ s.partOf g.id.vf = some (s.part 0) ∧ (s.part 0).log.progressAt + 10000000 = s.ns ∧ s.holds g = true) ∧
    (∃ (s : State) (g : Group) (u : Team), s.group? 3 = some g ∧ s.log g.id.vf = 2 ∧ s.partOf g.id.vf = some (s.part 0) ∧ (s.part 0).log.progressAt + 10000000 = s.ns ∧
      s.team? g.id.team = some u ∧ (∃ e ∈ u.sig.events, e.code = 5) ∧ s.bins = []) ∧
    ∃ (s : State) (g : Group), s.group? 3 = some g ∧ s.log g.id.vf = 2 ∧ s.partOf g.id.vf = some (s.part 0) ∧ (s.part 0).log.progressAt = s.ns ∧
      ∃ o ∈ g.ops, (∃ c mb, o.kind = .frecv c mb) ∧ (s.logged { g with ltime := o.ltime } 7).isSome = true ∧ o.since + 10000000 = s.ns := by
  refine ⟨⟨st g0, part_of (by decide), by decide, by decide⟩, ⟨stMode 8 g0, part_of (by decide), by decide, by decide, by decide⟩,
    ⟨rpState 2 fun l => { l with loading := some 3, anchors := [anchor3] }, 3, anchor3, part_of (by decide), by decide, by decide, by decide, by decide⟩,
    ⟨brkState, t0, part_of (by decide), by decide⟩, fun b => ⟨breaking b, part_of (by cases b <;> decide), by cases b <;> decide, by cases b <;> decide, by cases b <;> decide, by cases b <;> decide,
      by cases b <;> decide, by cases b <;> decide⟩,
    ⟨rpState 2 id, part_of (by decide), by decide⟩,
    ⟨{ rpState 3 id with groups := [gBar] }, part_of (by decide), by decide, by decide, by decide, rfl, by decide⟩, fun k hk => ?_,
    ⟨heldState [opOf .store ((two [1, 2, 3, 4] []).take 1)] [evWar], { g0 with ops := [opOf .store ((two [1, 2, 3, 4] []).take 1)] }, by decide, by decide, by decide, by decide, by decide⟩,
    ⟨heldState [] [evRfm], g0, { t0 with sig := { t0.sig with events := [evRfm] } }, by decide, by decide, by decide, by decide, by decide, ⟨evRfm, by decide, rfl⟩, by decide⟩,
    ⟨withLog (heldState [popOp] [evArr]) fun l => { l with progressAt := 10000000 }, { g0 with ops := [popOp] }, by decide, by decide, by decide, by decide, popOp, by decide,
      ⟨1, 5, rfl⟩, by decide, by decide⟩⟩
  rcases hk with rfl | rfl
  · exact ⟨stMode 8 (gO (oneWord .load)), gO (oneWord .load), oneWord .load, part_of (by decide), by decide, by decide, by decide, by decide⟩
  · exact ⟨stMode 8 (gO (oneWord .store)), gO (oneWord .store), oneWord .store, part_of (by decide), by decide, by decide, by decide, by decide⟩
/-- Anchor 3 of partition 0 lies in the ring as R400 and R396 lay it out: header, part and stepping with MODE, PTIME, digest, QRHEAD, MAC. -/
def anchorHd : Word := 0x0201000600000003
def anchorMode : Word := Config.partStepping ++ 8#40
theorem fields_of (x : BitVec 24) : (x ++ 8#40).extractLsb' 40 24 = x ∧ (x ++ 8#40).extractLsb' 0 32 = 8#32 := by
  constructor
  · refine BitVec.eq_of_getLsbD_eq fun i hi => ?_
    rw [BitVec.getLsbD_extractLsb', BitVec.getLsbD_append, if_neg (by omega), decide_eq_true hi, Bool.true_and, Nat.add_sub_cancel_left]
  · refine BitVec.eq_of_getLsbD_eq fun i hi => ?_
    rw [BitVec.getLsbD_extractLsb', BitVec.getLsbD_append, if_pos (by omega), decide_eq_true hi, Bool.true_and, Nat.zero_add]
    have h : ∀ i : Fin 32, (8#40).getLsbD i = (8#32).getLsbD i := by decide
    exact h ⟨i, hi⟩
theorem stepping_of : anchorMode.extractLsb' 40 24 = Config.partStepping ∧ anchorMode.extractLsb' 0 32 = 8 := fields_of Config.partStepping
theorem replay_none {s : State} {p : Partition} (h1 : (p.mode.extractLsb' 2 2).toNat = 2 ∧ p.mode = 8) (h2 : p.log.rpstat.toNat % 256 = 1) (h3 : s.anyResident p = false)
    (h4 : p.num = 0 ∧ p.log.qrhead.toNat = 48 ∧ p.log.qrold.toNat = 0 ∧ p.ringBase = 0 ∧ p.ringSize = 2 ^ 32) (m0 : Memory.read64 s.mem 0 = anchorHd)
    (m1 : Memory.read64 s.mem 8 = anchorMode) (m2 : Memory.read64 s.mem 16 = 0) (m3 : Memory.read64 s.mem 24 = Config.graphDigest (s.graphWords p))
    (m4 : Memory.read64 s.mem 32 = 0) (m5 : Memory.read64 s.mem 40 = Config.mac 0 [anchorHd, anchorMode, 0, Config.graphDigest (s.graphWords p), 0]) :
    s.replayRefused p 3 = none := by
  have hr : s.logRecords p = [(0, [anchorHd, anchorMode, 0, Config.graphDigest (s.graphWords p), 0,
      Config.mac 0 [anchorHd, anchorMode, 0, Config.graphDigest (s.graphWords p), 0]])] := by
    have w1 : wfield anchorHd 32 16 = 6 := by decide
    have w2 : wfield anchorHd 56 8 = 2 := by decide
    simp only [State.logRecords, h4.2.1, h4.2.2.1, State.ringRecords, h4.2.2.2.1, h4.2.2.2.2]
    simp [m0, m1, m2, m3, m4, m5, w1, w2, List.range, List.range.loop]
  have hf : (([(0, [anchorHd, anchorMode, 0, Config.graphDigest (s.graphWords p), 0, Config.mac 0 [anchorHd, anchorMode, 0, Config.graphDigest (s.graphWords p), 0]])] :
      List (Nat × List Word)).find? fun r => wfield (nth 0 r.2 0) 56 8 == 2 && wfield (nth 0 r.2 0) 0 32 == 3) = some (0, [anchorHd, anchorMode, 0,
      Config.graphDigest (s.graphWords p), 0, Config.mac 0 [anchorHd, anchorMode, 0, Config.graphDigest (s.graphWords p), 0]]) := by
    rw [List.find?_cons_of_pos]
    exact (by decide : (wfield anchorHd 56 8 == 2 && wfield anchorHd 0 32 == 3) = true)
  unfold State.replayRefused
  rw [if_neg (by rw [h1.1, h2, h3]; decide), hr, hf]
  simp [recordOk, nth, h4.1, h1.2, stepping_of]
def armed0 : State := { withLog (stMode 8 g0) (fun l => { l with rpstat := 1, qrhead := 48 }) with clusters := [] }
def anchorMem (m : List Host.Cell) (digest mac : Word) : List Host.Cell :=
  Memory.write64 (Memory.write64 (Memory.write64 (Memory.write64 (Memory.write64 (Memory.write64 m 0 anchorHd) 8 anchorMode) 16 0) 24 digest) 32 0) 40 mac
theorem anchor_reads (m : List Host.Cell) (d c : Word) : Memory.read64 (anchorMem m d c) 0 = anchorHd ∧ Memory.read64 (anchorMem m d c) 8 = anchorMode ∧
    Memory.read64 (anchorMem m d c) 16 = 0 ∧ Memory.read64 (anchorMem m d c) 24 = d ∧ Memory.read64 (anchorMem m d c) 32 = 0 ∧ Memory.read64 (anchorMem m d c) 40 = c := by
  unfold anchorMem
  refine ⟨?_, ?_, ?_, ?_, ?_, ?_⟩ <;> repeat (first | rw [Memory.read64_write64] | rw [Memory.read64_write64_off _ _ _ _ (by omega)])
theorem with_mem (s : State) (m : List Host.Cell) (n : Nat) (p : Partition) : ({ s with mem := m } : State).part n = s.part n ∧
    ({ s with mem := m } : State).graphWords p = s.graphWords p ∧ ({ s with mem := m } : State).anyResident p = s.anyResident p ∧
    ({ s with mem := m } : State).parts = s.parts := ⟨rfl, rfl, rfl, rfl⟩
theorem armed_ok : (((armed0.part 0).mode.extractLsb' 2 2).toNat = 2 ∧ (armed0.part 0).mode = 8) ∧ (armed0.part 0).log.rpstat.toNat % 256 = 1 ∧
    armed0.anyResident (armed0.part 0) = false ∧ ((armed0.part 0).num = 0 ∧ (armed0.part 0).log.qrhead.toNat = 48 ∧ (armed0.part 0).log.qrold.toNat = 0 ∧
    (armed0.part 0).ringBase = 0 ∧ (armed0.part 0).ringSize = 2 ^ 32) ∧ (armed0.part 0).cmdst ≠ 1 ∧ (armed0.parts.any fun p => p.num == 0) = true := by decide
theorem witness_SignaturesAndReplay_accepts : ∃ s : State, s.HasPart 0 ∧ (s.part 0).cmdst ≠ 1 ∧ s.replayRefused (s.part 0) 3 = none := by
  obtain ⟨h1, h2, h3, h4, h5, h6⟩ := armed_ok
  generalize armed0 = s at h1 h2 h3 h4 h5 h6
  let d := Config.graphDigest (s.graphWords (s.part 0))
  let m := anchorMem s.mem d (Config.mac 0 [anchorHd, anchorMode, 0, d, 0])
  obtain ⟨e1, -, -, e4⟩ := with_mem s m 0 (s.part 0)
  obtain ⟨r0, r1, r2, r3, r4, r5⟩ := anchor_reads s.mem d (Config.mac 0 [anchorHd, anchorMode, 0, d, 0])
  exact ⟨{ s with mem := m }, part_of h6, h5, replay_none h1 h2 h3 h4 r0 r1 r2 r3 r4 r5⟩
-- ## the device

def devAt (f : Device → Device) : State := { withSoft (st g0) with device := f s0.device }
def linkedAt (f : Device → Device) : State := { devAt f with wiuno := { s0.wiuno with up := true, training := false } }
/-- The part at a bring-up step with no error. -/
def upAt (step : Nat) : State := { devAt (fun d => { d with step, err := 0 }) with mem := [(0x1000, 7), (0x7FFFFFFFFF, 8), (0x8000000000, 9)] }
def busyFabric : State := { st g0 with fabric := { s0.fabric with held := [{ msg := msg1, cls := 0, vf := 7 }], seqIn := [(8, 5)], seqOut := [(9, 1)] } }
theorem test_slower : (match execThermalSensor 109 (devAt fun d => { d with mhz := 40 }) with
    | .next t => t.device.mhz == 25 && !t.device.off
    | .fault _ | .refused _ => false) = true := by decide
theorem test_fabrst_refused : (match execFabrst busyFabric with
    | .next t => t.device.err == 0x40 && t.fabric.seqIn == [(8, 5)]
    | .fault _ | .refused _ => false) = true := by decide
theorem test_bring_up_memory : (match execBringUpStepDone 0 (upAt 4) with
    | .next t => t.mem.map (·.1) == [0x8000000000] && t.device.step == 5
    | .fault _ | .refused _ => false) = true := by decide
def sampling : State := { withPart0 (st g0) (fun p => { p with force := { p.force with smpctl := 3 } }) with clock := 8 }
theorem witness_DeviceEvents_device :
    (∀ b : Bool, ∃ s : State, (decide (s.device.step = 0)) = b) ∧
    (∀ k ∈ [1, 2, 4, 5, 6], ∀ e ∈ [0, 255, 256], ∃ s : State, s.device.err = 0 ∧ s.device.step = k ∧ (e % 256 = 0 ∨ e % 256 ≠ 0)) ∧
    (∀ k ∈ [2, 3, 4], ∃ s : State, s.device.err = 0 ∧ s.device.step = k) ∧
    (∀ b : Bool, ∃ s : State, s.fabricQuiet = b) ∧ (∃ s : State, s.device.err = 0x40 ∧ s.fabricQuiet = true) ∧
    (∃ s : State, s.HasPart 11) ∧ (∃ s : State, s.powerLimit = 1800000) ∧
    (∃ (s : State) (p : Partition), (s.parts.find? fun p => coreBit p.force.pcore 0) = some p ∧ p.force.smpctl.toNat % 32 ≠ 0 ∧
      s.clock / 2 ^ (p.force.smpctl.toNat % 32) = (Sparse.get Sampler.idle s.samplers 0).time / 2 ^ (p.force.smpctl.toNat % 32)) ∧
    (∃ (s : State) (p : Partition) (g : Group) (c : Cluster), (s.parts.find? fun p => coreBit p.force.pcore 0) = some p ∧ p.force.smpctl.toNat % 32 ≠ 0 ∧
      s.clock / 2 ^ (p.force.smpctl.toNat % 32) ≠ (Sparse.get Sampler.idle s.samplers 0).time / 2 ^ (p.force.smpctl.toNat % 32) ∧ s.groups = [g] ∧ g.id.core = 0 ∧
      g.id.quad = 0 ∧ g.id.slot < 16 ∧ (p.slotOf g.id.vf).isSome = true ∧ s.cluster? g.id.cluster = some c ∧ c.residence ≠ .saved ∧ s.isOut g = false ∧
      Untraced s g.id.vf) ∧
    (∀ b : Bool, ∃ s : State, s.linkUp = b ∧ s.HasVf 191) := by
  refine ⟨fun b => ?_, fun k hk e he => ?_, fun k hk => ⟨upAt k, rfl, rfl⟩, fun b => ?_, ⟨{ s0 with device := { s0.device with err := 0x40 } }, by decide, by decide⟩,
    ⟨s0, part_of (by decide)⟩, ⟨s0, by decide⟩, ⟨{ sampling with clock := 7 }, sampling.part 0, by decide, by decide, by decide⟩,
    ⟨sampling, sampling.part 0, g0, c0, by decide, by decide, by decide, by decide, by decide, by decide, by decide, by decide, by decide, by decide, by decide, ?_⟩, fun b => ?_⟩
  · cases b
    · exact ⟨upAt 1, by decide⟩
    · exact ⟨upAt 0, by decide⟩
  · exact ⟨upAt k, rfl, rfl, by omega⟩
  · cases b
    · exact ⟨busyFabric, by decide⟩
    · exact ⟨s0, by decide⟩
  · intro p h
    have h' : sampling.partOf g0.id.vf = some (sampling.part 0) := by decide
    rw [h', Option.some.injEq] at h
    subst h
    decide
  · cases b
    · exact ⟨{ s0 with wiuno := { wUp with up := false } }, by decide, by unfold State.HasVf; decide⟩
    · exact ⟨linkedAt id, by decide, by unfold State.HasVf; decide⟩
def asking (ph level : Nat) : State := linkedAt fun d => { d with level, spdm := { d.spdm with phase := ph } }
theorem test_attestation : (match execNegotiateAlgorithms 0x80 2 (asking 2 0), execChallenge 1 9 (asking 3 0), execGetVersion (asking 0 3) with
    | .next t, .next u, .next v => t.device.spdm.phase == 3 && u.device.spdm.response == 0x7F && v.device.spdm.response == 0x7F
    | _, _, _ => false) = true := by decide
theorem witness_Attestation : ∀ ph ∈ [0, 1, 2, 3], ∀ level ∈ [0, 2, 3], ∃ s : State, s.linkUp = true ∧ s.device.spdm.phase = ph ∧ s.device.level = level :=
  fun ph _ level _ => ⟨asking ph level, by show (true && !false) = true; rfl, rfl, rfl⟩
-- ## forms that complete

/-- A page that may not be read, reported by the VF's ring. -/
def tPage : TrapReq := { mkTrap 7 3 0x100000 with pc := 0x40000 }
def gSys : Group := { g0 with trap := { g0.trap with lvl := 2 } }
/-- The words and the deliveries of O60, and a log at its end; its other clauses have the hypotheses of SignaturesAndReplay,
DebugAgent and DeviceEvents. -/
theorem witness_FormsComplete :
    (∃ s g c, Issues s g (.fence (oM 0 0 0 0 0)) ∧ Issues s g (.brk (oI 0 3)) ∧ Issues s g (.yield (oA 0 0 0)) ∧ Issues s g (.ckpt (oA 0 0 0)) ∧
      Issues s g (.sigMark (oA 0 0 0)) ∧ Issues s g (.halt (oA 0 0 0)) ∧ g.ops = [] ∧ g.failed = [] ∧ s.log g.id.vf = 0 ∧ s.attached g.id.vf = false ∧
      g.trap.lvl = 2 ∧ s.cluster? g.id.cluster = some c) ∧
    (∃ (s : State) (g : Group) (t : TrapReq) (c : Cluster) (m : Team), s.group? 3 = some g ∧ s.log g.id.vf = 0 ∧ s.standing g = true ∧ g.ops = [] ∧
      g.trap.entry = some t ∧ ToFatal s g t ∧ s.attached g.id.vf = false ∧ s.cluster? g.id.cluster = some c ∧ s.team? g.id.team = some m ∧ m.cluster = c.key) ∧
    (∃ (s : State) (g : Group) (t : TrapReq), s.group? 3 = some g ∧ s.log g.id.vf = 0 ∧ s.standing g = true ∧ g.ops = [] ∧ g.trap.entry = some t ∧ t.grp = 7 ∧
      t.code = 3 ∧ (s.ring (faultRing s g.id.vf t)).enabled = true) ∧
    (∃ (s : State) (g : Group) (t : TrapReq), s.group? 3 = some g ∧ s.log g.id.vf = 0 ∧ s.standing g = true ∧ g.ops = [] ∧ g.trap.entry = some t ∧ t.grp = 18) ∧
    (∃ (s : State) (g : Group) (c : Cluster), s.group? 3 = some g ∧ s.log g.id.vf = 0 ∧ s.standing g = true ∧ g.ops = [] ∧ g.trap.entry = none ∧ g.wait = .run ∧
      s.cluster? g.id.cluster = some c ∧ c.halting = true ∧ c.atck = true ∧ c.told + 20000 = s.ns) ∧
    ∃ s : State, s.HasPart 0 ∧ (s.part 0).log.rpstat.toNat % 256 = 3 ∧ (s.part 0).log.spine = [] ∧ (s.part 0).log.replayStop = 0 ∧ s.groups.length = 1 ∧
      ∀ g ∈ s.groups, g.wait = .ended :=
  ⟨⟨st gSys, gSys, c0, issues_of (by decide), issues_of (by decide), issues_of (by decide), issues_of (by decide), issues_of (by decide), issues_of (by decide), by decide,
      by decide, by decide, by decide, by decide, by decide⟩,
    ⟨fatalState, pend g0 (mkTrap 5 1 4), mkTrap 5 1 4, c0, t0, by decide, by decide, by decide, by decide, by decide,
      ⟨by unfold Handled; decide, fun h => absurd h.2.2.2.1 (by decide), fun h => absurd h.2.2.2.2 (by decide)⟩, by decide, by decide, by decide, by decide⟩,
    ⟨withRings (st (pend g0 tPage)) (hRing 0), pend g0 tPage, tPage, by decide, by decide, by decide, by decide, by decide, by decide, by decide, by decide⟩,
    ⟨st (pend g0 (mkTrap 18 1 4)), pend g0 (mkTrap 18 1 4), mkTrap 18 1 4, by decide, by decide, by decide, by decide, by decide, by decide⟩,
    ⟨halting 21000, g0, { c0 with halting := true, atck := true, told := 1000 }, by decide, by decide, by decide, by decide, by decide, by decide, by decide, by decide, by decide,
      by decide⟩,
    { rpState 3 id with groups := [{ g0 with wait := .ended }] }, part_of (by decide), by decide, by decide, by decide, by decide, by decide⟩

/-- Example 10.1 of R213, and the last byte of HBM. -/
theorem test_hbm_place : hbmPlace 0x100000080 = { stack := 0, channel := 1, pseudo := 1 } ∧ (hbmPlace 0x7FFFFFFFFF).stack < 8 := by decide
-- ## decoding, stepping, and memory

/-- The part with a word where the next step fetches it, and what such a step holds when it has fetched the word. -/
def fetching (w : Word) : State := State.reset.withFetchWord 64 w.toNat
def begun (s : State) : State := { { s.tick with cur := .none } with agenda := s.agenda.tail }
def comesToWord (s : State) : Bool := match s.group? 3 with
  | none => false
  | some g => s.mayIssue g && (s.beforeWord g).isNone && g.ops.isEmpty
def fetchedWord (s : State) : Option Word := match s.group? 3 with
  | none => none
  | some g => match s.translate g.asker .fetch g.pc with
    | (.ok (pa, _), s1) => some (BitVec.ofNat 64 (leNat (s1.readMem pa 8).1))
    | (.error _, _) => none
/-- Tables whose one walk reads no entry twice: stage 1 goes through four regions of 128 TiB, and stage 2 maps each of them to address 0. -/
def walkOnce : List (Nat × Nat) := [(0x100000, 0x110001), (0x100008, 0x110001), (0x100010, 0x110001), (0x100018, 0x110001), (0x110000, 0x120001), (0x120000, 0x1B),
  (0x130000, 0x800000140001), (0x140000, 0x1000000150001), (0x150000, 0x180000000001B)]
/-- A replay in which the log has no event at the group's next word, or a read of LTIME that the word is not. -/
def fetchWith (b : Bool) : State :=
  let s := withVf (withPart0 (fetching 0x903800C000000005) fun p => { p with mode := 8, ps2root := 0x100001
                                                                             log := { p.log with rpstat := 3, replayLog := [[0x0100000500000000, 0, 0, 0, 0]] } })
    fun v => { v with s1root := 0x130001 }
  { s with mem := walkOnce.foldl (fun m (e : Nat × Nat) => Memory.write64 m e.1 (BitVec.ofNat 64 e.2)) s.mem, tlb := [], walks := []
           teams := s.teams.map fun t => { t with sig := { t.sig with events := if b then [{ code := 4, grp := 0, time := 0, a := 0x40, more := [0] }] else [] } } }
def gOne : Group := ((fetching 0x903800C000000005).group? 3).get (by decide)
theorem witness_StepRunsDecodedInstruction :
    (∀ w ∈ [0x903800C000000005#64, 0x3600000000000000#64], (fetching w).agenda = .issue 3 :: [] ∧ (begun (fetching w)).awake = true ∧
      comesToWord (begun (fetching w)) = true ∧ fetchedWord (begun (fetching w)) = some w) ∧
    (∃ i, Dec.group 0x903800C000000005#64 = .ok i) ∧ (∃ b, Dec.group 0x3600000000000000#64 = .bad b) ∧
    (∀ b : Bool, ∃ (s : State) (g : Group) (i : Instr), s.agenda = .issue 3 :: [] ∧ (begun s).awake = true ∧ (begun s).group? 3 = some g ∧ comesToWord (begun s) = true ∧
      fetchedWord (begun s) = some 0x903800C000000005 ∧ Dec.group 0x903800C000000005 = .ok i ∧ (begun s).unfit g i = b) ∧
    (∃ (s : State) (t : Team) (w : Word) (i : Instr), s.agenda = .stream 2 :: [] ∧ (begun s).awake = true ∧ (begun s).team? 2 = some t ∧ t.seqr.word = some w ∧
      Dec.stream w = .ok i) ∧
    ∃ (s : State) (i : Instr), s.agenda = .event i :: [] ∧ (begun s).awake = true ∧ Enc.shape i = .event := by
  refine ⟨?_, ⟨_, rfl⟩, ⟨_, rfl⟩, fun b => ⟨fetchWith b, gOne, _, by cases b <;> decide, by cases b <;> decide, by cases b <;> decide, by cases b <;> decide,
    by cases b <;> decide, rfl, by cases b <;> decide⟩, ?_, ⟨{ s0 with agenda := [.event .glitchSensor] }, .glitchSensor, rfl, by decide, rfl⟩⟩
  · intro w hw
    simp only [List.mem_cons, List.not_mem_nil, or_false] at hw
    rcases hw with rfl | rfl <;> refine ⟨by decide, by decide, by decide, by decide⟩
  · exact ⟨fetching 0x367800C000000000, { t0 with seqr := { t0.seqr with run := true, mxpc := 0x40000, owner := 3, word := some 0x367800C000000000 } }, 0x367800C000000000, _,
      by decide, by decide, by decide, rfl, rfl⟩
/-- A step runs the word placed for it: `iadd v3, v0, 5` leaves the group at the next word. -/
theorem test_step : (match step (fetching 0x903800C000000005) with
    | .next t => t.groups.map (fun g => (g.pc, g.getV 3 0, g.getV 3 31)) == [(0x40008, 5, 5)]
    | .fault _ | .refused _ => false) = true := by decide
theorem witness_DecodeEncode :
    (∃ (i : Instr) (w : Word), WellFormed i = true ∧ i.isStream = false ∧ Sys2Proof.encode i = some w) ∧ (∃ (i : Instr) (w : Word), decodeWord w = some i) ∧
    ∃ (i : Instr) (w : Word), WellFormed i = true ∧ i.isStream = true ∧ Sys2Proof.encode i = some w ∧ Dec.stream w = .ok i := by
  refine ⟨⟨_, 0x903800C000000005, (by decide : WellFormed (.iaddImm { pred := 7, fmt := 0, d := 3, sr := 0, rnd := 0, sat := 0, imm := 5 }) = true), by decide, by decide⟩,
    ⟨_, 0x903800C000000005, rfl⟩, ?_⟩
  exact ⟨.mxZero { fmt := 0, tgt := 3, brow := 0, arow := 0, fb := 0 }, 0x367800C000000000, by decide, by decide, by decide, by decide⟩
theorem witness_StepKeepsMemory : (fetching 0x903800C000000005).MemOk ∧ (match step (fetching 0x903800C000000005) with | .next _ => true | .fault _ | .refused _ => false) = true := by
  unfold State.MemOk
  decide

end Sys2Proof.Tests
end

section
namespace Sys2Proof.Machine

-- ## words of the group stream

/-- The operand reads of an S-form word leave the hold latches alone. -/
theorem Group.latched_scalar {g : Group} {i : Instr} {op : Nat} {r : Enc.RowS} {o : OpS} (h : Enc.shape i = .s op r o) :
    g.latched i = g := by
  unfold Group.latched
  rw [h]

/-- The operand reads of a word change nothing but the hold latches. -/
theorem Group.latched_eq (g : Group) (i : Instr) : ∃ a b, g.latched i = { g with latchA := a, latchB := b } := by
  unfold Group.latched
  cases Enc.shape i with
  | a _ r o => exact ⟨_, _, rfl⟩
  | c _ _ o => exact ⟨_, _, rfl⟩
  | m _ r o => dsimp only; split <;> exact ⟨_, _, rfl⟩
  | e _ r o => dsimp only; split <;> exact ⟨_, _, rfl⟩
  | q _ _ _ => exact ⟨_, _, rfl⟩
  | i _ _ _ => exact ⟨_, _, rfl⟩
  | s _ _ _ => exact ⟨_, _, rfl⟩
  | p _ _ => exact ⟨_, _, rfl⟩
  | event => exact ⟨_, _, rfl⟩

/-- Only the words of layout M are sampled (R423). -/
theorem State.sampleWord_same {s : State} {g : Group} {i : Instr} (hm : ∀ op r o, Enc.shape i ≠ .m op r o) : s.sampleWord g i = s := by
  unfold State.sampleWord
  split
  · rename_i h _
    exact absurd h (hm _ _ _)
  · rfl

/-- A word that traps at its issue, and is no word of layout M, does nothing else. -/
theorem runWord_traps {s : State} {g : Group} {i : Instr} {f : State → Group → WordRes} {t : TrapReq} (h : Issues s g i)
    (hm : ∀ op r o, Enc.shape i ≠ .m op r o) (hf : f s (g.latched i) = .trap t) :
    runWord s i f = .next (s.takeTrap g { t with pc := g.pc }) := by
  rw [runWord_issues f h, hf]
  simp only [State.trapWord, State.sampleWord_same hm, ite_self]

/-- A scalar word whose COND bit is 1 retires as its effect says. -/
theorem runScalar_retires {s : State} {g : Group} {i : Instr} {op : Nat} {r : Enc.RowS} {o : OpS} {f : State → Group → WordRes} {g' : Group}
    {pc : Word} {w : Writes} {m : Touched} (h : Issues s g i) (hi : Enc.shape i = .s op r o) (hc : g.getC o.cond.toNat = true)
    (hf : f s g = .done s g' pc w) (ht : g'.ltime = g.ltime) (hs : SameGroup g g' m) :
    ∃ t h, runScalar s i o f = .next t ∧ Retired s t g h pc ∧ h.regs = g'.regs ∧ SameGroup g h m := by
  refine runWord_retires (w := w) h ?_ ht hs
  rw [Group.latched_scalar hi, if_pos hc, hf]

/-- A scalar word whose COND bit is 0 retires with no effect (R81). -/
theorem runScalar_skipped {s : State} {g : Group} {i : Instr} {op : Nat} {r : Enc.RowS} {o : OpS} (f : State → Group → WordRes)
    (h : Issues s g i) (hi : Enc.shape i = .s op r o) (hc : g.getC o.cond.toNat = false) :
    ∃ t h, runScalar s i o f = .next t ∧ Retired s t g h (g.pc + 8) ∧ SameGroup g h {} := by
  obtain ⟨t, k, hn, hr, -, hs⟩ := runWord_retires (f := fun s g => if g.getC o.cond.toNat then f s g else .next s g) (g' := g) (pc := g.pc + 8) (w := {})
    h (by rw [Group.latched_scalar hi, if_neg (by simp [hc])]; rfl) rfl (SameGroup.refl g {})
  exact ⟨t, k, hn, hr, hs⟩

/-- A scalar word whose COND bit is 1 takes the trap of its effect. -/
theorem runScalar_traps {s : State} {g : Group} {i : Instr} {op : Nat} {r : Enc.RowS} {o : OpS} {f : State → Group → WordRes} {t : TrapReq}
    (h : Issues s g i) (hi : Enc.shape i = .s op r o) (hc : g.getC o.cond.toNat = true) (hf : f s g = .trap t) :
    runScalar s i o f = .next (s.takeTrap g { t with pc := g.pc }) :=
  runWord_traps h (fun _ _ _ hm => by rw [hi] at hm; cases hm) (by rw [Group.latched_scalar hi, if_pos hc, hf])

/-- Every S-form word but `bcc` runs under its COND bit. -/
theorem exec_scalar {i : Instr} {op : Nat} {r : Enc.RowS} {o : OpS} (hi : Enc.shape i = .s op r o) (hb : i ≠ .bcc o) (s : State) :
    ∃ f, exec i s = runScalar s i o f := by
  cases i with
  | bcc o' => cases hi; exact absurd rfl hb
  | _ =>
    cases hi <;> dsimp only [exec, execSadd, execSsub, execSmul, execSmulh, execSdiv, execSrem, execSand, execSor, execSxor, execSshl, execSshr, execSsra, execSmin, execSmax, execSminu, execSmaxu, execSclz, execSpopc, execSext, execSins, execSsel, execSmov, execSli, execSlih, execScmpEq, execScmpNe, execScmpLt, execScmpLe, execScmpLtu, execScmpLeu, execCand, execCor, execCnot, execBra, execCall, execRet, execJr, execLoop, execSldB, execSldH, execSldW, execSldD, execSstB, execSstH, execSstW, execSstD, execSpop, execSrd, execSwr, scalar2, scalarDiv, scalarCmp, scalarMem] <;> exact ⟨_, rfl⟩

-- ## condition bits

/-- Operand B of an S-form word, as the word fetches it. -/
theorem Group.srcB_eq (g : Group) (o : OpS) : g.srcB o = g.opB o := rfl

/-- A condition bit as it reads after it is written: c7 reads 1 (R15). -/
theorem Group.getC_written {g h : Group} {n : Nat} {b : Bool} (hn : n < 8) (hr : h.regs = (g.setC n b).regs) :
    h.getC n = if n = 7 then true else b := by
  have hh : h.getC n = (g.setC n b).getC n := by unfold Group.getC; rw [hr]
  rw [hh, Group.getC_setC g n n b hn]
  by_cases h7 : n = 7
  · subst h7; rfl
  · simp [h7]

/-- A scalar word that writes the condition bit that SD names. -/
theorem runScalar_setCd {s : State} {g : Group} {i : Instr} {op : Nat} {r : Enc.RowS} {o : OpS} {b : Bool} {f : State → Group → WordRes}
    (h : Issues s g i) (hi : Enc.shape i = .s op r o) (hc : g.getC o.cond.toNat = true) (hd : o.sd.toNat < 8) (hf : f s g = setCd s g o b) :
    ∃ t h, runScalar s i o f = .next t ∧ Retired s t g h (g.pc + 8) ∧
      h.getC o.sd.toNat = (if o.sd.toNat = 7 then true else b) ∧ SameGroup g h { c := fun n => n = o.sd.toNat ∧ n ≠ 7 } := by
  obtain ⟨t, k, hn, hr, hregs, hs⟩ := runScalar_retires (m := { c := fun n => n = o.sd.toNat ∧ n ≠ 7 }) h hi hc
    (show f s g = .done s (g.setC o.sd.toNat b) ((g.setC o.sd.toNat b).pc + 8) _ from hf) (Group.setC_ltime ..)
    (SameGroup.setC _ _ hd fun h7 => ⟨rfl, h7⟩)
  exact ⟨t, k, hn, Group.setC_pc g .. ▸ hr, Group.getC_written hd hregs, hs⟩

/-- The relation that a compare names, on two values of any width (R87, R128). -/
theorem IRel.eval_eq {n : Nat} (a b : BitVec n) :
    IRel.eq.eval a b = decide (a = b) ∧ IRel.ne.eval a b = decide (a ≠ b) ∧ IRel.lt.eval a b = decide (a.toInt < b.toInt) ∧
      IRel.le.eval a b = decide (a.toInt ≤ b.toInt) ∧ IRel.ltu.eval a b = decide (a.toNat < b.toNat) ∧
      IRel.leu.eval a b = decide (a.toNat ≤ b.toNat) :=
  ⟨rfl, by rw [decide_not]; rfl, rfl, rfl, rfl, rfl⟩

/-- A word that writes a condition bit: what it runs under its COND bit. -/
theorem exec_condition {g : Group} {i : Instr} {o : OpS} {b : Bool} (hr : conditionResult g i = some (o, b)) (s : State) :
    ∃ f op r, Enc.shape i = .s op r o ∧ exec i s = runScalar s i o f ∧ f s g = setCd s g o b := by
  unfold conditionResult at hr
  split at hr <;> cases hr
  all_goals dsimp only [exec, execScmpEq, execScmpNe, execScmpLt, execScmpLe, execScmpLtu, execScmpLeu, execCand, execCor, execCnot, scalarCmp]
  all_goals refine ⟨_, _, _, rfl, rfl, ?_⟩
  all_goals obtain ⟨heq, hne, hlt, hle, hltu, hleu⟩ := IRel.eval_eq (g.getS o.sa.toNat) (g.opB o)
  · exact congrArg _ heq
  · exact congrArg _ hne
  all_goals rfl

/-- Settles O7: each word runs under its COND bit, and a compare or a word of condition logic writes one bit of `c`. -/
theorem scalarConditions : Obligations.ScalarConditions := by
  refine ⟨fun s g i o r h hr hc hd => ?_, fun s g i op r o h hi hb hc => ?_⟩
  · obtain ⟨f, op, rw, hi, he, hf⟩ := exec_condition hr s
    rw [he]
    exact runScalar_setCd h hi hc hd hf
  · obtain ⟨f, hf⟩ := exec_scalar hi hb s
    rw [hf]
    exact runScalar_skipped f h hi hc
end Sys2Proof.Machine
end

section
/-! PROOFS. What the vector words share: the group that a word leaves, the operand checks, a destination register and a predicate. -/
namespace Sys2Proof.Machine

-- ## the group that a word leaves

/-- What no word writes, a word that may write more keeps too. -/
theorem SameGroup.mono {g h : Group} (a : SameGroup g h {}) (m : Touched) : SameGroup g h m :=
  ⟨fun n l hl _ => a.v n l hl id, fun n l hl _ => a.x n l hl id, fun n _ => a.p n id, fun n _ => a.z n id, fun n _ => a.s n id,
    fun n _ => a.c n id, fun _ => a.k id, fun _ => a.flags id, a.ident, fun _ => a.view id, fun _ => a.queue id, fun _ => a.threads id,
    fun _ => a.specials id, fun _ => a.ops id, fun _ => a.tags id⟩

/-- A word that leaves the state but for what counts retires, and the group after it is the one that its effect left. -/
theorem runWord_leaves_in {s s' : State} {g : Group} {i : Instr} {f : State → Group → WordRes} {g' : Group} {pc : Word} {w : Writes}
    (h : Issues s g i) (hf : f s (g.latched i) = .done s' g' pc w) (ht : g'.ltime = g.ltime) (hid : g'.id = g.id) (hs : OnlyCounts s s')
    (hp : s'.parts = s.parts) (hm : s'.teams = s.teams) :
    ∃ t k, runWord s i f = .next t ∧ Retired s t g k pc ∧ SameGroup g' k {} := by
  have hg : s.group? g.id.key = some g := State.curGroup_key h.cur
  have hg' : s'.group? g.id.key = some g := by rw [State.group?_congr hs.groups]; exact hg
  have hrows : s'.rowWrites g g' i w = .ok s' := by
    refine State.rowWrites_plain g' i w fun hd t ht => h.rows ?_ t ?_
    · unfold State.det State.modeOf State.partOf State.part at hd ⊢
      rwa [hp] at hd
    · unfold State.team? at ht ⊢
      rwa [hm] at ht
  obtain ⟨ho, l, hl⟩ := Group.sequenced_ops g' g i w
  have hr := State.retire_retired (s := s') (g0 := g) (g := g'.sequenced g i w) i pc w hg'
    (by rw [hl]; exact congrArg Ident.key hid) (by rw [hl]; exact ht)
  refine ⟨_, _, ?_, ⟨hr.group, hr.next, hr.time, hs.same.trans hr.same, hs.regs.trans hr.regs, fun k hk => ?_⟩, ?_⟩
  · rw [runWord_issues f h, hf]
    simp only [hrows, State.current_same hg']
  · rw [hr.others k hk, State.group?_congr hs.groups]
  · rw [hl] at ho ⊢
    exact { SameGroup.refl g' {} with ops := fun _ => ho }

/-- A word whose effect touches its group only retires, and the group after it is the one that its effect left. -/
theorem runWord_leaves {s : State} {g : Group} {i : Instr} {f : State → Group → WordRes} {g' : Group} {pc : Word} {w : Writes}
    (h : Issues s g i) (hf : f s (g.latched i) = .done s g' pc w) (ht : g'.ltime = g.ltime) (hid : g'.id = g.id) :
    ∃ t k, runWord s i f = .next t ∧ Retired s t g k pc ∧ SameGroup g' k {} :=
  runWord_leaves_in h hf ht hid (OnlyCounts.refl s) rfl rfl

@[simp] theorem Group.latched_pc (g : Group) (i : Instr) : (g.latched i).pc = g.pc := by
  obtain ⟨a, b, h⟩ := Group.latched_eq g i; rw [h]
@[simp] theorem Group.latched_ltime (g : Group) (i : Instr) : (g.latched i).ltime = g.ltime := by
  obtain ⟨a, b, h⟩ := Group.latched_eq g i; rw [h]

/-- A word that goes on to the following word with another group: what that group holds is there after the word. -/
theorem word_next {s : State} {g : Group} {i : Instr} {f : State → Group → WordRes} {g' : Group} {w : Writes} {m : Touched}
    (he : exec i s = runWord s i f) (h : Issues s g i) (hf : f s (g.latched i) = .next s g' w) (hpc : g'.pc = g.pc) (ht : g'.ltime = g.ltime) (hs : SameGroup g g' m) :
    ∃ t k, exec i s = .next t ∧ Retired s t g k (g.pc + 8) ∧ SameGroup g' k {} ∧ SameGroup g k m := by
  obtain ⟨t, k, hn, hr, hk⟩ := runWord_leaves h hf ht hs.ident.1
  exact ⟨t, k, he.trans hn, hpc ▸ hr, hk, hs.trans (hk.mono m)⟩

-- ## operand checks

theorem firstTrap_none {l : List (Option TrapReq)} (h : ∀ x ∈ l, x = none) : firstTrap l = none :=
  List.findSome?_eq_none_iff.2 h

/-- A usable destination passes the bound check at position 0. -/
theorem Group.boundTrap_dest {g : Group} {act : Lane} {code : BitVec 10} (h : g.DestOk act code) :
    g.boundTrap act { pos := 0, code } = none := Group.dest_none Nat.one_pos h

/-- A usable source passes the bound check at a position of its own. -/
theorem Group.boundTrap_src {g : Group} {act : Lane} {code : BitVec 10} {perm : BitVec 3} {pos : Nat} (hp : pos ≠ 0)
    (h : g.SrcOk act code perm) : g.boundTrap act { pos, code, perm } = none := by
  unfold Group.boundTrap
  rw [if_neg hp]
  exact Group.src_none Nat.one_pos h

-- ## a word that writes lanes of a vector register

/-- Writing a V-kind destination changes vector registers and hold latches, and nothing else. -/
theorem Group.writeV_eq (g : Group) (code : BitVec 10) (act : Lane) (f : Nat → Lane) :
    ∃ v a b, g.writeV code act f = { g with regs := { g.regs with v }, latchA := a, latchB := b } := by
  have key : ∀ (ls : List Nat) (row : Nat → Nat) (h : Group), (∃ v a b, h = { g with regs := { g.regs with v }, latchA := a, latchB := b }) →
      ∃ v a b, ls.foldl (fun h l => h.setV (row l) l (f l)) h = { g with regs := { g.regs with v }, latchA := a, latchB := b } := by
    intro ls row
    induction ls with
    | nil => exact fun h hh => hh
    | cons l r ih =>
      rintro h ⟨v, a, b, rfl⟩
      exact ih _ ⟨_, _, _, rfl⟩
  exact key _ (g.rowOf code) g ⟨_, _, _, rfl⟩

/-- A word that writes one value in each active lane of a usable destination. -/
theorem word_lanes {s : State} {g : Group} {i : Instr} {f : State → Group → WordRes} {code : BitVec 10} {act : Lane} {val : Nat → Lane}
    (he : exec i s = runWord s i f) (h : Issues s g i) (hf : f s (g.latched i) = (lanePlan (g.latched i) none code act val).run s (g.latched i)) :
    ∃ t k, exec i s = .next t ∧ Retired s t g k (g.pc + 8) ∧
      (∀ l, l < 32 → act.getLsbD l = true → k.getV (g.rowOf code l) l = val l) ∧ SameGroup g k { v := g.WritesLanes act code } := by
  have hrow : ∀ l, (g.latched i).rowOf code l = g.rowOf code l := fun l => by
    obtain ⟨a, b, hl⟩ := Group.latched_eq g i; rw [hl]; rfl
  obtain ⟨v, c, d, hw⟩ := Group.writeV_eq (g.latched i) code act val
  have hpc : ((g.latched i).writeV code act val).pc = g.pc := by rw [hw]; exact Group.latched_pc g i
  have hlt : ((g.latched i).writeV code act val).ltime = g.ltime := by rw [hw]; exact Group.latched_ltime g i
  obtain ⟨t, k, hn, hr, hk, hs⟩ := word_next (m := { v := g.WritesLanes act code }) he h hf hpc hlt
    (SameGroup.writeV code act val (SameGroup.latched g i _) fun l _ ha => ⟨ha, hrow l⟩)
  refine ⟨t, k, hn, hr, fun l hl ha => ?_, hs⟩
  rw [hk.v _ l hl id]
  show ((g.latched i).writeV code act val).getV _ l = _
  rw [Group.getV_writeV _ _ _ _ _ _ hl, if_pos ⟨ha, (hrow l).symm⟩]

-- ## a word that writes lanes of a predicate

@[simp] theorem Group.writePred_pc (g : Group) (n : Nat) (act : Lane) (f : Nat → Bool) : (g.writePred n act f).pc = g.pc := Group.setP_pc ..
@[simp] theorem Group.writePred_ltime (g : Group) (n : Nat) (act : Lane) (f : Nat → Bool) : (g.writePred n act f).ltime = g.ltime :=
  Group.setP_ltime ..

theorem Group.orFlags_zero (g : Group) : g.orFlags 0 = g := congrArg (fun x => { g with fflags := x }) BitVec.or_zero

/-- A word that writes one bit in each active lane of a predicate, and raises no flag. -/
theorem word_pred {s : State} {g : Group} {i : Instr} {f : State → Group → WordRes} {n : Nat} {act : Lane} {val : Nat → Bool}
    (he : exec i s = runWord s i f) (h : Issues s g i) (hf : f s (g.latched i) = (predPlan none n act val 0).run s (g.latched i)) :
    ∃ t k, exec i s = .next t ∧ Retired s t g k (g.pc + 8) ∧
      (n ≠ 7 → ∀ l, l < 32 → (k.getP n).getLsbD l = if act.getLsbD l then val l else (g.getP n).getLsbD l) ∧
      SameGroup g k { p := fun m => m = n ∧ m ≠ 7 } := by
  have hg : f s (g.latched i) = .next s ((g.latched i).writePred n act val) { regs := if n = 7 then [] else [{ kind := 3, num := n }] } := by
    rw [hf, ← Group.orFlags_zero ((g.latched i).writePred n act val)]
    rfl
  have hp : ∀ m, (g.latched i).getP m = g.getP m := fun m => (SameGroup.latched g i {}).p m id
  obtain ⟨t, k, hn, hr, hk, hs⟩ := word_next (m := { p := fun m => m = n ∧ m ≠ 7 }) he h hg (by simp) (by simp)
    ((SameGroup.latched g i _).trans (SameGroup.setP _ _ fun h7 => ⟨rfl, h7⟩))
  refine ⟨t, k, hn, hr, fun h7 l hl => ?_, hs⟩
  rw [hk.p n id, Group.getP_writePred _ _ _ _ _ _ hl, hp]
  cases ha : act.getLsbD l <;> simp [h7]

-- ## lane permutation

/-- The lane that a reading lane takes its value from under each permute code lies in the group (R26). -/
theorem srcLane_lt (perm : BitVec 3) (k0 k1 : BitVec 16) {l : Nat} (hl : l < 32) : srcLane perm k0 k1 l < 32 := by
  have h0 : k0.toNat % 32 < 32 := Nat.mod_lt _ (by decide)
  have h1 : k1.toNat % 32 < 32 := Nat.mod_lt _ (by decide)
  unfold srcLane
  dsimp only
  split
  · exact hl
  · exact Nat.mod_lt _ (by decide)
  · exact Nat.mod_lt _ (by decide)
  · exact Nat.xor_lt_two_pow (n := 5) hl h0
  · exact Nat.xor_lt_two_pow (n := 5) hl h1
  · exact h0
  · exact h1
  · omega

/-- The checks of `vperm` pass: its destination, its selector, and its source in the live lanes that the selector names (R141). -/
theorem Group.vperm_checks {g : Group} {o : OpA} (hd : g.DestOk (g.active o.pred) o.d) (hb : g.SrcOk (g.active o.pred) o.b o.bp)
    (ha : g.Names o.a 1 fun m => g.live.getLsbD m = true ∧ ∃ l, l < 32 ∧ (g.active o.pred).getLsbD l = true ∧
      m = (g.fetchV o.b o.bp l).toNat % 32) :
    firstTrap [g.boundTrap (g.active o.pred) { pos := 0, code := o.d }, g.boundTrap (g.active o.pred) { pos := 2, code := o.b, perm := o.bp },
      g.checkV 1 o.a 1 (((lanesOf (g.active o.pred)).map fun l => (l, (g.fetchV o.b o.bp l).toNat % 32)).filter fun (_, x) => g.live.getLsbD x)]
      = none := by
  refine firstTrap_none fun x hx => ?_
  rcases List.mem_cons.1 hx with rfl | hx
  · exact Group.boundTrap_dest hd
  rcases List.mem_cons.1 hx with rfl | hx
  · exact Group.boundTrap_src (by decide) hb
  obtain rfl := List.mem_singleton.1 hx
  refine Group.checkV_none Nat.one_pos ha fun y hy => ?_
  obtain ⟨hy, hlive⟩ := List.mem_filter.1 hy
  obtain ⟨l, hl, rfl⟩ := List.mem_map.1 hy
  obtain ⟨hl32, hact⟩ := mem_lanesOf.1 hl
  exact ⟨hlive, l, hl32, hact, rfl⟩

/-- `vperm` with usable operands writes its destination from the lanes that B names. -/
theorem exec_vperm {s : State} {g : Group} {o : OpA} (hd : g.DestOk (g.active o.pred) o.d) (hb : g.SrcOk (g.active o.pred) o.b o.bp)
    (ha : g.Names o.a 1 fun m => g.live.getLsbD m = true ∧ ∃ l, l < 32 ∧ (g.active o.pred).getLsbD l = true ∧
      m = (g.fetchV o.b o.bp l).toNat % 32) :
    ∃ f, exec (.vperm o) s = runWord s (.vperm o) f ∧ f s (g.latched (.vperm o))
      = (lanePlan (g.latched (.vperm o)) none o.d (g.active o.pred) fun l =>
          let m := (g.fetchV o.b o.bp l).toNat % 32
          if g.live.getLsbD m then g.getV (g.rowOf o.a m) m else 0).run s (g.latched (.vperm o)) := by
  obtain ⟨a, b, hl⟩ := Group.latched_eq g (.vperm o)
  have hc := Group.vperm_checks hd hb ha
  dsimp only [exec, execVperm]
  refine ⟨_, rfl, ?_⟩
  rw [hl]
  exact congrArg (fun t => (lanePlan { g with latchA := a, latchB := b } t o.d (g.active o.pred) _).run s _) hc

/-- Settles O9, from the table of source lanes, and for `vperm` from its checks and the write of its destination. -/
theorem lanePermutation : Obligations.LanePermutation := by
  refine ⟨fun g code perm l hl => ?_, fun s g o h hd hb ha => ?_⟩
  · intro k0 k1 m
    have hm : srcLane perm g.regs.k0 g.regs.k1 l = m := by
      unfold srcLane
      have h8 : perm.toNat < 8 := perm.isLt
      dsimp only [m, k0, k1]
      generalize perm.toNat = c at h8
      match c, h8 with
      | 0, _ | 1, _ | 2, _ | 3, _ | 4, _ | 5, _ | 6, _ | 7, _ => simp only [Nat.add_mod_mod]
    rw [← hm]
    refine ⟨srcLane_lt _ _ _ hl, fun hv => ?_, fun hv => ?_⟩
    · unfold Group.fetchV
      exact if_pos hv
    · unfold Group.fetchV
      exact if_neg (by simp [hv])
  · obtain ⟨f, he, hf⟩ := exec_vperm (s := s) hd hb ha
    exact word_lanes he h hf
end Sys2Proof.Machine
end

section
/-! PROOFS. Integer compares, predicate logic and the predicate counts. -/
namespace Sys2Proof.Machine

-- ## integer compares

/-- A compare runs the relation that its word names (R128). -/
theorem exec_compare {i : Instr} {o : OpA} {rel : Lane → Lane → Bool} (hr : integerRel i = some (o, rel)) (s : State) :
    ∃ r : IRel, exec i s = runWord s i (fun s g => intCmp s g o r) ∧ ∀ a b, r.eval a b = rel a b := by
  unfold integerRel at hr
  split at hr <;> cases hr
  all_goals dsimp only [exec, execIcmpEq, execIcmpNe, execIcmpLt, execIcmpLe, execIcmpLtu, execIcmpLeu]
  · exact ⟨.eq, rfl, fun a b => (IRel.eval_eq a b).1⟩
  · exact ⟨.ne, rfl, fun a b => (IRel.eval_eq a b).2.1⟩
  all_goals exact ⟨_, rfl, fun a b => rfl⟩

/-- The bound checks of two sources pass where both are usable. -/
theorem Group.intTrap_sources {g : Group} {o : OpA} (ha : g.SrcOk (g.active o.pred) o.a o.ap) (hb : g.SrcOk (g.active o.pred) o.b o.bp) :
    g.intTrap (g.active o.pred) [{ pos := 1, code := o.a, perm := o.ap }, { pos := 2, code := o.b, perm := o.bp }] = none := by
  refine firstTrap_none fun x hx => ?_
  rcases List.mem_cons.1 hx with rfl | hx
  · exact Group.boundTrap_src (by decide) ha
  obtain rfl := List.mem_singleton.1 hx
  exact Group.boundTrap_src (by decide) hb

/-- Settles O11: a compare whose sources are usable writes the active lanes of its predicate. -/
theorem vectorCompares : Obligations.VectorCompares := by
  intro s g i o rel h hr ha hb
  obtain ⟨r, he, hrel⟩ := exec_compare hr s
  obtain ⟨a, b, hl⟩ := Group.latched_eq g i
  have hf : intCmp s (g.latched i) o r
      = (predPlan none o.d.toNat (g.active o.pred) (fun l => rel (g.fetchV o.a o.ap l) (g.fetchV o.b o.bp l)) 0).run s (g.latched i) := by
    have hc := Group.intTrap_sources ha hb
    rw [hl, ← funext fun l => hrel (g.fetchV o.a o.ap l) (g.fetchV o.b o.bp l)]
    exact congrArg (fun t => (predPlan t o.d.toNat (g.active o.pred) _ 0).run s _) hc
  exact word_pred he h hf

-- ## predicate logic

/-- A word that writes a whole predicate: p7 reads all ones (R15, R138). -/
theorem word_setPred {s : State} {g : Group} {i : Instr} {f : State → Group → WordRes} {o : OpA} {x : Lane}
    (he : exec i s = runWord s i f) (h : Issues s g i) (hf : f s (g.latched i) = setPred s (g.latched i) o x) :
    ∃ t k, exec i s = .next t ∧ Retired s t g k (g.pc + 8) ∧
      k.getP o.d.toNat = (if o.d.toNat = 7 then 0xFFFFFFFF else x) ∧ SameGroup g k { p := fun n => n = o.d.toNat ∧ n ≠ 7 } := by
  obtain ⟨t, k, hn, hr, hk, hs⟩ := word_next (m := { p := fun n => n = o.d.toNat ∧ n ≠ 7 }) he h hf (by simp) (by simp)
    ((SameGroup.latched g i _).trans (SameGroup.setP _ _ fun h7 => ⟨rfl, h7⟩))
  refine ⟨t, k, hn, hr, ?_, hs⟩
  rw [hk.p _ id, Group.getP_setP]
  by_cases h7 : o.d.toNat = 7
  · rw [if_neg (fun hc => hc.2 h7), if_pos h7, h7]
    rfl
  · rw [if_pos ⟨rfl, h7⟩, if_neg h7]

/-- A word that delivers a condition bit (R15, R138). -/
theorem word_setCond {s : State} {g : Group} {i : Instr} {f : State → Group → WordRes} {n : Nat} {b : Bool}
    (he : exec i s = runWord s i f) (h : Issues s g i) (hn : n < 8) (hf : f s (g.latched i) = setCond s (g.latched i) n b) :
    ∃ t k, exec i s = .next t ∧ Retired s t g k (g.pc + 8) ∧ k.getC n = (if n = 7 then true else b) ∧
      SameGroup g k { c := fun m => m = n ∧ m ≠ 7 } := by
  obtain ⟨t, k, hn', hr, hk, hs⟩ := word_next (m := { c := fun m => m = n ∧ m ≠ 7 }) he h hf (by simp) (by simp)
    ((SameGroup.latched g i _).trans (SameGroup.setC _ _ hn fun h7 => ⟨rfl, h7⟩))
  refine ⟨t, k, hn', hr, ?_, hs⟩
  rw [hk.c _ id]
  exact Group.getC_written hn rfl

/-- A word that writes a scalar register. -/
theorem word_setScalar {s : State} {g : Group} {i : Instr} {f : State → Group → WordRes} {n : Nat} {x : Word}
    (he : exec i s = runWord s i f) (h : Issues s g i) (hf : f s (g.latched i) = setScalar s (g.latched i) n x) :
    ∃ t k, exec i s = .next t ∧ Retired s t g k (g.pc + 8) ∧ k.getS n = x ∧ SameGroup g k { s := (· = n) } := by
  obtain ⟨t, k, hn, hr, hk, hs⟩ := word_next (m := { s := (· = n) }) he h hf (by simp) (by simp)
    ((SameGroup.latched g i _).trans (SameGroup.setS _ _ rfl))
  refine ⟨t, k, hn, hr, ?_, hs⟩
  rw [hk.s _ id, Group.getS_setS, if_pos rfl]

/-- The predicate that a whole-predicate word writes does not depend on the hold latches. -/
theorem exec_predicate {g : Group} {i : Instr} {o : OpA} {x : Lane} (hr : predicateResult g i = some (o, x)) (s : State) :
    ∃ f, exec i s = runWord s i f ∧ f s (g.latched i) = setPred s (g.latched i) o x := by
  unfold predicateResult at hr
  obtain ⟨a, b, hl⟩ := Group.latched_eq g i
  rw [hl]
  split at hr <;> cases hr
  all_goals dsimp only [exec, execPand, execPor, execPxor, execPnot, execPmov]
  all_goals exact ⟨_, rfl, rfl⟩

theorem Group.maskedA_latched (g : Group) (i : Instr) (o : OpA) :
    maskedA (g.latched i) o = g.getP o.a.toNat &&& (g.mask &&& g.live) := by
  obtain ⟨a, b, hl⟩ := Group.latched_eq g i
  rw [hl]
  rfl

theorem popcount_eq_countP (a : Lane) : popcount a.toNat 32 = (List.range 32).countP fun l => a.getLsbD l :=
  List.countP_eq_length_filter.symm

/-- The lowest lane of a mask. -/
theorem head?_lanesOf {a : Lane} {l : Nat} (hl : l < 32) (ha : a.getLsbD l = true) (hj : ∀ j, j < l → a.getLsbD j = false) :
    (lanesOf a).head? = some l := by
  unfold lanesOf allLanes Config.lanes
  rw [List.head?_filter, List.find?_range_eq_some]
  exact ⟨ha, List.mem_range.2 hl, fun j h => by simp [hj j h]⟩

theorem lanesOf_zero : lanesOf 0 = [] := by decide

theorem exec_pany (o : OpA) (s : State) :
    exec (.pany o) s = runWord s (.pany o) fun s g => setCond s g o.d.toNat (maskedA g o != 0) := rfl
theorem exec_pall (o : OpA) (s : State) :
    exec (.pall o) s = runWord s (.pall o) fun s g => setCond s g o.d.toNat (maskedA g o == (g.mask &&& g.live)) := rfl
theorem exec_ppopc (o : OpA) (s : State) :
    exec (.ppopc o) s = runWord s (.ppopc o) fun s g => setScalar s g o.d.toNat (BitVec.ofNat 64 (popcount (maskedA g o).toNat 32)) := rfl
theorem exec_pfirst (o : OpA) (s : State) :
    exec (.pfirst o) s = runWord s (.pfirst o) fun s g => setScalar s g o.d.toNat (BitVec.ofNat 64 (((lanesOf (maskedA g o)).head?).getD 32)) := rfl

/-- Settles O18: whole predicates, then the two bits and the two numbers that the bits in M give. -/
theorem predicateLogic : Obligations.PredicateLogic := by
  refine ⟨fun s g i o x h hr => ?_, fun s g o => ?_⟩
  · obtain ⟨f, he, hf⟩ := exec_predicate hr s
    exact word_setPred he h hf
  · intro m a bit number
    have hm : ∀ i, maskedA (g.latched i) o = a := fun i => Group.maskedA_latched g i o
    have hmask : ∀ i, (g.latched i).mask &&& (g.latched i).live = m := fun i => by
      obtain ⟨x, y, hl⟩ := Group.latched_eq g i
      rw [hl]
    refine ⟨fun h hd => ?_, fun h hd => ?_, fun h => ?_, fun l hl ha hj h => ?_, fun ha h => ?_⟩
    · refine word_setCond (exec_pany o s) h hd ?_
      rw [hm, decide_not]
      rfl
    · refine word_setCond (exec_pall o s) h hd ?_
      rw [hm, hmask]
      rfl
    · refine word_setScalar (exec_ppopc o s) h ?_
      rw [hm, popcount_eq_countP]
    · refine word_setScalar (exec_pfirst o s) h ?_
      rw [hm, head?_lanesOf hl ha hj]
      rfl
    · refine word_setScalar (exec_pfirst o s) h ?_
      rw [hm, ha, lanesOf_zero]
      rfl
end Sys2Proof.Machine
end

section
/-! PROOFS. Scale, index and permute registers, and the group's view of the format table. -/
namespace Sys2Proof.Machine

-- ## operands that the hold latches do not change

theorem Group.fetchV_latched (g : Group) (i : Instr) (code : BitVec 10) (perm : BitVec 3) (l : Nat) :
    (g.latched i).fetchV code perm l = g.fetchV code perm l := by
  obtain ⟨a, b, hl⟩ := Group.latched_eq g i; rw [hl]; rfl

theorem Group.boundTrap_latched (g : Group) (i : Instr) (act : Lane) (o : Opnd) : (g.latched i).boundTrap act o = g.boundTrap act o := by
  obtain ⟨a, b, hl⟩ := Group.latched_eq g i; rw [hl]; rfl

theorem Group.active_latched (g : Group) (i : Instr) (pred : BitVec 3) : (g.latched i).active pred = g.active pred := by
  obtain ⟨a, b, hl⟩ := Group.latched_eq g i; rw [hl]; rfl

theorem Group.immV_latched (g : Group) (i : Instr) (o : OpI) : (g.latched i).immV o = g.immV o := by
  obtain ⟨a, b, hl⟩ := Group.latched_eq g i; rw [hl]; rfl

theorem Group.getX_latched (g : Group) (i : Instr) (n l : Nat) : (g.latched i).getX n l = g.getX n l := by
  obtain ⟨a, b, hl⟩ := Group.latched_eq g i; rw [hl]; rfl

theorem Group.getZ_latched (g : Group) (i : Instr) (n : Nat) : (g.latched i).getZ n = g.getZ n := (SameGroup.latched g i {}).z n not_false

theorem Group.view_latched (g : Group) (i : Instr) : (g.latched i).view = g.view ∧ (g.latched i).fmtPend = g.fmtPend :=
  (SameGroup.latched g i {}).view not_false

/-- The immediate of an I-form word (R70). -/
theorem Group.immV_eq (g : Group) (o : OpI) : g.immV o = g.immOf o := rfl

-- ## scale registers

/-- A word that writes a scale register. -/
theorem word_setZ {s : State} {g : Group} {i : Instr} {f : State → Group → WordRes} {n : Nat} {z : BitVec 128} {w : Writes}
    (he : exec i s = runWord s i f) (h : Issues s g i) (hf : f s (g.latched i) = .next s ((g.latched i).setZ n z) w) :
    ∃ t k, exec i s = .next t ∧ Retired s t g k (g.pc + 8) ∧ k.getZ n = z ∧ SameGroup g k { z := (· = n) } := by
  obtain ⟨t, k, hn, hr, hk, hs⟩ := word_next (m := { z := (· = n) }) he h hf (by simp [Group.setZ]) (by simp [Group.setZ])
    ((SameGroup.latched g i _).trans (SameGroup.setZ _ _ rfl))
  refine ⟨t, k, hn, hr, ?_, hs⟩
  rw [hk.z _ id, Group.getZ_setZ, if_pos rfl]

/-- Sixteen scale bytes from the values of lanes 0 to 3 (R124). -/
def scaleOfLanes (v : Nat → Lane) : BitVec 128 :=
  BitVec.ofNat 128 ((v 0).toNat + 2 ^ 32 * (v 1).toNat + 2 ^ 64 * (v 2).toNat + 2 ^ 96 * (v 3).toNat)

theorem extract_scaleOfLanes (v : Nat → Lane) {j : Nat} (hj : j < 4) : (scaleOfLanes v).extractLsb' (32 * j) 32 = v j := by
  have h0 := (v 0).isLt
  have h1 := (v 1).isLt
  have h2 := (v 2).isLt
  have h3 := (v 3).isLt
  unfold scaleOfLanes
  apply BitVec.eq_of_toNat_eq
  rw [BitVec.extractLsb'_toNat, BitVec.toNat_ofNat, Nat.shiftRight_eq_div_pow]
  match j, hj with
  | 0, _ => omega
  | 1, _ => omega
  | 2, _ => omega
  | 3, _ => omega

theorem exec_zset (o : OpA) (s : State) :
    exec (.zset o) s = runWord s (.zset o) fun s g => match g.boundTrap 0xF { pos := 1, code := o.a, perm := o.ap } with
      | some t => .trap t
      | none => .next s (g.setZ o.d.toNat (scaleOfLanes (g.fetchV o.a o.ap))) { regs := [{ kind := 2, num := o.d.toNat }] } := rfl
theorem exec_zmov (o : OpA) (s : State) :
    exec (.zmov o) s = runWord s (.zmov o) fun s g =>
      .next s (g.setZ o.d.toNat (g.getZ o.a.toNat)) { regs := [{ kind := 2, num := o.d.toNat }] } := rfl

theorem zset_retires {s : State} {g : Group} {o : OpA} (h : Issues s g (.zset o)) (ha : g.SrcOk 0xF o.a o.ap) :
    ∃ t k, exec (.zset o) s = .next t ∧ Retired s t g k (g.pc + 8) ∧ k.getZ o.d.toNat = scaleOfLanes (g.fetchV o.a o.ap) ∧
      SameGroup g k { z := (· = o.d.toNat) } := by
  refine word_setZ (exec_zset o s) h (w := { regs := [{ kind := 2, num := o.d.toNat }] }) ?_
  have hc : g.boundTrap 0xF { pos := 1, code := o.a, perm := o.ap } = none := Group.boundTrap_src (by decide) ha
  rw [Group.boundTrap_latched, hc, ← funext (Group.fetchV_latched g (.zset o) o.a o.ap)]

-- ## index registers

theorem and_idxMask (x : Lane) : (x &&& 0x3FFFFFFF).toNat = x.toNat % 2 ^ 30 := by
  rw [BitVec.toNat_and]
  exact Nat.and_two_pow_sub_one_eq_mod _ 30

/-- Writing an index register: each lane of the mask holds bits 29:0 of its value, and every other lane is as before (R139). -/
theorem Group.getX_writeX (g : Group) (k : Nat) (act : Lane) (f : Nat → Lane) (n l : Nat) (hl : l < 32) :
    (g.writeX k act f).getX n l = if act.getLsbD l = true ∧ n = k then f l &&& 0x3FFFFFFF else g.getX n l := by
  have key : ∀ (ls : List Nat) (h : Group), (∀ j ∈ ls, j < 32) →
      (ls.foldl (fun h j => h.setX k j (f j)) h).getX n l = if l ∈ ls ∧ n = k then f l &&& 0x3FFFFFFF else h.getX n l := by
    intro ls
    induction ls with
    | nil => intro h _; simp
    | cons a r ih =>
      intro h hr
      rw [List.foldl_cons, ih _ fun j hj => hr j (List.mem_cons_of_mem _ hj), Group.getX_setX _ _ _ _ _ _ (hr a List.mem_cons_self) hl]
      by_cases hla : l = a
      · subst hla
        by_cases hn : n = k <;> simp [hn]
      · simp [hla]
  unfold Group.writeX
  rw [key _ _ fun j hj => (mem_lanesOf.1 hj).1]
  simp only [mem_lanesOf, hl, true_and]

/-- Writing an index register changes the lanes of the mask, and nothing else. -/
theorem SameGroup.writeX (g : Group) (k : Nat) (act : Lane) (f : Nat → Lane) :
    SameGroup g (g.writeX k act f) { x := fun n l => n = k ∧ act.getLsbD l = true } ∧ (g.writeX k act f).pc = g.pc ∧
      (g.writeX k act f).ltime = g.ltime := by
  have key : ∀ (ls : List Nat) (h : Group), (∀ j ∈ ls, j < 32 ∧ act.getLsbD j = true) →
      SameGroup h (ls.foldl (fun h j => h.setX k j (f j)) h) { x := fun n l => n = k ∧ act.getLsbD l = true } ∧
        (ls.foldl (fun h j => h.setX k j (f j)) h).pc = h.pc ∧ (ls.foldl (fun h j => h.setX k j (f j)) h).ltime = h.ltime := by
    intro ls
    induction ls with
    | nil => exact fun h _ => ⟨SameGroup.refl h _, rfl, rfl⟩
    | cons a r ih =>
      intro h hr
      obtain ⟨hs, hpc, ht⟩ := ih (h.setX k a (f a)) fun j hj => hr j (List.mem_cons_of_mem _ hj)
      obtain ⟨ha, hact⟩ := hr a List.mem_cons_self
      exact ⟨(SameGroup.setX (m := { x := fun n l => n = k ∧ act.getLsbD l = true }) _ _ _ ha ⟨rfl, hact⟩).trans hs, hpc, ht⟩
  exact key _ g fun j hj => mem_lanesOf.1 hj

/-- A word that writes an index register in the lanes of a mask. -/
theorem word_index {s : State} {g : Group} {i : Instr} {f : State → Group → WordRes} {n : Nat} {act : Lane} {val : Nat → Lane} {w : Writes}
    (he : exec i s = runWord s i f) (h : Issues s g i) (hf : f s (g.latched i) = .next s ((g.latched i).writeX n act val) w) :
    ∃ t k, exec i s = .next t ∧ Retired s t g k (g.pc + 8) ∧
      (∀ l, l < 32 → act.getLsbD l = true → k.getX n l = val l &&& 0x3FFFFFFF) ∧
      SameGroup g k { x := fun m l => m = n ∧ act.getLsbD l = true } := by
  obtain ⟨hx, hpc, ht⟩ := SameGroup.writeX (g.latched i) n act val
  obtain ⟨t, k, hn, hr, hk, hs⟩ := word_next he h hf (hpc.trans (Group.latched_pc g i)) (ht.trans (Group.latched_ltime g i))
    ((SameGroup.latched g i _).trans hx)
  refine ⟨t, k, hn, hr, fun l hl ha => ?_, hs⟩
  rw [hk.x n l hl not_false, Group.getX_writeX _ _ _ _ _ _ hl, if_pos ⟨ha, rfl⟩]

/-- A word that writes an index register from the delivered values of A, where A is usable. -/
theorem word_indexA {s : State} {g : Group} {i : Instr} {f : State → Group → WordRes} {o : OpA} {op : Lane → Lane → Lane}
    (he : exec i s = runWord s i f) (h : Issues s g i) (ha : g.SrcOk (g.active o.pred) o.a o.ap) (hf : f s (g.latched i) = indexA s (g.latched i) o op) :
    ∃ t k, exec i s = .next t ∧ Retired s t g k (g.pc + 8) ∧
      (∀ l, l < 32 → (g.active o.pred).getLsbD l = true →
        k.getX o.d.toNat l = op (g.getX o.d.toNat l) (g.fetchV o.a o.ap l) &&& 0x3FFFFFFF) ∧
      SameGroup g k { x := fun m l => m = o.d.toNat ∧ (g.active o.pred).getLsbD l = true } := by
  have hc : g.boundTrap (g.active o.pred) { pos := 1, code := o.a, perm := o.ap } = none := Group.boundTrap_src (by decide) ha
  refine word_index (w := { regs := [{ kind := 1, num := o.d.toNat, lanes := g.active o.pred }] }) he h ?_
  rw [hf]
  unfold indexA
  simp only [Group.active_latched, Group.boundTrap_latched, Group.fetchV_latched, Group.getX_latched, hc]

/-- The fields of an index register as numbers (R24). -/
theorem xFields (x : Lane) : xIdx x = x.toNat % 1024 ∧ xLen x = x.toNat / 1024 % 1024 ∧ xBase x = x.toNat / 1048576 % 1024 := by
  unfold xIdx xLen xBase
  simp only [BitVec.extractLsb'_toNat, Nat.shiftRight_eq_div_pow]
  exact ⟨by omega, trivial, trivial⟩

/-- An index register with a new index keeps its length and base (R24, R139). -/
theorem xFields_withIdx (x : Lane) {i : Nat} (hi : i ≤ 1023) :
    xIdx (withIdx x i &&& 0x3FFFFFFF) = i ∧ xLen (withIdx x i &&& 0x3FFFFFFF) = xLen x ∧ xBase (withIdx x i &&& 0x3FFFFFFF) = xBase x := by
  have hx := x.isLt
  obtain ⟨-, hlen, hbase⟩ := xFields x
  obtain ⟨hidx', hlen', hbase'⟩ := xFields (withIdx x i &&& 0x3FFFFFFF)
  rw [hlen, hbase, hidx', hlen', hbase', and_idxMask]
  unfold withIdx
  rw [BitVec.toNat_ofNat]
  exact ⟨by omega, by omega, by omega⟩

theorem exec_xset (o : OpA) (s : State) : exec (.xset o) s = runWord s (.xset o) fun s g => indexA s g o fun _ a => a := rfl
theorem exec_xidx (o : OpA) (s : State) :
    exec (.xidx o) s = runWord s (.xidx o) fun s g => indexA s g o fun x a => withIdx x (min a.toNat 1023) := rfl
theorem exec_xinc (o : OpA) (s : State) :
    exec (.xinc o) s = runWord s (.xinc o) fun s g => indexA s g o fun x a =>
      let r : Int := (xIdx x : Int) + a.toInt
      withIdx x (if 0 ≤ r ∧ r ≤ 1023 then r.toNat else 1023) := rfl
theorem exec_xsetImm (o : OpI) (s : State) :
    exec (.xsetImm o) s = runWord s (.xsetImm o) fun s g =>
      .next s (g.writeX o.d.toNat (g.active o.pred) fun _ => g.immV o) { regs := [{ kind := 1, num := o.d.toNat, lanes := g.active o.pred }] } := rfl

/-- Bits 29:0 of a value, as an index register stores them (R139). -/
theorem and_idxMask_eq (x : Lane) : x &&& 0x3FFFFFFF = BitVec.ofNat 32 (x.toNat % 2 ^ 30) := by
  apply BitVec.eq_of_toNat_eq
  rw [and_idxMask, BitVec.toNat_ofNat]
  omega

-- ## permute parameters and the format table

theorem exec_kset (o : OpI) (s : State) :
    exec (.kset o) s = runWord s (.kset o) fun s g =>
      .next s (g.setK o.d.toNat ((g.immV o).setWidth 16)) { regs := [{ kind := 4, num := o.d.toNat }] } := rfl
/-- The group with an entry of its view written, and the write pending (R50, R125). -/
def Group.putFormat (g : Group) (n : Nat) (w : Lane) : Group := { g with view := putNth g.view n w, fmtPend := g.fmtPend ++ [(n, w)] }

theorem exec_fmtset (o : OpI) (s : State) :
    exec (.fmtset o) s = runWord s (.fmtset o) fun s g =>
      if Fmt.entryRefusal (g.immV o) ≠ 0 then
        .trap (mkTrap 4 1 (o.d.toNat % 8 + (g.immV o).toNat * 2 ^ 32 + Fmt.entryRefusal (g.immV o) * 2 ^ 64))
      else .next s (g.putFormat (o.d.toNat % 8) (g.immV o)) := rfl
theorem exec_fmtget (o : OpA) (s : State) :
    exec (.fmtget o) s = runWord s (.fmtget o) fun s g => setScalar s g o.d.toNat ((nth 0 g.view o.a.toNat).setWidth 64) := rfl

/-- `kset` writes the permute parameter that D names (R182). -/
theorem kset_retires {s : State} {g : Group} {o : OpI} (h : Issues s g (.kset o)) :
    ∃ t k, exec (.kset o) s = .next t ∧ Retired s t g k (g.pc + 8) ∧
      (o.d.toNat = 0 → k.regs.k0 = (g.immOf o).extractLsb' 0 16 ∧ k.regs.k1 = g.regs.k1) ∧
      (o.d.toNat = 1 → k.regs.k1 = (g.immOf o).extractLsb' 0 16 ∧ k.regs.k0 = g.regs.k0) ∧ SameGroup g k { k := True } := by
  have hx : (g.immV o).setWidth 16 = (g.immOf o).extractLsb' 0 16 := rfl
  obtain ⟨a, b, hl⟩ := Group.latched_eq g (.kset o)
  have hs : SameGroup g ((g.latched (.kset o)).setK o.d.toNat ((g.immOf o).extractLsb' 0 16)) { k := True } := by
    unfold Group.setK
    rw [hl]
    split <;> exact { SameGroup.refl g _ with k := fun hk => absurd trivial hk }
  obtain ⟨t, k, hn, hr, hk, hsame⟩ := word_next (exec_kset o s) h (by rw [Group.immV_latched, hx]) (by simp) (by simp) hs
  obtain ⟨hk0, hk1⟩ := hk.k not_false
  refine ⟨t, k, hn, hr, fun hd => ?_, fun hd => ?_, hsame⟩
  · rw [hk0, hk1, hl, hd]
    exact ⟨rfl, rfl⟩
  · rw [hk0, hk1, hl, hd]
    exact ⟨rfl, rfl⟩

theorem nth_putNth {α : Type} (d v : α) (l : List α) (i n : Nat) (hn : n < l.length) :
    nth d (putNth l i v) n = if n = i then v else nth d l n := by
  induction l generalizing i n with
  | nil => cases hn
  | cons a r ih =>
    cases i with
    | zero => cases n <;> rfl
    | succ i =>
      cases n with
      | zero => rfl
      | succ n =>
        rw [putNth, nth, ih i n (Nat.lt_of_succ_lt_succ hn), nth]
        simp only [Nat.succ_inj]

/-- `fmtset` writes the entry of the view that D names, and the write stays pending (R125). -/
theorem fmtset_retires {s : State} {g : Group} {o : OpI} (hd : o.d.toNat < 8) (h : Issues s g (.fmtset o)) (hw : Fmt.entryRefusal (g.immOf o) = 0) :
    ∃ t k, exec (.fmtset o) s = .next t ∧ Retired s t g k (g.pc + 8) ∧
      (∀ n, n < g.view.length → nth 0 k.view n = if n = o.d.toNat then g.immOf o else nth 0 g.view n) ∧
      k.fmtPend = g.fmtPend ++ [(o.d.toNat, g.immOf o)] ∧ SameGroup g k { view := True } := by
  have hs : SameGroup (g.latched (.fmtset o)) ((g.latched (.fmtset o)).putFormat o.d.toNat (g.immOf o)) { view := True } :=
    { SameGroup.refl _ _ with view := fun hv => absurd trivial hv }
  obtain ⟨t, k, hn, hr, hk, hs⟩ := word_next (g' := (g.latched (.fmtset o)).putFormat o.d.toNat (g.immOf o)) (w := {}) (exec_fmtset o s) h
    (by rw [Group.immV_latched, Group.immV_eq, hw, Nat.mod_eq_of_lt hd]; rfl)
    (Group.latched_pc g _) (Group.latched_ltime g _) ((SameGroup.latched g _ _).trans hs)
  obtain ⟨hv, hp⟩ := hk.view not_false
  refine ⟨t, k, hn, hr, fun n hlen => ?_, ?_, hs⟩
  · rw [hv]
    unfold Group.putFormat
    rw [(Group.view_latched g _).1]
    exact nth_putNth _ _ _ _ _ hlen
  · rw [hp]
    unfold Group.putFormat
    rw [(Group.view_latched g _).2]

/-- `fmtset` of a word that breaks R35 traps (R36, R125). -/
theorem fmtset_traps {s : State} {g : Group} {o : OpI} (hd : o.d.toNat < 8) (h : Issues s g (.fmtset o)) (hw : Fmt.entryRefusal (g.immOf o) ≠ 0) :
    TakesTrap s g (.fmtset o) 4 1 (o.d.toNat + (g.immOf o).toNat * 2 ^ 32 + Fmt.entryRefusal (g.immOf o) * 2 ^ 64) := by
  unfold TakesTrap
  rw [exec_fmtset]
  refine runWord_traps h (fun _ _ _ hm => by cases hm) ?_
  rw [Group.immV_latched, Group.immV_eq, if_pos hw, Nat.mod_eq_of_lt hd]

/-- Settles O20: each word by what it writes of its register. -/
theorem controlRegisters : Obligations.ControlRegisters := by
  refine ⟨fun s g o => ⟨fun h ha => ?_, fun h => ?_⟩, fun s g o => ?_, fun s g => ⟨fun o _ h => kset_retires h, fun o hd h => ?_, fun o h => ?_⟩⟩
  · obtain ⟨t, k, hn, hr, hz, hs⟩ := zset_retires h ha
    exact ⟨t, k, hn, hr, fun j hj => by rw [hz, extract_scaleOfLanes _ hj], hs⟩
  · refine word_setZ (exec_zmov o s) h (w := { regs := [{ kind := 2, num := o.d.toNat }] }) ?_
    rw [Group.getZ_latched]
  · intro act k a index
    refine ⟨fun h ha => ?_, fun h ha => ?_, fun h ha => ?_, fun w => ?_⟩
    · obtain ⟨t, k, hn, hr, hx, hs⟩ := word_indexA (op := fun _ a => a) (exec_xset o s) h ha rfl
      exact ⟨t, k, hn, hr, fun l hl hact => by rw [hx l hl hact, and_idxMask_eq], hs⟩
    · obtain ⟨t, k, hn, hr, hx, hs⟩ := word_indexA (op := fun x a => withIdx x (min a.toNat 1023)) (exec_xidx o s) h ha rfl
      exact ⟨t, k, hn, hr, fun l hl hact => by rw [hx l hl hact]; exact xFields_withIdx _ (Nat.min_le_right _ _), hs⟩
    · obtain ⟨t, k, hn, hr, hx, hs⟩ := word_indexA (op := fun x a =>
        let r : Int := (xIdx x : Int) + a.toInt
        withIdx x (if 0 ≤ r ∧ r ≤ 1023 then r.toNat else 1023)) (exec_xinc o s) h ha rfl
      refine ⟨t, k, hn, hr, fun l hl hact => ?_, hs⟩
      rw [hx l hl hact]
      refine xFields_withIdx _ ?_
      split <;> omega
    · intro m h
      obtain ⟨t, k, hn, hr, hx, hs⟩ := word_index (s := s) (n := w.d.toNat) (act := m) (val := fun _ => g.immOf w) (exec_xsetImm w s) h
        (by rw [Group.active_latched, Group.immV_latched]; rfl)
      exact ⟨t, k, hn, hr, fun l hl hact => by rw [hx l hl hact, and_idxMask_eq], hs⟩
  · exact ⟨fmtset_retires hd h, fmtset_traps hd h⟩
  · refine word_setScalar (exec_fmtget o s) h ?_
    rw [(Group.view_latched g _).1]
end Sys2Proof.Machine
end

section
/-! PROOFS. The return queue, and the special registers that a word may not access. -/
namespace Sys2Proof.Machine

-- ## scalar words with an effect of their own

/-- A scalar word whose COND bit is 1 and that goes on to the following word with another group. -/
theorem scalar_next {s : State} {g : Group} {i : Instr} {op : Nat} {r : Enc.RowS} {o : OpS} {f : State → Group → WordRes} {g' : Group}
    {w : Writes} {m : Touched} (he : exec i s = runScalar s i o f) (h : Issues s g i) (hi : Enc.shape i = .s op r o)
    (hc : g.getC o.cond.toNat = true) (hf : f s g = .next s g' w) (hpc : g'.pc = g.pc) (ht : g'.ltime = g.ltime) (hs : SameGroup g g' m) :
    ∃ t k, exec i s = .next t ∧ Retired s t g k (g.pc + 8) ∧ SameGroup g' k {} ∧ SameGroup g k m :=
  word_next he h (by rw [Group.latched_scalar hi, if_pos hc, hf]) hpc ht hs

/-- A scalar word whose COND bit is 1 and that traps. -/
theorem scalar_traps {s : State} {g : Group} {i : Instr} {op : Nat} {r : Enc.RowS} {o : OpS} {f : State → Group → WordRes}
    {grp code detail : Nat} (he : exec i s = runScalar s i o f) (h : Issues s g i) (hi : Enc.shape i = .s op r o)
    (hc : g.getC o.cond.toNat = true) (hf : f s g = .trap (mkTrap grp code detail)) : TakesTrap s g i grp code detail :=
  he.trans (runScalar_traps h hi hc hf)

-- ## the return queue

/-- The group with a value appended to its return queue; beyond sixteen values the `vput` waits in the forward queue (R28, R142). -/
def Group.queued (g : Group) (x : Lane) : Group :=
  { g with rq := g.rq ++ [x], fqHeld := if 16 ≤ g.rq.length then g.fqHeld ++ [(0, 0)] else g.fqHeld }

theorem SameGroup.queued (g : Group) (x : Lane) : SameGroup g (g.queued x) { queue := True } :=
  { SameGroup.refl g _ with queue := fun hq => absurd trivial hq }

/-- The mask of one lane. -/
theorem laneMask_single (l : Nat) : laneMask (· == l) = BitVec.ofNat 32 (2 ^ l) := by
  apply BitVec.eq_of_getLsbD_eq
  intro j hj
  rw [laneMask_getLsbD _ j hj, BitVec.getLsbD_ofNat, Nat.testBit_two_pow, decide_eq_true hj, Bool.true_and]
  exact decide_eq_decide.2 ⟨Eq.symm, Eq.symm⟩

/-- `vput` takes the value delivered to the lowest active lane (R142). -/
theorem exec_vput_lowest {s : State} {g : Group} {o : OpA} {l : Nat} (hl : l < 32) (ha : (g.active 7).getLsbD l = true)
    (hj : ∀ j, j < l → (g.active 7).getLsbD j = false) (hok : g.SrcOk (BitVec.ofNat 32 (2 ^ l)) o.a o.ap) :
    ∃ f, exec (.vput o) s = runWord s (.vput o) f ∧
      f s (g.latched (.vput o)) = .next s ((g.latched (.vput o)).queued (g.fetchV o.a o.ap l)) := by
  have hc : g.boundTrap (BitVec.ofNat 32 (2 ^ l)) { pos := 1, code := o.a, perm := o.ap } = none := Group.boundTrap_src (by decide) hok
  obtain ⟨r, hr⟩ : ∃ r, lanesOf (g.active 7) = l :: r := List.head?_eq_some_iff.1 (head?_lanesOf hl ha hj)
  dsimp only [exec, execVput]
  refine ⟨_, rfl, ?_⟩
  rw [Group.active_latched, hr]
  dsimp only
  rw [laneMask_single l, Group.boundTrap_latched, hc, Group.fetchV_latched]
  rfl

/-- `vput` with no active lane appends nothing (R142). -/
theorem exec_vput_none {s : State} {g : Group} {o : OpA} (ha : g.active 7 = 0) (hok : g.SrcOk 0 o.a o.ap) :
    ∃ f, exec (.vput o) s = runWord s (.vput o) f ∧ f s (g.latched (.vput o)) = .next s (g.latched (.vput o)) := by
  have hc : g.boundTrap 0 { pos := 1, code := o.a, perm := o.ap } = none := Group.boundTrap_src (by decide) hok
  dsimp only [exec, execVput]
  refine ⟨_, rfl, ?_⟩
  rw [Group.active_latched, ha, lanesOf_zero]
  dsimp only
  rw [Group.boundTrap_latched, hc]

/-- The group without the oldest value of its return queue; a `vput` that waited has its slot (R28, R95). -/
def Group.popped (g : Group) (r : List Lane) : Group := { (if 16 < g.rq.length then g.movedUp else g) with rq := r }

theorem Group.popped_pc (g : Group) (r : List Lane) : (g.popped r).pc = g.pc := by
  unfold Group.popped; split <;> rfl
theorem Group.popped_ltime (g : Group) (r : List Lane) : (g.popped r).ltime = g.ltime := by
  unfold Group.popped; split <;> rfl

theorem SameGroup.movedUp (g : Group) (m : Touched) : SameGroup g g.movedUp m :=
  { SameGroup.refl g m with ops := fun _ => (List.map_map ..).trans (List.map_congr_left fun _ _ => rfl) }

theorem SameGroup.popped (g : Group) (r : List Lane) {m : Touched} (hm : m.queue) : SameGroup g (g.popped r) m := by
  unfold Group.popped
  split
  · exact { SameGroup.movedUp g m with queue := fun hq => absurd hm hq }
  · exact { SameGroup.refl g m with queue := fun hq => absurd hm hq }

theorem exec_spop (o : OpS) (s : State) :
    exec (.spop o) s = runScalar s (.spop o) o fun s g => match g.rq with
      | [] => .trap (mkTrap 13 16 0)
      | x :: r => setSd s (g.popped r) o (x.setWidth 64) := rfl

/-- Settles O21: `vput` appends, `spop` takes the oldest value or traps. -/
theorem returnQueue : Obligations.ReturnQueue := by
  refine fun s g => ⟨fun o l h hl ha hj hok => ?_, fun o h ha hok => ?_, fun o x r h hc hq => ?_, fun o h hc hq => ?_⟩
  · obtain ⟨f, he, hf⟩ := exec_vput_lowest (s := s) hl ha hj hok
    obtain ⟨t, k, hn, hr, hk, hs⟩ := word_next he h hf (Group.latched_pc g _) (Group.latched_ltime g _)
      ((SameGroup.latched g _ _).trans (SameGroup.queued _ _))
    refine ⟨t, k, hn, hr, (hk.queue not_false).trans ?_, hs⟩
    exact congrArg (· ++ [g.fetchV o.a o.ap l]) ((SameGroup.latched g (.vput o) {}).queue not_false)
  · obtain ⟨f, he, hf⟩ := exec_vput_none (s := s) ha hok
    obtain ⟨t, k, hn, hr, -, hs⟩ := word_next he h hf (Group.latched_pc g _) (Group.latched_ltime g _) (SameGroup.latched g _ {})
    exact ⟨t, k, hn, hr, hs⟩
  · obtain ⟨t, k, hn, hr, hk, hs⟩ := scalar_next (m := { s := (· = o.sd.toNat), queue := True })
      (g' := (g.popped r).setS o.sd.toNat (x.setWidth 64)) (exec_spop o s) h rfl hc (by rw [hq]; rfl)
      (Group.popped_pc g r) (Group.popped_ltime g r) ((SameGroup.popped g r trivial).trans (SameGroup.setS _ _ rfl))
    refine ⟨t, k, hn, hr, hk.queue not_false, ?_, hs⟩
    rw [hk.s _ not_false, Group.getS_setS, if_pos rfl]
  · exact scalar_traps (exec_spop o s) h rfl hc (by rw [hq])

-- ## special registers that a word may not access

/-- `srd` and `swr` of a privileged register below level 2 trap (R97). -/
theorem exec_privileged {g : Group} {o : OpS} (hn : 0x800 ≤ o.imm.toNat % 4096) (hl : g.trap.lvl ≠ 2) (s : State) :
    (∃ f, exec (.srd o) s = runScalar s (.srd o) o f ∧ f s g = .trap (mkTrap 7 16 (o.imm.toNat % 4096))) ∧
      ∃ f, exec (.swr o) s = runScalar s (.swr o) o f ∧ f s g = .trap (mkTrap 7 16 (o.imm.toNat % 4096)) := by
  dsimp only [exec, execSrd, execSwr]
  exact ⟨⟨_, rfl, if_pos ⟨hn, hl⟩⟩, _, rfl, if_pos ⟨hn, hl⟩⟩

/-- `swr` of a register that the group may access and not write traps (R97). -/
theorem exec_swr_readOnly {g : Group} {o : OpS} (hn : ¬ (0x800 ≤ o.imm.toNat % 4096 ∧ g.trap.lvl ≠ 2))
    (hw : srWritable (o.imm.toNat % 4096) = false) (s : State) :
    ∃ f, exec (.swr o) s = runScalar s (.swr o) o f ∧ f s g = .trap (mkTrap 7 17 (o.imm.toNat % 4096)) := by
  dsimp only [exec, execSwr]
  refine ⟨_, rfl, ?_⟩
  rw [if_neg hn, hw]
  rfl

/-- A timing read traps with DET = 1 and RAWCLK = 0 (R18). -/
theorem exec_srd_timing {s : State} {g : Group} {o : OpS} (hn : ¬ (0x800 ≤ o.imm.toNat % 4096 ∧ g.trap.lvl ≠ 2))
    (ht : srTiming s g (o.imm.toNat % 4096) = true) (hd : s.timingRefused g.id.vf = true) :
    ∃ f, exec (.srd o) s = runScalar s (.srd o) o f ∧ f s g = .trap (mkTrap 16 1 (o.imm.toNat % 4096)) := by
  dsimp only [exec, execSrd]
  exact ⟨_, rfl, (if_neg hn).trans (if_pos ⟨ht, hd⟩)⟩

theorem srWritable_readOnly : ∀ n ∈ [0x000, 0x001, 0x002, 0x003, 0x004, 0x005, 0x006, 0x007, 0x008, 0x009, 0x020, 0x021, 0x022, 0x023, 0x024,
    0x025, 0x026, 0x027, 0x028, 0x029, 0x02A, 0x02B, 0x02C, 0x02D, 0x030, 0x031, 0x03F, 0x040, 0x041, 0x042, 0x043, 0x047, 0x048, 0x049, 0x04A,
    0x04B], n < 0x800 ∧ srWritable n = false := by decide

theorem srWritable_privileged : ∀ n ∈ [0x802, 0x810, 0x811, 0x812, 0x813, 0x815], srWritable n = false := by decide

/-- The registers whose read is a timing read in every state of the team (R18). -/
theorem srTiming_always (s : State) (g : Group) {n : Nat} (hn : n ∈ [0x006, 0x020, 0x021, 0x022, 0x023, 0x024, 0x025, 0x02A, 0x030]) :
    n < 0x800 ∧ srTiming s g n = true := by
  have h : ∀ n ∈ [0x006, 0x020, 0x021, 0x022, 0x023, 0x024, 0x025, 0x02A, 0x030],
      n < 0x800 ∧ (n == 0x030 || (0x020 ≤ n && n ≤ 0x025) || n == 0x006 || n == 0x02A) = true := by decide
  obtain ⟨hlt, ht⟩ := h n hn
  refine ⟨hlt, ?_⟩
  unfold srTiming
  rw [ht, Bool.true_or]

/-- Settles O24: the checks of R97 and R18 come before any effect. -/
theorem refusedAccess : Obligations.RefusedAccess := by
  intro s g o n hc
  have low {n : Nat} (h : n < 0x800) : ¬ (0x800 ≤ n ∧ g.trap.lvl ≠ 2) := fun hn => Nat.not_le_of_lt h hn.1
  refine ⟨fun h hn hl => ?_, fun h hn hl => ?_, fun h hn => ?_, fun h hn hl => ?_, fun h hn hd hr => ?_⟩
  · obtain ⟨⟨f, he, hf⟩, -⟩ := exec_privileged hn hl s
    exact scalar_traps he h rfl hc hf
  · obtain ⟨-, f, he, hf⟩ := exec_privileged hn hl s
    exact scalar_traps he h rfl hc hf
  · obtain ⟨hlt, hw⟩ := srWritable_readOnly n hn
    obtain ⟨f, he, hf⟩ := exec_swr_readOnly (low hlt) hw s
    exact scalar_traps he h rfl hc hf
  · obtain ⟨f, he, hf⟩ := exec_swr_readOnly (fun hp => hp.2 hl) (srWritable_privileged n hn) s
    exact scalar_traps he h rfl hc hf
  · obtain ⟨hlt, ht⟩ := srTiming_always s g hn
    have hd' : s.timingRefused g.id.vf = true := by
      unfold State.timingRefused
      rw [hd, hr]
      rfl
    obtain ⟨f, he, hf⟩ := exec_srd_timing (low hlt) ht hd'
    exact scalar_traps he h rfl hc hf
end Sys2Proof.Machine
end

section
/-! PROOFS. What a read of a special register gives, and what `srd` does with it. -/
namespace Sys2Proof.Machine

-- ## values that the maps of the registers give in another form

theorem nodup_eraseDups : ∀ l : List Nat, l.eraseDups.Nodup
  | [] => List.nodup_nil
  | a :: r => by
    rw [List.eraseDups_cons, List.nodup_cons]
    exact ⟨fun h => by simpa using List.mem_eraseDups.1 h, nodup_eraseDups _⟩
  termination_by l => l.length
  decreasing_by exact Nat.lt_succ_of_le (List.length_filter_le ..)

/-- The set bits of a list of numbers below a bound, one by one. -/
theorem maskOf_filter (l : List Nat) (n : Nat) :
    maskOf (l.filter (· < n)) = (List.range n).foldl (fun m k => if l.contains k then m + 2 ^ k else m) 0 := by
  unfold maskOf
  rw [← List.foldl_filter]
  refine List.Perm.foldl_eq' ((List.perm_ext_iff_of_nodup (nodup_eraseDups _) (List.nodup_range.filter _)).2 fun k => ?_)
    (fun x _ y _ m => Nat.add_right_comm m (2 ^ x) (2 ^ y)) 0
  simp only [List.mem_eraseDups, List.mem_filter, List.mem_range, decide_eq_true_eq, List.contains_iff_mem]
  exact And.comm

/-- FMTPEND (R342): bit k is set while a write of entry k is pending. -/
theorem fmtPend_image (g : Group) :
    w64 (maskOf ((g.fmtPend.map (·.1)).filter (· < 8)))
      = BitVec.ofNat 64 ((List.range 8).foldl (fun m k => if g.fmtPend.any fun e => e.1 == k then m + 2 ^ k else m) 0) := by
  rw [maskOf_filter]
  have h : ∀ k, (g.fmtPend.map (·.1)).contains k = g.fmtPend.any fun e => e.1 == k := fun k => by
    rw [List.contains_eq_any_beq, List.any_map]
    refine congrArg (List.any g.fmtPend) (funext fun e => ?_)
    exact Bool.beq_comm
  simp only [h]
  rfl

theorem toNat_eq_ite (b : Bool) : b.toNat = if b then 1 else 0 := by cases b <;> rfl

/-- MXSTAT (R287), field by field. -/
theorem Sequencer.stat_eq (q : Sequencer) :
    q.stat = BitVec.ofNat 64 ((if q.run then 1 else 0) + 2 * (if q.flt then 1 else 0) + 128 * (q.flight.length % 16)
      + (match q.barw with | some b => 2048 + 4096 * (b % 16) | none => 0) + 65536 * (q.fcode % 256)) := by
  unfold Sequencer.stat w64
  simp only [toNat_eq_ite]
  refine congrArg (BitVec.ofNat 64) ?_
  cases q.barw with
  | none => simp only [Option.getD_none, Option.isSome_none, Bool.false_eq_true, if_false]; omega
  | some b => simp only [Option.getD_some, Option.isSome_some, if_true]; omega

/-- HSTAT (R305), field by field. -/
theorem TrapState.hstat_eq (t : TrapState) :
    t.hstat = BitVec.ofNat 64 (t.lvl.toNat + 4 * t.plvl.toNat + 16 * t.udepth.toNat + 512 * t.sdepth.toNat) := by
  unfold TrapState.hstat w64
  exact congrArg (BitVec.ofNat 64) (by omega)

/-- GRIDID (R158), field by field. -/
theorem gridid_image (c : Cluster) : w64 c.gridid = BitVec.ofNat 64 (c.launch % 2 ^ 42 + 2 ^ 42 * c.node + 2 ^ 58 * c.gslot) := by
  unfold Cluster.gridid w64
  exact congrArg (BitVec.ofNat 64) (by omega)

/-- The shape register (R158), field by field. -/
theorem shape_image (c : Cluster) (n : Nat) :
    w64 (c.h * 2 ^ 12 + c.w * 2 ^ 8 + n) = BitVec.ofNat 64 (n + 256 * c.w + 4096 * c.h) := by
  unfold w64
  exact congrArg (BitVec.ofNat 64) (by omega)

theorem permute_image (a b : BitVec 16) : w64 (b.toNat * 65536 + a.toNat) = BitVec.ofNat 64 (a.toNat + 65536 * b.toNat) := by
  unfold w64
  exact congrArg (BitVec.ofNat 64) (by omega)

/-- CPCNT counts the tags that are BUSY (R265). -/
theorem cpcnt_image (g : Group) : w64 g.cpcnt = BitVec.ofNat 64 ((List.range 64).countP fun k => g.tagBusy.getLsbD k) :=
  congrArg (BitVec.ofNat 64) List.countP_eq_length_filter.symm

theorem mxcnt_eq {s : State} {g : Group} {t : Team} (ht : s.team? g.id.team = some t) : s.mxcnt g = t.seqr.flight.length := by
  unfold State.mxcnt
  rw [ht]
  rfl

/-- MODE as programs read it (R3, R4): ACCW reads 0 while DET = 1. -/
theorem mode_image (s : State) (vf : Nat) :
    modeImage (s.modeOf vf) = BitVec.ofNat 64 (if s.det vf then (s.modeOf vf &&& ~~~2).toNat else (s.modeOf vf).toNat) := by
  unfold modeImage State.det
  split <;> rw [BitVec.ofNat_toNat]

/-- An entry of the divergence stack as its low word shows it (R143). -/
theorem DivEntry.lo_eq (e : DivEntry) : e.lo = (e.pc &&& ~~~7) ||| BitVec.ofNat 64 (if e.isPath then 1 else 0) := by
  unfold DivEntry.lo w64
  rw [toNat_eq_ite]

theorem tlbi_image (v : Vf) : w64 v.tlbi.isSome.toNat = BitVec.ofNat 64 (if v.tlbi.isSome then 1 else 0) := by
  unfold w64
  rw [toNat_eq_ite]

/-- A word of a range-lock entry's image (R274). -/
theorem LockEntry.word_eq (e : LockEntry) {j : Nat} (hj : j < 5) :
    e.word j = nth 0 [BitVec.ofNat 64 (1 + 2 * (if e.kind then 1 else 0) + 4 * (if e.ssp then 1 else 0) + 8 * (if e.dsp then 1 else 0)
      + 16 * (if e.nosrc then 1 else 0) + 32 * e.tag + 2048 * e.slot + 32768 * e.quad), e.slo, e.shi, e.dlo, e.dhi] j := by
  match j, hj with
  | 0, _ =>
    unfold LockEntry.word w64
    simp only [toNat_eq_ite]
    exact congrArg (BitVec.ofNat 64) (by omega)
  | 1, _ => rfl
  | 2, _ => rfl
  | 3, _ => rfl
  | 4, _ => rfl

/-- The word of the range-lock entry that RLSEL selects, 0 where there is none (R342). -/
theorem lockSel_image (s : State) (g : Group) {j : Nat} (hj : j < 5) :
    (match s.locks.find? fun e => e.core == g.id.core && e.idx == g.sel.rl with
      | none => some (0 : Word)
      | some e => some (nth 0 [BitVec.ofNat 64 (1 + 2 * (if e.kind then 1 else 0) + 4 * (if e.ssp then 1 else 0) + 8 * (if e.dsp then 1 else 0)
          + 16 * (if e.nosrc then 1 else 0) + 32 * e.tag + 2048 * e.slot + 32768 * e.quad), e.slo, e.shi, e.dlo, e.dhi] j))
      = some (((s.lockSel g).map fun e => e.word j).getD 0) := by
  unfold State.lockSel
  cases s.locks.find? fun e => e.core == g.id.core && e.idx == g.sel.rl with
  | none => rfl
  | some e => exact congrArg some (LockEntry.word_eq e hj).symm

/-- ACCSTEPS (R342): the count of steps of the selected tile. -/
theorem accSteps_image (s : State) (g : Group) :
    (match s.tileKey g g.sel.acc with | some k => (Sparse.get 0 s.tileSteps k).setWidth 64 | none => (0 : Word))
      = ((s.tileKey g g.sel.acc).map fun k => (Sparse.get 0 s.tileSteps k).setWidth 64).getD 0 := by
  cases s.tileKey g g.sel.acc <;> rfl

-- ## the maps of the registers

/-- Identity and place of the group (R17, R158). -/
def identityRegs : List Nat := [0x000, 0x001, 0x002, 0x003, 0x004, 0x005, 0x006, 0x007, 0x008, 0x009]

/-- Flags, seed, counters and state of the group and its stream (R16, R17, R132, R265, R287). -/
def stateRegs : List Nat :=
  [0x010, 0x011, 0x022, 0x023, 0x024, 0x025, 0x026, 0x027, 0x028, 0x029, 0x02A, 0x02B, 0x02C,
  0x02D, 0x030, 0x031, 0x032, 0x03F]

/-- Trap registers of the user level (R305, R310). -/
def userRegs : List Nat :=
  [0x040, 0x041, 0x042, 0x043, 0x044, 0x045, 0x046, 0x047, 0x048, 0x049, 0x04A, 0x04B, 0x04C,
  0x04D, 0x04E, 0x04F]

/-- Translation and the trap registers of the system level (R217, R305). -/
def systemRegs : List Nat :=
  [0x800, 0x801, 0x802, 0x810, 0x811, 0x812, 0x813, 0x814, 0x815, 0x816, 0x817, 0x818, 0x819, 0x81A, 0x81B]

/-- The context registers of the group's own state and of its team (R342). -/
def contextRegs : List Nat :=
  [0x820, 0x821, 0x822, 0x823, 0x824, 0x825, 0x826, 0x827, 0x828, 0x829, 0x82A, 0x82B, 0x82C,
  0x82D, 0x82E, 0x82F, 0x830]

/-- The context registers of locks, tags, counts and tiles (R342). -/
def enginesRegs : List Nat := [0x831, 0x832, 0x833, 0x834, 0x835, 0x836, 0x837, 0x838, 0x839, 0x83A, 0x83B]

section
variable {s : State} {g : Group} {t : Team} {c : Cluster}

theorem mapped {α β : Type} {o : Option α} {a : α} (h : o = some a) (f : α → β) (d : β) : (o.map f).getD d = f a := by rw [h]; rfl

theorem shape_mapped (ht : s.team? g.id.team = some t) (hc : s.cluster? g.id.cluster = some c) :
    ((s.cluster? g.id.cluster).map fun c => c.h * 2 ^ 12 + c.w * 2 ^ 8 + ((s.team? g.id.team).map (·.ngroups)).getD 0).getD 0
      = c.h * 2 ^ 12 + c.w * 2 ^ 8 + t.ngroups := by
  rw [mapped hc, mapped ht]

theorem srGet_identity (ht : s.team? g.id.team = some t) (hc : s.cluster? g.id.cluster = some c) :
    ∀ n ∈ identityRegs, specialValue s g t c n = some (s.srGet g n) := by
  simp only [identityRegs, List.forall_mem_cons, List.not_mem_nil, false_implies, implies_true, and_true]
  exact ⟨rfl, rfl, congrArg (fun x => some (w64 (x % 16))) (mapped ht (·.num) 0).symm,
    congrArg (fun x => some (w64 (x % 2 ^ 48))) (mapped hc (·.clustid) 0).symm,
    congrArg some ((gridid_image c).symm.trans (congrArg w64 (mapped hc Cluster.gridid 0).symm)),
    congrArg (fun x => some (w64 (x % 65536))) (mapped ht s.lcore 0).symm, rfl,
    congrArg (fun x => some (w64 x)) (mapped hc (fun c => (s.nodeWord c.vf c.gslot c.node 8).toNat % 2 ^ 48) 0).symm,
    congrArg some (shape_image c t.ngroups ▸ (congrArg w64 (shape_mapped ht hc)).symm), rfl⟩

theorem srGet_state (ht : s.team? g.id.team = some t) :
    ∀ n ∈ stateRegs, specialValue s g t c n = some (s.srGet g n) := by
  simp only [stateRegs, List.forall_mem_cons, List.not_mem_nil, false_implies, implies_true, and_true]
  exact ⟨congrArg some (BitVec.ofNat_toNat ..), rfl, rfl, rfl, congrArg some (cpcnt_image g).symm,
    congrArg (fun x => some (w64 x)) (mxcnt_eq ht).symm, congrArg some (BitVec.ofNat_toNat ..), rfl, rfl,
    congrArg some (BitVec.ofNat_toNat ..), rfl, rfl, congrArg some (mapped ht (fun t => t.seqr.mxpc &&& ~~~7) 0).symm,
    congrArg some ((Sequencer.stat_eq t.seqr).symm.trans (mapped ht (fun t => t.seqr.stat) 0).symm), rfl, rfl,
    congrArg some (BitVec.ofNat_toNat ..), congrArg some (mode_image s g.id.vf).symm⟩

theorem srGet_user :
    ∀ n ∈ userRegs, specialValue s g t c n = some (s.srGet g n) := by
  simp only [userRegs, List.forall_mem_cons, List.not_mem_nil, false_implies, implies_true, and_true]
  exact ⟨congrArg some (BitVec.ofNat_toNat ..), congrArg some (BitVec.ofNat_toNat ..), congrArg some (BitVec.ofNat_toNat ..),
    congrArg some (BitVec.ofNat_toNat ..), rfl, rfl, congrArg some (BitVec.ofNat_toNat ..),
    congrArg some (TrapState.hstat_eq g.trap).symm, rfl, rfl, rfl, rfl, rfl, rfl, rfl, rfl⟩

theorem srGet_system :
    ∀ n ∈ systemRegs, specialValue s g t c n = some (s.srGet g n) := by
  simp only [systemRegs, List.forall_mem_cons, List.not_mem_nil, false_implies, implies_true, and_true]
  exact ⟨rfl, rfl, congrArg some (tlbi_image _).symm, congrArg some (BitVec.ofNat_toNat ..),
    congrArg some (BitVec.ofNat_toNat ..), congrArg some (BitVec.ofNat_toNat ..), congrArg some (BitVec.ofNat_toNat ..), rfl,
    rfl, congrArg some (BitVec.ofNat_toNat ..), rfl, rfl, rfl, rfl, rfl⟩

theorem srGet_context (ht : s.team? g.id.team = some t) :
    ∀ n ∈ contextRegs, specialValue s g t c n = some (s.srGet g n) := by
  simp only [contextRegs, List.forall_mem_cons, List.not_mem_nil, false_implies, implies_true, and_true]
  exact ⟨congrArg some (BitVec.ofNat_toNat ..), congrArg some (BitVec.ofNat_toNat ..), congrArg some (BitVec.ofNat_toNat ..),
    congrArg some (BitVec.ofNat_toNat ..), congrArg some (BitVec.ofNat_toNat ..), congrArg some (BitVec.ofNat_toNat ..),
    congrArg some (BitVec.ofNat_toNat ..), congrArg some (permute_image _ _).symm, rfl,
    congrArg some (DivEntry.lo_eq _).symm, congrArg some (BitVec.ofNat_toNat ..), rfl, rfl,
    congrArg some ((BitVec.ofNat_toNat ..).trans (mapped ht (fun t => (nth 0 t.arrive g.sel.bar).setWidth 64) 0).symm), rfl,
    congrArg some ((BitVec.ofNat_toNat ..).trans (mapped ht (fun t => (nth 0 t.table g.sel.fmt).setWidth 64) 0).symm),
    congrArg some (fmtPend_image g).symm⟩

theorem srGet_engines :
    ∀ n ∈ enginesRegs, specialValue s g t c n = some (s.srGet g n) := by
  simp only [enginesRegs, List.forall_mem_cons, List.not_mem_nil, false_implies, implies_true, and_true]
  exact ⟨rfl, lockSel_image s g (j := 0) (by decide), lockSel_image s g (j := 1) (by decide),
    lockSel_image s g (j := 2) (by decide), lockSel_image s g (j := 3) (by decide), lockSel_image s g (j := 4) (by decide),
    rfl, rfl, rfl, congrArg some (accSteps_image s g), rfl⟩

/-- The numbers that the maps of the special registers assign, but for FQFREE and RQFREE. -/
theorem specialValue_assigned {n : Nat} {v : Word} (hv : specialValue s g t c n = some v) :
    n ∈ identityRegs ++ stateRegs ++ userRegs ++ systemRegs ++ contextRegs ++ enginesRegs := by
  unfold specialValue at hv
  dsimp only at hv
  split at hv
  rotate_right
  · cases hv
  all_goals decide

/-- A read of a special register gives what the register's map says. -/
theorem srGet_of_specialValue {n : Nat} {v : Word} (ht : s.team? g.id.team = some t) (hc : s.cluster? g.id.cluster = some c)
    (hv : specialValue s g t c n = some v) : s.srGet g n = v := by
  refine Option.some.inj (Eq.trans (Eq.symm ?_) hv)
  have h := specialValue_assigned hv
  simp only [List.mem_append, or_assoc] at h
  rcases h with h | h | h | h | h | h
  · exact srGet_identity ht hc n h
  · exact srGet_state ht n h
  · exact srGet_user n h
  · exact srGet_system n h
  · exact srGet_context ht n h
  · exact srGet_engines n h

end

-- ## srd

/-- With the log off a timing value is the value read, and nothing is logged (R388). -/
theorem State.timed_off {s : State} {g : Group} (n : Nat) (v : Word) (h : s.log g.id.vf = 0) : s.timed g n v = (v, s) := by
  unfold State.timed State.logged State.note
  simp [h]

/-- A read of a special register takes at most a free value. -/
theorem State.srRead_counts (s : State) (g : Group) (n : Nat) :
    OnlyCounts s (s.srRead g n).2 ∧ (s.srRead g n).2.parts = s.parts ∧ (s.srRead g n).2.teams = s.teams := by
  have free : OnlyCounts s s.free.2 :=
    ⟨rfl, ⟨rfl, rfl, rfl, ⟨rfl, rfl⟩, rfl, rfl, rfl, rfl, rfl, rfl⟩, fun _ => rfl, fun _ => rfl, fun _ => rfl⟩
  unfold State.srRead
  split
  · exact ⟨free, rfl, rfl⟩
  · split
    · exact ⟨free, rfl, rfl⟩
    · exact ⟨OnlyCounts.refl s, rfl, rfl⟩

theorem State.log_congr {s s' : State} (hp : s'.parts = s.parts) (vf : Nat) : s'.log vf = s.log vf := by
  unfold State.log State.modeOf State.partOf State.part
  rw [hp]

/-- A permitted `srd` of a run whose log is off writes what it reads; but for the counts of free slots and CLOCK it waits for the older
vector words (R97 to R99). -/
theorem exec_srd_value {s : State} {g : Group} {o : OpS} (hp : mayAccess g (o.imm.toNat % 4096)) (ht : s.timingRefused g.id.vf = false)
    (hl : s.log g.id.vf = 0) (hs : g.speculative = false) :
    ∃ f, exec (.srd o) s = runScalar s (.srd o) o f ∧
      f s g = (let n := o.imm.toNat % 4096
        let r := setSd (s.srRead g n).2 g o (s.srRead g n).1
        if n == 0x020 || n == 0x021 || n == 0x030 then r else afterVector g r) := by
  have hl' : (s.srRead g (o.imm.toNat % 4096)).2.log g.id.vf = 0 := (State.log_congr (State.srRead_counts s g _).2.1 _).trans hl
  dsimp only [exec, execSrd]
  refine ⟨_, rfl, ?_⟩
  rw [if_neg fun h => h.2 (hp h.1), if_neg (by simp [ht])]
  simp only [State.timed_off _ _ hl', settled, hs, Bool.false_eq_true, if_false, ite_self]

/-- `srd` that leaves the state but for a free value, with the value it has read. -/
theorem srd_retires {s s' : State} {g : Group} {o : OpS} {f : State → Group → WordRes} {v : Word} {q : Nat} {w : Writes}
    (he : exec (.srd o) s = runScalar s (.srd o) o f) (h : Issues s g (.srd o)) (hc : g.getC o.cond.toNat = true)
    (hf : f s g = .done s' { g.setS o.sd.toNat v with fqSince := q } (g.pc + 8) w)
    (hs : OnlyCounts s s' ∧ s'.parts = s.parts ∧ s'.teams = s.teams) :
    ∃ t k, exec (.srd o) s = .next t ∧ Retired s t g k (g.pc + 8) ∧ k.getS o.sd.toNat = v ∧ SameGroup g k { s := (· = o.sd.toNat) } := by
  obtain ⟨hcount, hparts, hteams⟩ := hs
  have hset : SameGroup g { g.setS o.sd.toNat v with fqSince := q } { s := (· = o.sd.toNat) } :=
    { SameGroup.setS (g := g) (m := { s := (· = o.sd.toNat) }) o.sd.toNat v rfl with }
  obtain ⟨t, k, hn, hr, hk⟩ := runWord_leaves_in (g' := { g.setS o.sd.toNat v with fqSince := q })
    (f := fun s g => if g.getC o.cond.toNat then f s g else .next s g) h (by rw [Group.latched_scalar rfl, if_pos hc, hf]) rfl rfl hcount hparts hteams
  refine ⟨t, k, he.trans hn, hr, (hk.s _ not_false).trans ?_, hset.trans (hk.mono _)⟩
  exact (Group.getS_setS g o.sd.toNat o.sd.toNat v).trans (if_pos rfl)

/-- With no `vput` waiting, a scalar word that waits for the older vector words goes on. -/
theorem afterVector_done {s : State} {g g' : Group} {pc : Word} {w : Writes} (h : g.fqHeld = []) :
    afterVector g (.done s g' pc w) = .done s { g' with fqSince := 0 } pc w := by
  unfold afterVector
  rw [h]
  rfl

theorem srRead_of_assigned {s : State} {g : Group} {n : Nat}
    (hn : n ∈ identityRegs ++ stateRegs ++ userRegs ++ systemRegs ++ contextRegs ++ enginesRegs) : s.srRead g n = (s.srGet g n, s) := by
  have h : ∀ n ∈ identityRegs ++ stateRegs ++ userRegs ++ systemRegs ++ contextRegs ++ enginesRegs, n ≠ 0x020 ∧ n ≠ 0x021 := by decide
  obtain ⟨h20, h21⟩ := h n hn
  unfold State.srRead
  rw [if_neg h20, if_neg h21]

/-- The count of free slots that FQFREE reads (R99). -/
theorem srRead_fqfree (s : State) (g : Group) : (s.srRead g 0x020).1.toNat ≤ 32 - min 32 g.fqUsed := by
  have h : (s.srRead g 0x020).1 = w64 (32 - min 32 g.fqUsed - s.free.1 % (min (32 - min 32 g.fqUsed) g.fqSince + 1)) := rfl
  rw [h]
  exact Nat.le_trans (Nat.mod_le ..) (Nat.sub_le ..)

/-- The count of free slots that RQFREE reads (R99). -/
theorem srRead_rqfree (s : State) (g : Group) :
    16 - min 16 g.rq.length ≤ (s.srRead g 0x021).1.toNat ∧ (s.srRead g 0x021).1.toNat ≤ 16 := by
  have h : (s.srRead g 0x021).1 = w64 (16 - s.free.1 % (min 16 g.rq.length + 1)) := rfl
  have hk : s.free.1 % (min 16 g.rq.length + 1) < min 16 g.rq.length + 1 := Nat.mod_lt _ (Nat.succ_pos _)
  rw [h]
  unfold w64
  rw [BitVec.toNat_ofNat]
  exact ⟨by omega, by omega⟩

/-- Settles O22: a permitted read gives the register's value; the counts of free slots lie within what the queues can hold. -/
theorem specialReads : Obligations.SpecialReads := by
  refine ⟨fun s g o t c v => ?_, fun s g o h hc hd hl hs => ⟨fun hn => ?_, fun hn => ?_⟩⟩
  · intro n h hc ht hcl hv hacc hd hl hq hs
    obtain ⟨f, he, hf⟩ := exec_srd_value hacc hd hl hs
    have hr : s.srRead g n = (v, s) := by rw [srRead_of_assigned (specialValue_assigned hv), srGet_of_specialValue ht hcl hv]
    have hs0 : OnlyCounts s s ∧ s.parts = s.parts ∧ s.teams = s.teams := ⟨OnlyCounts.refl s, rfl, rfl⟩
    dsimp only at hf
    rw [hr] at hf
    by_cases hloose : (n == 0x020 || n == 0x021 || n == 0x030) = true
    · rw [if_pos hloose] at hf
      exact srd_retires (q := g.fqSince) he h hc hf hs0
    · rw [if_neg hloose] at hf
      exact srd_retires he h hc (hf.trans (afterVector_done hq)) hs0
  · obtain ⟨f, he, hf⟩ := exec_srd_value (fun h => absurd h (by rw [hn]; decide)) hd hl hs
    rw [hn] at hf
    obtain ⟨t, k, hx, hr, hget, hsame⟩ := srd_retires (q := g.fqSince) he h hc hf (State.srRead_counts s g _)
    exact ⟨t, k, hx, hr, hget ▸ srRead_fqfree s g, hsame⟩
  · obtain ⟨f, he, hf⟩ := exec_srd_value (fun h => absurd h (by rw [hn]; decide)) hd hl hs
    rw [hn] at hf
    obtain ⟨t, k, hx, hr, hget, hsame⟩ := srd_retires (q := g.fqSince) he h hc hf (State.srRead_counts s g _)
    exact ⟨t, k, hx, hr, hget ▸ (srRead_rqfree s g).1, hget ▸ (srRead_rqfree s g).2, hsame⟩
end Sys2Proof.Machine
end

section
/-! PROOFS. Launches and their nodes: what a graph slot, a node and a queue hold after they change; nodes that start and complete. -/
namespace Sys2Proof.Machine

-- ## what the graph slots of a virtual function hold

/-- Nothing but the registers of the virtual functions differs. -/
def State.VfsOnly (s t : State) : Prop := ∃ v, t = { s with vfs := v }

theorem State.VfsOnly.refl (s : State) : s.VfsOnly s := ⟨s.vfs, rfl⟩

theorem State.VfsOnly.trans {s t u : State} : s.VfsOnly t → t.VfsOnly u → s.VfsOnly u := by
  rintro ⟨v, rfl⟩ ⟨w, rfl⟩
  exact ⟨w, rfl⟩

theorem State.vfsOnly_setVf (s : State) (v : Vf) : s.VfsOnly (s.setVf v) := ⟨_, rfl⟩

theorem find?_putKey {α : Type} (l : List (Nat × α)) (k : Nat) (v : α) : (putKey l k v).find? (fun e => e.1 == k) = some (k, v) := by
  induction l with
  | nil => simp [putKey]
  | cons e r ih =>
    unfold putKey
    split
    · simp
    · split
      · simp
      · rename_i hne
        rw [List.find?_cons_of_neg (by simpa using fun h => hne h.symm)]
        exact ih

theorem State.vf_setVf_self {s : State} {v : Vf} (h : s.HasVf v.num) : (s.setVf v).vf v.num = v := by
  have hr := find?_replace Vf.num v v.num s.vfs
  rw [if_pos rfl] at hr
  obtain ⟨u, hu⟩ := Option.isSome_iff_exists.1 (List.find?_isSome.2 (h.imp fun w hw => ⟨hw.1, beq_iff_eq.2 hw.2⟩) :
    (s.vfs.find? fun w => w.num == v.num).isSome = true)
  rw [hu] at hr
  exact congrArg (·.getD (Vf.reset v.num)) hr

theorem State.hasVf_of_slot? {s : State} {vf k : Nat} {x : GraphSlot} (h : s.slot? vf k = some x) : s.HasVf vf := by
  unfold State.slot? State.vf at h
  cases hv : s.vfs.find? fun v => v.num == vf with
  | none => rw [hv] at h; cases h
  | some v => exact ⟨v, List.mem_of_find?_eq_some hv, by simpa using List.find?_some hv⟩

/-- A change of other registers of a virtual function leaves its graph slots. -/
theorem State.slot?_setVf {s : State} {v : Vf} (h : v.slots = (s.vf v.num).slots) (vf k : Nat) : (s.setVf v).slot? vf k = s.slot? vf k := by
  unfold State.slot?
  rw [State.vf_setVf Vf.slots s v h]

theorem State.slot?_setSlot {s : State} {vf : Nat} (h : s.HasVf vf) (k : Nat) (x : GraphSlot) : (s.setSlot vf k x).slot? vf k = some x := by
  have hn : ({ s.vf vf with slots := putKey (s.vf vf).slots k x } : Vf).num = vf := State.vf_num s vf
  have hv := State.vf_setVf_self (s := s) (v := { s.vf vf with slots := putKey (s.vf vf).slots k x }) (by rw [hn]; exact h)
  rw [hn] at hv
  unfold State.slot? State.setSlot
  rw [hv]
  exact congrArg (Option.map _) (find?_putKey _ _ _)

theorem State.queues_setSlot (s : State) (vf k : Nat) (x : GraphSlot) (n : Nat) : ((s.setSlot vf k x).vf n).queues = (s.vf n).queues :=
  State.vf_setVf Vf.queues s _ (by rw [State.vf_num]) n

-- ## nodes

theorem State.node?_eq {s : State} {vf k : Nat} {x : GraphSlot} {l : Launch} (hx : s.slot? vf k = some x) (hl : x.running = some l) (j : Nat) :
    s.node? vf k j = l.nodes.find? fun n => n.idx == j := by
  unfold State.node?
  rw [hx, Option.bind_some, hl, Option.bind_some]

theorem State.slot_of_node? {s : State} {vf k j : Nat} {n : NodeRun} (h : s.node? vf k j = some n) :
    ∃ x l, s.slot? vf k = some x ∧ x.running = some l := by
  obtain ⟨l, hl, -⟩ := Option.bind_eq_some_iff.1 h
  obtain ⟨x, hx, hr⟩ := Option.bind_eq_some_iff.1 hl
  exact ⟨x, l, hx, hr⟩

theorem State.node?_congr {s t : State} {vf k : Nat} (h : t.slot? vf k = s.slot? vf k) (j : Nat) : t.node? vf k j = s.node? vf k j := by
  unfold State.node?
  rw [h]

theorem State.setNode_eq {s : State} {vf k : Nat} {x : GraphSlot} {l : Launch} (hx : s.slot? vf k = some x) (hl : x.running = some l)
    (idx : Nat) (f : NodeRun → NodeRun) :
    s.setNode vf k idx f = s.setSlot vf k { x with running := some { l with nodes := l.nodes.map fun n => if n.idx = idx then f n else n } } := by
  unfold State.setNode
  rw [hx]
  simp only [hl]

theorem State.vfsOnly_setNode (s : State) (vf k idx : Nat) (f : NodeRun → NodeRun) : s.VfsOnly (s.setNode vf k idx f) := by
  unfold State.setNode
  split
  · split
    · exact State.vfsOnly_setVf ..
    · exact .refl s
  · exact .refl s

theorem State.queues_setNode (s : State) (vf k idx : Nat) (f : NodeRun → NodeRun) (n : Nat) :
    ((s.setNode vf k idx f).vf n).queues = (s.vf n).queues := by
  unfold State.setNode
  split
  · split
    · exact State.queues_setSlot ..
    · rfl
  · rfl

/-- The entry that an index finds, after the entries of an index have changed with their indices kept. -/
theorem find?_mapNode {f : NodeRun → NodeRun} (hf : ∀ n, (f n).idx = n.idx) (l : List NodeRun) (idx j : Nat) :
    (l.map fun n => if n.idx = idx then f n else n).find? (fun n => n.idx == j)
      = (l.find? fun n => n.idx == j).map fun n => if j = idx then f n else n := by
  have hi : ∀ n : NodeRun, (if n.idx = idx then f n else n).idx = n.idx := fun n => by
    split
    · exact hf n
    · rfl
  rw [List.find?_map]
  have hp : ((fun n : NodeRun => n.idx == j) ∘ fun n => if n.idx = idx then f n else n) = fun n => n.idx == j := by
    funext n
    rw [Function.comp_apply, hi]
  rw [hp]
  cases h : l.find? fun n => n.idx == j with
  | none => rfl
  | some n =>
    have hn : n.idx = j := by simpa using List.find?_some h
    rw [Option.map_some, Option.map_some, hn]

theorem State.node?_setNode {s : State} {vf k j : Nat} {n : NodeRun} (h : s.node? vf k j = some n) (idx : Nat) {f : NodeRun → NodeRun}
    (hf : ∀ n, (f n).idx = n.idx) : (s.setNode vf k idx f).node? vf k j = some (if j = idx then f n else n) := by
  obtain ⟨x, l, hx, hl⟩ := State.slot_of_node? h
  rw [State.node?_eq hx hl] at h
  rw [State.setNode_eq hx hl, State.node?_eq (State.slot?_setSlot (State.hasVf_of_slot? hx) k _) rfl, find?_mapNode hf, h, Option.map_some]

-- ## queues

theorem State.vfsOnly_unqueue (s : State) (vf k idx : Nat) : s.VfsOnly (s.unqueue vf k idx) := State.vfsOnly_setVf ..

theorem State.slot?_unqueue (s : State) (vf k idx : Nat) (n m : Nat) : (s.unqueue vf k idx).slot? n m = s.slot? n m :=
  State.slot?_setVf (by rw [State.vf_num]) n m

/-- A node that has left its queues stands in none. -/
theorem State.not_mem_unqueue {s : State} {vf k idx : Nat} (h : s.HasVf vf) {q : List QItem} (hq : q ∈ ((s.unqueue vf k idx).vf vf).queues)
    {i : QItem} (hi : i ∈ q) : ¬ (i.gslot = k ∧ i.node = idx) := by
  have hn : ({ s.vf vf with queues := (s.vf vf).queues.map fun q => q.filter fun i => !(i.gslot == k && i.node == idx) } : Vf).num = vf := State.vf_num s vf
  have hv := State.vf_setVf_self (by rw [hn]; exact h)
  rw [hn] at hv
  rw [State.unqueue, hv] at hq
  obtain ⟨q', -, rfl⟩ := List.mem_map.1 hq
  rintro ⟨rfl, rfl⟩
  simpa using (List.mem_filter.1 hi).2

-- ## completion of a node (R163)

theorem State.releaseNode_eq {s : State} {vf k : Nat} {x : GraphSlot} {l : Launch} (hx : s.slot? vf k = some x) (hl : x.running = some l) (idx : Nat) :
    let s1 := s.setNode vf k idx fun n => { n with state := .ready }
    let v := s1.vf vf
    let c := nodeClass (nth [] x.nodes idx)
    s.releaseNode vf k idx = s1.setVf { v with queues := putNth v.queues c (nth [] v.queues c ++ [{ gslot := k, node := idx, time := s.clock }]) } := by
  intro s1 v c
  unfold State.releaseNode
  simp only [hx, hl]
  rw [← State.setNode_eq hx hl idx fun n => { n with state := .ready }]

theorem State.vfsOnly_releaseNode (s : State) (vf k idx : Nat) : s.VfsOnly (s.releaseNode vf k idx) := by
  cases hx : s.slot? vf k with
  | none => unfold State.releaseNode; rw [hx]; exact .refl s
  | some x => cases hl : x.running with
    | none => unfold State.releaseNode; rw [hx]; simp only [hl]; exact .refl s
    | some l => rw [State.releaseNode_eq hx hl]; exact (State.vfsOnly_setNode ..).trans (State.vfsOnly_setVf ..)

theorem State.node?_releaseNode {s : State} {vf k j : Nat} {n : NodeRun} (h : s.node? vf k j = some n) {idx : Nat} (hj : j ≠ idx) :
    (s.releaseNode vf k idx).node? vf k j = some n := by
  obtain ⟨x, l, hx, hl⟩ := State.slot_of_node? h
  rw [State.releaseNode_eq hx hl, State.node?_congr (State.slot?_setVf (by rw [State.vf_num]) vf k),
    State.node?_setNode (f := fun n => { n with state := .ready }) h idx fun _ => rfl, if_neg hj]

/-- A successor `j` counts one predecessor more, and becomes ready with the last. -/
def State.countedBy (s : State) (vf k : Nat) (x : GraphSlot) (j : Nat) : State :=
  let s2 := s.setNode vf k j fun n => { n with deps := n.deps + 1 }
  match s2.node? vf k j, (s2.slot? vf k).bind (·.running) with
  | some n, some l => if n.state = .waiting ∧ n.deps = nodeDeps (nth [] x.nodes j) ∧ l.failure.isNone then s2.releaseNode vf k j else s2
  | _, _ => s2

theorem State.nodeDone_eq (s : State) (vf k idx : Nat) :
    let s1 := (s.unqueue vf k idx).setNode vf k idx fun n => { n with state := .done }
    s.nodeDone vf k idx = match s1.slot? vf k with
      | none => s1
      | some x => (nodeSuccs (nth [] x.nodes idx)).eraseDups.foldl (fun s j => s.countedBy vf k x j) s1 := rfl

theorem State.vfsOnly_countedBy (s : State) (vf k : Nat) (x : GraphSlot) (j : Nat) : s.VfsOnly (s.countedBy vf k x j) := by
  unfold State.countedBy
  simp only
  split
  · split
    · exact (State.vfsOnly_setNode ..).trans (State.vfsOnly_releaseNode ..)
    · exact State.vfsOnly_setNode ..
  · exact State.vfsOnly_setNode ..

/-- A node that is done stays done while successors count it: it does not wait, so that it is not released again. -/
theorem State.NodeDone.countedBy {s : State} {vf k idx : Nat} (h : s.NodeDone vf k idx) (x : GraphSlot) (j : Nat) :
    (s.countedBy vf k x j).NodeDone vf k idx := by
  obtain ⟨n, hn, hd⟩ := h
  have h2 := State.node?_setNode (f := fun n => { n with deps := n.deps + 1 }) hn j fun _ => rfl
  have hs : (if idx = j then { n with deps := n.deps + 1 } else n).state = .done := by
    split <;> exact hd
  unfold State.countedBy
  simp only
  split
  · rename_i m l hm hl
    split
    · rename_i hw
      have hj : idx ≠ j := fun e => by
        rw [e] at h2 hs
        rw [Option.some.inj (hm.symm.trans h2), hs] at hw
        cases hw.1
      exact ⟨_, State.node?_releaseNode h2 hj, hs⟩
    · exact ⟨_, h2, hs⟩
  · exact ⟨_, h2, hs⟩

theorem State.vfsOnly_nodeDone (s : State) (vf k idx : Nat) : s.VfsOnly (s.nodeDone vf k idx) := by
  have h1 := (State.vfsOnly_unqueue s vf k idx).trans (State.vfsOnly_setNode (s.unqueue vf k idx) vf k idx fun n => { n with state := .done })
  rw [State.nodeDone_eq]
  split
  · exact h1
  · rename_i x _
    exact List.foldlRecOn _ _ h1 fun t ht j _ => ht.trans (State.vfsOnly_countedBy t vf k x j)

theorem State.nodeDone_nodeDone {s : State} {vf k idx : Nat} {n : NodeRun} (h : s.node? vf k idx = some n) :
    (s.nodeDone vf k idx).NodeDone vf k idx := by
  have h1 : ((s.unqueue vf k idx).setNode vf k idx fun n => { n with state := .done }).NodeDone vf k idx :=
    ⟨_, State.node?_setNode ((State.node?_congr (State.slot?_unqueue ..) idx).trans h) idx fun _ => rfl, by rw [if_pos rfl]⟩
  rw [State.nodeDone_eq]
  split
  · exact h1
  · rename_i x _
    exact List.foldlRecOn (motive := fun t : State => t.NodeDone vf k idx) _ _ h1 fun t ht j _ => State.NodeDone.countedBy ht x j

/-- A node that has completed has left memory as it was. -/
theorem State.nodeDone_mem {s : State} {vf k idx : Nat} {n : NodeRun} (h : s.node? vf k idx = some n) :
    (s.nodeDone vf k idx).mem = s.mem ∧ (s.nodeDone vf k idx).NodeDone vf k idx := by
  refine ⟨?_, State.nodeDone_nodeDone h⟩
  obtain ⟨v, hv⟩ := State.vfsOnly_nodeDone s vf k idx
  rw [hv]

-- ## the dispatcher starts a copy node (R168)

theorem exec_dispatchStep {s t : State} {h : Head} (hh : s.heads 0 = [h]) (ht : s.tryHeads [h] = some t) : exec .dispatchStep s = .next t := by
  have hd : s.dispatch = some t := by
    unfold State.dispatch
    rw [List.findSome?_cons, hh, show [h].foldl (fun l h => insertHead h l) [] = [h] from rfl, ht]
  show execDispatchStep s = .next t
  unfold execDispatchStep
  rw [hd]

theorem State.startNode_off {s : State} {h : Head} (hl : s.log h.vf = 0) :
    s.startNode h = s.setNode h.vf h.item.gslot h.item.node fun n => { n with state := .running } := by
  obtain ⟨v, hv⟩ := State.vfsOnly_setNode s h.vf h.item.gslot h.item.node fun n => { n with state := .running }
  unfold State.startNode State.noteSpine
  rw [if_neg]
  rw [State.log_congr (s := s) (by rw [hv]), hl]
  decide

/-- The run of a copy node that has all its chunks to do. -/
def Head.copying (h : Head) (n : NodeRun) : NodeRun :=
  { n with copy := some { todo := List.range (copyNode h.rcd).chunks, running := [], total := (copyNode h.rcd).chunks, parked := none, ready := h.item.time } }

/-- A copy node that starts runs with all its chunks to do, and has left its queue. -/
theorem State.startOther_copy {s : State} {h : Head} (hl : s.log h.vf = 0) (ht : nodeType h.rcd = 1) (hok : (copyNode h.rcd).ok = true)
    (hn : s.node? h.vf h.item.gslot h.item.node = some h.run) :
    (s.startOther h).mem = s.mem ∧
      (s.startOther h).node? h.vf h.item.gslot h.item.node = some { h.run with
        state := .running, copy := some { todo := List.range (copyNode h.rcd).chunks, running := [], total := (copyNode h.rcd).chunks, parked := none, ready := h.item.time } } ∧
      ∀ q ∈ ((s.startOther h).vf h.vf).queues, ∀ i ∈ q, ¬ (i.gslot = h.item.gslot ∧ i.node = h.item.node) := by
  have e : s.startOther h = (((s.setNode h.vf h.item.gslot h.item.node fun n => { n with state := .running }).unqueue h.vf h.item.gslot h.item.node).setNode
      h.vf h.item.gslot h.item.node h.copying) := by
    unfold State.startOther
    rw [State.startNode_off hl]
    simp only [ht, hok, if_true]
    rfl
  have h1 := State.node?_setNode (f := fun n => { n with state := .running }) hn h.item.node fun _ => rfl
  rw [if_pos rfl] at h1
  obtain ⟨x, l, hx, -⟩ := State.slot_of_node? h1
  have h2 := (State.node?_congr (State.slot?_unqueue _ h.vf h.item.gslot h.item.node _ _) _).trans h1
  rw [e]
  refine ⟨?_, ?_, ?_⟩
  · obtain ⟨v, hv⟩ := (State.vfsOnly_setNode s ..).trans ((State.vfsOnly_unqueue ..).trans (State.vfsOnly_setNode ..))
    rw [hv]
  · rw [State.node?_setNode (f := h.copying) h2 _ fun _ => rfl, if_pos rfl]
    rfl
  · rw [State.queues_setNode]
    exact fun q hq i hi => State.not_mem_unqueue (State.hasVf_of_slot? hx) hq hi

-- ## event nodes and kernels complete (R163)

section
variable {s : State} {vf k idx : Nat} {x : GraphSlot} {n : NodeRun}

theorem exec_eventWaitPoll {p : Partition} (hx : s.slot? vf k = some x) (hp : s.partOf vf = some p)
    (hs : p.stopped vf (nodeClass (nth [] x.nodes idx)) = false) : exec (.eventWaitPoll vf k idx) s = .next (s.actNode vf k idx) := by
  show execEventWaitPoll vf k idx s = _
  unfold execEventWaitPoll
  simp only [hx, hp, Option.map_some, Option.getD_some, hs, Bool.false_eq_true, if_false]

/-- An event-wait node reads its word, and completes once the word is as great as its value. -/
theorem State.actNode_wait (hx : s.slot? vf k = some x) (hn : s.node? vf k idx = some n) (hr : n.state = .running) (hw : n.wait = none)
    (ht : nodeType (nth [] x.nodes idx) = 2) {s1 : State} {bs : List Byte}
    (h : s.schedRead vf (nth (0 : Word) (nth [] x.nodes idx) 6).toNat 8 = (.ok bs, s1)) :
    s.actNode vf k idx = if (nth (0 : Word) (nth [] x.nodes idx) 7).toNat ≤ leNat bs then s1.nodeDone vf k idx else s1 := by
  unfold State.actNode
  rw [hx, hn]
  refine (if_neg (by simp [hr, hw])).trans ((if_pos ht).trans ?_)
  rw [h]

/-- An event-signal node writes its word and completes. -/
theorem State.actNode_signal (hx : s.slot? vf k = some x) (hn : s.node? vf k idx = some n) (hr : n.state = .running) (hw : n.wait = none)
    (ht : nodeType (nth [] x.nodes idx) = 3) {s1 : State}
    (h : s.schedWrite vf (nth (0 : Word) (nth [] x.nodes idx) 6).toNat (leBytes 8 (nth (0 : Word) (nth [] x.nodes idx) 7).toNat) = (.ok (), s1)) :
    s.actNode vf k idx = s1.nodeDone vf k idx := by
  unfold State.actNode
  rw [hx, hn]
  refine (if_neg (by simp [hr, hw])).trans ((if_neg (by rw [ht]; decide)).trans ((if_pos ht).trans ?_))
  rw [h]

theorem exec_kernelComplete_waits (hx : s.slot? vf k = some x) (hn : s.node? vf k idx = some n)
    (h : n.retired ≠ gridOfRec (nth [] x.nodes idx)) : exec (.kernelComplete vf k idx) s = .next s := by
  show execKernelComplete vf k idx s = _
  unfold execKernelComplete
  rw [hx, hn]
  exact if_pos (.inr (.inr (.inr h)))

/-- With nothing staged there is nothing to fold. -/
theorem State.foldOrdered_nil (h : s.slots = []) (pick : Slot → Bool) : s.foldOrdered vf pick = .ok s := by
  unfold State.foldOrdered
  rw [h]
  rfl

theorem exec_kernelComplete (hx : s.slot? vf k = some x) (hn : s.node? vf k idx = some n) (hr : n.state = .running)
    (ht : nodeType (nth [] x.nodes idx) = 0) (hp : n.placed = gridOfRec (nth [] x.nodes idx)) (hd : n.retired = gridOfRec (nth [] x.nodes idx))
    (hs : s.slots = []) : exec (.kernelComplete vf k idx) s = .next (s.nodeDone vf k idx) := by
  show execKernelComplete vf k idx s = _
  unfold execKernelComplete
  rw [hx, hn]
  simp [ht, hr, hp, hd, State.foldOrdered_nil hs]

end

-- ## the end of a launch (R165)

/-- The slot of a launch that has ended counts it and is free, and nothing of it is queued or staged. -/
def State.closeLaunch (s : State) (vf k : Nat) (y : GraphSlot) : State :=
  let s1 := s.setSlot vf k { y with running := none, done := y.done + 1 }
  let v := s1.vf vf
  { s1.setVf { v with queues := v.queues.map fun (q : List QItem) => q.filter fun (i : QItem) => i.gslot != k } with
      slots := s1.slots.filter fun x => !(x.vf == vf && x.gslot == k) }

theorem State.slot?_closeLaunch {s : State} {vf k : Nat} {y : GraphSlot} (hy : s.slot? vf k = some y) :
    (s.closeLaunch vf k y).slot? vf k = some { y with running := none, done := y.done + 1 } := by
  let z : GraphSlot := { y with running := none, done := y.done + 1 }
  have hz : (s.setSlot vf k z).slot? vf k = some z := State.slot?_setSlot (State.hasVf_of_slot? hy) k z
  have hq : ({ (s.setSlot vf k z).vf vf with queues := ((s.setSlot vf k z).vf vf).queues.map fun q => q.filter fun i => i.gslot != k } : Vf).slots
      = ((s.setSlot vf k z).vf ((s.setSlot vf k z).vf vf).num).slots := by rw [State.vf_num]
  exact (State.slot?_setVf hq vf k).trans hz

theorem State.writeColophon_off {s : State} {vf k : Nat} (h : s.log vf = 0) (l : Launch) (w : Word) : s.writeColophon vf k l w = s := by
  unfold State.writeColophon
  split
  · rfl
  · simp [h]

/-- A launch all of whose nodes are done writes its completion record and frees its slot. -/
theorem exec_launchComplete {s s1 : State} {vf k : Nat} {x y : GraphSlot} {l : Launch} (hx : s.slot? vf k = some x) (hl : x.running = some l)
    (hp : x.pl = 0) (hw : l.waiting = none) (hf : l.failure = none) (hr : l.noRecord = false) (hd : ∀ n ∈ l.nodes, n.state = .done)
    (h : s.schedWrite vf x.compl.toNat (leBytes 8 l.count ++ leBytes 8 0) = (.ok (), s1)) (h0 : s1.log vf = 0) (hy : s1.slot? vf k = some y) :
    exec (.launchComplete vf k) s = .next (s1.closeLaunch vf k y) := by
  have ho : s.launchOver vf k l = true := by
    unfold State.launchOver
    rw [hf]
    exact List.all_eq_true.2 fun n hn => beq_iff_eq.2 (hd n hn)
  have hc : (s1.closeLaunch vf k y).log vf = 0 := (State.log_congr rfl vf).trans h0
  obtain ⟨nodes, compl, cnt, done, queue, running, pl⟩ := x
  obtain rfl : running = some l := hl
  obtain ⟨count, runs, failure, waiting, colophon, noRecord⟩ := l
  obtain rfl : failure = none := hf
  show execLaunchComplete vf k s = _
  unfold execLaunchComplete
  rw [hx]
  refine (if_neg ?_).trans ((if_neg (by rw [hr]; decide)).trans ?_)
  · rw [ho, hp, hw]
    decide
  split
  · rename_i heq
    obtain ⟨-, rfl⟩ := Prod.mk.inj (h.symm.trans heq)
    show Host.Outcome.next (match s1.slot? vf k with
      | some y => (s1.closeLaunch vf k y).writeColophon vf k _ 0
      | none => s1) = _
    rw [hy]
    exact congrArg Host.Outcome.next (State.writeColophon_off hc _ 0)
  · rename_i heq
    cases (Prod.mk.inj (h.symm.trans heq)).1

end Sys2Proof.Machine
end

section
/-! PROOFS. The dispatcher places a cluster, whose groups are as a launch leaves them; a cluster that is over leaves. -/
namespace Sys2Proof.Machine

-- ## a group as a launch leaves it (R14, R31)

/-- A map filled from a list, from index `k` on, reads as the list there and as before elsewhere. -/
theorem Sparse.get_foldl_zipIdx_from (l : List Word) (k j : Nat) (m : Sparse Word) :
    Sparse.get 0 ((l.zipIdx k).foldl (fun m (w, i) => Sparse.set 0 m i w) m) j
      = if k ≤ j ∧ j < k + l.length then (l[j - k]?).getD 0 else Sparse.get 0 m j := by
  induction l generalizing k m with
  | nil => rw [if_neg (by rw [List.length_nil]; omega)]; rfl
  | cons a l ih =>
    rw [List.zipIdx_cons, List.foldl_cons, ih, Sparse.get_set, List.length_cons]
    by_cases hj : j = k
    · subst hj
      rw [if_neg (by omega), if_pos rfl, if_pos (by omega), Nat.sub_self, List.getElem?_cons_zero, Option.getD_some]
    · rw [if_neg hj]
      by_cases hr : k + 1 ≤ j ∧ j < k + 1 + l.length
      · rw [if_pos hr, if_pos (by omega), show j - k = j - (k + 1) + 1 by omega, List.getElem?_cons_succ]
      · rw [if_neg hr, if_neg (by omega)]

/-- A map filled from a list reads as the list. -/
theorem Sparse.get_foldl_zipIdx (l : List Word) (j : Nat) :
    Sparse.get 0 (l.zipIdx.foldl (fun m (w, i) => Sparse.set 0 m i w) []) j = (l[j]?).getD 0 := by
  rw [Sparse.get_foldl_zipIdx_from, Nat.sub_zero, Nat.zero_add]
  by_cases hj : j < l.length
  · rw [if_pos ⟨Nat.zero_le j, hj⟩]
  · rw [if_neg fun h => hj h.2, List.getElem?_eq_none (Nat.le_of_not_lt hj)]
    rfl

theorem Group.getS_launch (id : Ident) (entry seed : Word) (rcd : List Word) (table : List (BitVec 32)) (cmp : Comparators) (j : Nat) :
    (Group.launch id entry seed ((List.range 16).map fun j => nth 0 rcd (16 + j)) table cmp).getS j = if j < 16 then nth 0 rcd (16 + j) else 0 := by
  show Sparse.get 0 (List.foldl _ _ _) j = _
  rw [Sparse.get_foldl_zipIdx]
  split
  · rename_i h
    simp [List.getElem?_range h]
  · rename_i h
    rw [List.getElem?_eq_none (by simpa using h)]
    rfl

theorem fresh_launch (id : Ident) (rcd : List Word) (table : List (BitVec 32)) (cmp : Comparators) :
    Fresh (Group.launch id (nth 0 rcd 6) (nth 0 rcd 15) ((List.range 16).map fun j => nth 0 rcd (16 + j)) table cmp) rcd where
  place := ⟨rfl, rfl⟩
  args := Group.getS_launch id _ _ rcd table cmp
  zero := by
    refine ⟨fun _ _ => ⟨rfl, rfl⟩, fun _ => rfl, fun n hn => ⟨?_, ?_⟩, rfl, rfl⟩
    · exact if_neg (by omega)
    · unfold Group.getC
      rw [beq_false_of_ne (by omega), Bool.false_or]
      exact BitVec.getLsbD_zero
  threads := ⟨(by decide : (0xFFFFFFFF : Lane) = BitVec.allOnes 32), (by decide : (0xFFFFFFFF : Lane) = BitVec.allOnes 32), rfl, rfl⟩
  counts := ⟨rfl, rfl, rfl, rfl, rfl, rfl⟩
  tags := ⟨rfl, rfl, rfl⟩
  level := ⟨rfl, rfl, rfl, rfl, rfl⟩

-- ## launching a team on rows that hold nothing

/-- No stash row is mapped, and no group has an access pending. -/
def State.Quiet (s : State) : Prop := s.rows = [] ∧ ∀ g ∈ s.groups, g.ops = []

theorem State.row_of_quiet {s : State} (h : s.rows = []) (key : Nat) : s.row key = Row.plain := by
  unfold State.row
  rw [h]
  rfl

/-- Releasing a row that is not mapped does nothing. -/
theorem State.releaseRow_quiet {s : State} (h : s.Quiet) (key : Nat) : s.releaseRow key = s := by
  obtain ⟨hr, ho⟩ := h
  have hrow := State.row_of_quiet hr key
  have hd : s.drainForward key = s := by
    have hn : s.groups.flatMap (fun g => (g.ops.filter fun o =>
        o.space == .stash && !o.unchecked && o.stores && o.parts.all fun p => p.addr / lineBytes == key).map fun o => (g.id.key, o.id)) = [] :=
      List.flatMap_eq_nil_iff.2 fun g hg => by rw [ho g hg]; rfl
    unfold State.drainForward
    simp only
    rw [hn]
    exact ite_self _
  have hw : s.writeBackRow key = s := by
    unfold State.writeBackRow
    rw [hrow]
    exact if_neg (by decide)
  have hs : s.setRow key Row.plain = s := by
    cases s
    cases hr
    rfl
  unfold State.releaseRow
  simp only
  rw [hd, hw, hrow]
  exact (if_neg (by decide)).trans hs

theorem State.openSig_teams (s : State) (key sign : Nat) : ∃ l, s.openSig key sign = { s with teams := l } := by
  unfold State.openSig
  split
  · exact ⟨s.teams, rfl⟩
  · exact ⟨_, rfl⟩

/-- The groups of a team that is launched with key `key` on what it takes. -/
def State.launchedGroups (s : State) (p : Partition) (c : Cluster) (r : List Word) (x : Shape) (num : Nat) (k : Take) : List Group :=
  k.slots.zipIdx.map fun ((quad, slot, off), i) =>
    Group.launch { key := s.nextKey + 1 + i, tidx := i, vf := c.vf, cluster := c.key, team := s.nextKey, grpid := i, core := k.core, quad, slot, claim := x.regs
                   rowOff := off, cls := c.cls, age := s.clock, passed := 0 }
      (nth 0 r 6) (nth 0 r 15) ((List.range 16).map fun j => nth 0 r (16 + j))
      (if (nth (0 : Word) r 0).getLsbD 10 then nodeFormats r else Fmt.launchTable) (p.comparators (s.attached c.vf) c.clustid num i)

theorem State.launchTeam_quiet {s : State} (h : s.Quiet) (p : Partition) (c : Cluster) (r : List Word) (x : Shape) (num : Nat) (k : Take) :
    let t := s.launchTeam p c r x num k
    t.mem = s.mem ∧ t.clusters = s.clusters ∧ t.rows = s.rows ∧ t.groups = s.groups ++ s.launchedGroups p c r x num k := by
  have hf : ((List.range x.stash).map fun i => k.core * 4096 + k.stashBase + i).foldl (fun s key => s.releaseRow key) s = s :=
    List.foldlRecOn (motive := fun t : State => t = s) _ _ rfl fun t ht key _ => by rw [ht, State.releaseRow_quiet h]
  intro t
  obtain ⟨l, hl⟩ : ∃ l, t = { (_ : State) with teams := l } := State.openSig_teams _ _ _
  rw [hl, hf]
  exact ⟨rfl, rfl, rfl, rfl⟩

theorem State.launchedGroups_fresh {s : State} {p : Partition} {c : Cluster} {r : List Word} {x : Shape} {num : Nat} {k : Take} :
    ∀ g ∈ s.launchedGroups p c r x num k, Fresh g r ∧ g.id.vf = c.vf ∧ g.id.claim = x.regs := by
  intro g hg
  obtain ⟨⟨⟨quad, slot, off⟩, i⟩, -, rfl⟩ := List.mem_map.1 hg
  exact ⟨fresh_launch .., rfl, rfl⟩

theorem State.launchedGroups_length (s : State) (p : Partition) (c : Cluster) (r : List Word) (x : Shape) (num : Nat) (k : Take) :
    (s.launchedGroups p c r x num k).length = k.slots.length := by
  unfold State.launchedGroups
  rw [List.length_map, List.length_zipIdx]

/-- The teams of a cluster, launched one after another. -/
theorem State.launchTeams_quiet {p : Partition} {c : Cluster} {r : List Word} {x : Shape} (l : List (Take × Nat)) {s : State} (h : s.Quiet) :
    let t := l.foldl (fun s (k, n) => s.launchTeam p c r x n k) s
    t.mem = s.mem ∧ t.clusters = s.clusters ∧ ∃ new : List Group, t.groups = s.groups ++ new ∧ new.length = (l.map fun e => e.1.slots.length).sum ∧
      ∀ g ∈ new, Fresh g r ∧ g.id.vf = c.vf ∧ g.id.claim = x.regs := by
  induction l generalizing s with
  | nil => exact ⟨rfl, rfl, [], (List.append_nil _).symm, rfl, fun _ hg => nomatch hg⟩
  | cons e l ih =>
    obtain ⟨k, n⟩ := e
    obtain ⟨hm, hc, hr, hg⟩ := State.launchTeam_quiet h p c r x n k
    have hf := State.launchedGroups_fresh (s := s) (p := p) (c := c) (r := r) (x := x) (num := n) (k := k)
    have hq : (s.launchTeam p c r x n k).Quiet := by
      refine ⟨hr.trans h.1, fun g hmem => ?_⟩
      rw [hg, List.mem_append] at hmem
      exact hmem.elim (h.2 g) fun hn => (hf g hn).1.counts.2.2.2.2.1
    obtain ⟨hm', hc', new, hn, hlen, hnew⟩ := ih hq
    refine ⟨hm'.trans hm, hc'.trans hc, s.launchedGroups p c r x n k ++ new, ?_, ?_, fun g hmem => ?_⟩
    · rw [← List.append_assoc, ← hg]
      exact hn
    · rw [List.length_append, State.launchedGroups_length, hlen, List.map_cons, List.sum_cons]
    · exact (List.mem_append.1 hmem).elim (hf g) (hnew g)

-- ## the dispatcher places a cluster (R168, R169, R170)

theorem State.noteSpine_parts (s : State) (vf code a : Nat) (more : List Word) : ∃ l, s.noteSpine vf code a more = { s with parts := l } := by
  unfold State.noteSpine
  split
  · unfold State.logEvent
    split
    · rename_i he
      cases he
    · split
      · exact ⟨_, rfl⟩
      · exact ⟨s.parts, rfl⟩
  · exact ⟨s.parts, rfl⟩

theorem State.launchCluster_quiet {s : State} (h : s.Quiet) (part vf gslot node count cls i : Nat) (r : List Word) (x : Shape) (a : Rect) :
    let t := s.launchCluster part vf gslot node count cls i r x a
    t.mem = s.mem ∧ (∃ c, t.clusters = s.clusters ++ [c] ∧ c.vf = vf ∧ c.clustid = i ∧ c.residence = .resident ∧ c.gslot = gslot ∧ c.node = node) ∧
      ∃ new : List Group, t.groups = s.groups ++ new ∧ new.length = (a.takes.map fun k => k.slots.length).sum ∧
        ∀ g ∈ new, Fresh g r ∧ g.id.vf = vf ∧ g.id.claim = x.regs := by
  let c : Cluster := {
    key := s.nextKey, vf, gslot, node, launch := count, clustid := i, cls, leaf := a.leaf, x := a.x, y := a.y, w := x.w, h := x.h
    residence := .resident, resumable := true, atck := false, halting := false, atGrid := false, cause := 0, told := 0, started := s.ns }
  let s1 : State := { s.setPart { s.part part with served := (s.part part).served + x.w * x.h } with nextKey := s.nextKey + 1, clusters := s.clusters ++ [c] }
  obtain ⟨hm, hc, new, hn, hlen, hnew⟩ := State.launchTeams_quiet (p := s.part part) (c := c) (r := r) (x := x) a.takes.zipIdx (s := s1) h
  intro t
  obtain ⟨l, hl⟩ : ∃ l, t = { a.takes.zipIdx.foldl (fun s' (k, n) => s'.launchTeam (s.part part) c r x n k) s1 with parts := l } :=
    State.noteSpine_parts ..
  rw [hl]
  refine ⟨hm, ⟨c, hc, rfl, rfl, rfl, rfl, rfl⟩, new, hn, hlen.trans ?_, hnew⟩
  rw [show (fun e : Take × Nat => e.1.slots.length) = (fun k : Take => k.slots.length) ∘ Prod.fst from rfl, ← List.map_map, List.zipIdx_map_fst]

theorem State.makeRoom_free {s : State} {p : Partition} {cls : Nat} {x : Shape} {r : Rect} (h : s.findRect p cls x (fun _ => false) = some r)
    (may : Cluster → Bool) : s.makeRoom p cls x may = some (s, r) := by
  unfold State.makeRoom
  rw [h]

/-- A kernel with a rectangle free for its next cluster, within its limits, has that cluster launched there. -/
theorem State.placeOne_free {s : State} {h : Head} {r : Rect} (hr : s.findRect (s.part h.p.num) h.cls (shapeOf h.rcd) (fun _ => false) = some r)
    (hf : s.claimFits (s.part h.p.num) h.vf (shapeOf h.rcd).dirty = true) (i : Nat) :
    s.placeOne h i true = some (s.launchCluster h.p.num h.vf h.item.gslot h.item.node h.count h.cls i h.rcd (shapeOf h.rcd) r) := by
  unfold State.placeOne
  simp only
  rw [State.makeRoom_free hr]
  simp [hf]

theorem State.placeNext_one {s t : State} {h : Head} (hc : h.refused (s.det h.vf) = none)
    (hd : s.det h.vf = true ∨ (nth (0 : Word) h.rcd 0).getLsbD 8 = false) (he : s.clusters = []) (hp : s.placeOne h h.run.placed true = some t) :
    s.placeNext h = .on t 1 := by
  unfold State.placeNext
  simp only
  rw [hc]
  refine (if_neg ?_).trans ((if_neg ?_).trans ?_)
  · rcases hd with h | h <;> rw [h] <;> simp
  · rw [he]
    simp
  · rw [hp]

theorem State.runKernel_on {s t : State} {h : Head} {n : Nat} (hr : h.run.state = .running) (hp : s.placeNext h = .on t n) :
    ∃ u, s.runKernel h = some u ∧ t.VfsOnly u := by
  have h0 : (if h.run.state = .ready then s.startNode h else s) = s := if_neg (by rw [hr]; decide)
  have h2 := State.vfsOnly_setNode t h.vf h.item.gslot h.item.node fun r => { r with placed := r.placed + n }
  unfold State.runKernel
  simp only
  rw [h0, hp]
  refine ⟨_, rfl, ?_⟩
  split
  · exact h2.trans (State.vfsOnly_unqueue ..)
  · exact h2

theorem State.tryHeads_kernel {s t : State} {h : Head} (ht : nodeType h.rcd = 0) (hk : s.runKernel h = some t) (l : List Head) :
    s.tryHeads (h :: l) = some t := by
  unfold State.tryHeads
  rw [if_neg (not_not_intro ht), hk]

-- ## a cluster that is over leaves (R170)

theorem State.vfsOnly_teams {s t : State} (h : s.VfsOnly t) : t.clusters = s.clusters ∧ t.teams = s.teams := by
  obtain ⟨v, rfl⟩ := h
  exact ⟨rfl, rfl⟩

theorem State.unpin_teams (s : State) (vf : Nat) : (s.unpin vf).clusters = s.clusters ∧ (s.unpin vf).teams = s.teams := by
  unfold State.unpin
  split <;> exact ⟨rfl, rfl⟩

theorem exec_clusterRetire_waits {s : State} {key : Nat} {c : Cluster} (hc : s.reap.cluster? key = some c) (h : s.reap.clusterOver c = false) :
    exec (.clusterRetire key) s = .next s.reap := by
  show execClusterRetire key s = _
  unfold execClusterRetire
  simp only
  rw [hc]
  exact if_pos (by rw [h]; rfl)

theorem State.slots_teams (s : State) (l : List Slot) (b : Bool) :
    (if b = true then { s with slots := l } else s).clusters = s.clusters ∧ (if b = true then { s with slots := l } else s).teams = s.teams := by
  split <;> exact ⟨rfl, rfl⟩

/-- A cluster that is over is dropped, and what follows in its node and its pins brings neither it nor a team of it back. -/
theorem exec_clusterRetire_over {s : State} {key : Nat} {c : Cluster} (hc : s.reap.cluster? key = some c) (h : s.reap.clusterOver c = true) :
    ∃ u t, exec (.clusterRetire key) s = .next t ∧ t.clusters = (State.dropCluster u c).clusters ∧ t.teams = (State.dropCluster u c).teams := by
  have hx : ∃ u f t, exec (.clusterRetire key) s = .next t ∧
      t.clusters = (((State.dropCluster u c).setNode c.vf c.gslot c.node f).unpin c.vf).clusters ∧
      t.teams = (((State.dropCluster u c).setNode c.vf c.gslot c.node f).unpin c.vf).teams := by
    show ∃ u f t, execClusterRetire key s = _ ∧ _
    unfold execClusterRetire
    simp only
    rw [hc]
    exact ⟨_, _, _, if_neg (by rw [h]; decide), State.slots_teams _ _ _⟩
  obtain ⟨u, f, t, ht, hcl, htm⟩ := hx
  obtain ⟨pc, pt⟩ := State.unpin_teams ((State.dropCluster u c).setNode c.vf c.gslot c.node f) c.vf
  obtain ⟨vc, vt⟩ := State.vfsOnly_teams (State.vfsOnly_setNode (State.dropCluster u c) c.vf c.gslot c.node f)
  exact ⟨u, t, ht, hcl.trans (pc.trans vc), htm.trans (pt.trans vt)⟩

theorem State.dropCluster_gone (s : State) (c : Cluster) :
    (s.dropCluster c).clusters.find? (fun d => d.key == c.key) = none ∧ ∀ m ∈ (s.dropCluster c).teams, m.cluster ≠ c.key := by
  refine ⟨List.find?_eq_none.2 fun d hd => ?_, fun m hm => ?_⟩
  · simpa using (List.mem_filter.1 hd).2
  · simpa using (List.mem_filter.1 hm).2

-- ## the statement

/-- Settles O51, clause by clause. A completion keeps its node done because a successor is released only while it waits, and a launch finds no
row mapped and no access pending, so that it moves no byte of memory. -/
theorem nodesAndClusters : Obligations.NodesAndClusters := by
  unfold Obligations.NodesAndClusters
  intro s
  refine ⟨fun h hh hl ht hok hn => ?_, fun h r hh _ ht hr hc hd he hrow hops hf hfit => ?_, fun vf k idx x n p hx hn hr => ?_, ?_, fun key c hc => ?_⟩
  · exact ⟨_, exec_dispatchStep hh (if_pos (by rw [ht]; decide)), State.startOther_copy hl ht hok hn⟩
  · obtain ⟨u, hu, hv⟩ := State.runKernel_on hr (State.placeNext_one hc hd he (State.placeOne_free hf hfit h.run.placed))
    have hx := exec_dispatchStep hh (State.tryHeads_kernel ht hu [])
    obtain ⟨hm, ⟨c, hcl, hc'⟩, new⟩ := State.launchCluster_quiet (s := s) ⟨hrow, hops⟩ h.p.num h.vf h.item.gslot h.item.node h.count h.cls
      h.run.placed h.rcd (shapeOf h.rcd) r
    rw [he] at hcl
    obtain ⟨v, rfl⟩ := hv
    exact ⟨_, hx, hm, ⟨c, hcl, hc'⟩, new⟩
  · refine ⟨fun hp hs hw => ⟨fun s1 bs ht hrd hn1 => ?_, fun s1 ht hwr hn1 => ?_⟩, fun _ hd => exec_kernelComplete_waits hx hn hd,
      fun ht hpl hd hsl => ⟨_, exec_kernelComplete hx hn hr ht hpl hd hsl, State.nodeDone_mem hn⟩⟩
    · have he := (exec_eventWaitPoll hx hp hs).trans (congrArg Host.Outcome.next (State.actNode_wait hx hn hr hw ht hrd))
      refine ⟨fun hlt => ?_, fun hle => ?_⟩
      · rw [he, if_neg (Nat.not_le.2 hlt)]
      · rw [if_pos hle] at he
        exact ⟨_, he, State.nodeDone_mem hn1⟩
    · exact ⟨_, (exec_eventWaitPoll hx hp hs).trans (congrArg Host.Outcome.next (State.actNode_signal hx hn hr hw ht hwr)), State.nodeDone_mem hn1⟩
  · exact fun vf k x y l s1 hx hl hp hw hf hr hd hwr h0 hy =>
      ⟨_, exec_launchComplete hx hl hp hw hf hr hd hwr h0 hy, rfl, State.slot?_closeLaunch hy⟩
  · obtain rfl : c.key = key := by simpa using List.find?_some hc
    refine ⟨exec_clusterRetire_waits hc, fun ho => ?_⟩
    obtain ⟨u, t, ht, hcl, htm⟩ := exec_clusterRetire_over hc ho
    obtain ⟨gc, gt⟩ := State.dropCluster_gone u c
    refine ⟨t, ht, ?_, ?_⟩
    · unfold State.cluster?
      rw [hcl]
      exact gc
    · rw [htm]
      exact gt

end Sys2Proof.Machine
end

section
/-! PROOFS. The values of scalar arithmetic, logic, bit counts, bit fields and moves, and the division words. -/
namespace Sys2Proof.Machine

-- ## values as the model computes them and as the rules give them

/-- A sum of numbers, as the word that it is modulo 2^64 (R83). -/
theorem sum_of_toNat (a b : Word) : BitVec.ofNat 64 (a.toNat + b.toNat) = a + b := by
  rw [BitVec.ofNat_add, BitVec.ofNat_toNat, BitVec.ofNat_toNat, BitVec.setWidth_eq, BitVec.setWidth_eq]

/-- A difference of numbers, as the word that it is modulo 2^64 (R83). -/
theorem difference_of_toNat (a b : Word) : BitVec.ofInt 64 ((a.toNat : Int) - (b.toNat : Int)) = a - b := by
  refine BitVec.eq_of_toInt_eq ?_
  rw [BitVec.toInt_ofInt, BitVec.toInt_sub, BitVec.toInt_eq_toNat_bmod, BitVec.toInt_eq_toNat_bmod, Int.sub_bmod_bmod, Int.bmod_sub_bmod]

/-- The low half of a product, from the signed operands (R83). -/
theorem product_of_toInt (a b : Word) : BitVec.ofInt 64 (a.toInt * b.toInt) = a * b := by
  rw [BitVec.ofInt_mul, BitVec.ofInt_toInt, BitVec.ofInt_toInt]

/-- The high half of a product, rounded toward minus infinity (R83). -/
theorem high_product (a b : Word) : BitVec.ofInt 64 (Int.fdiv (a.toInt * b.toInt) (2 ^ 64)) = BitVec.ofInt 64 (a.toInt * b.toInt / 2 ^ 64) := by
  rw [Int.fdiv_eq_ediv_of_nonneg _ (by decide)]

/-- A left shift multiplies by a power of two (R83). -/
theorem shiftLeft_eq_mul (a : Word) (n : Nat) : a <<< n = BitVec.ofNat 64 (a.toNat * 2 ^ n) := by
  refine BitVec.eq_of_toNat_eq ?_
  rw [BitVec.toNat_shiftLeft, BitVec.toNat_ofNat, Nat.shiftLeft_eq]

/-- A logical right shift divides by a power of two (R83). -/
theorem ushiftRight_eq_div (a : Word) (n : Nat) : a >>> n = BitVec.ofNat 64 (a.toNat / 2 ^ n) := by
  refine BitVec.eq_of_toNat_eq ?_
  rw [BitVec.toNat_ushiftRight, BitVec.toNat_ofNat, Nat.shiftRight_eq_div_pow,
    Nat.mod_eq_of_lt (Nat.lt_of_le_of_lt (Nat.div_le_self ..) a.isLt)]

/-- An arithmetic right shift divides toward minus infinity (R83). -/
theorem sshiftRight_eq_fdiv (a : Word) (n : Nat) : a.sshiftRight n = BitVec.ofInt 64 (Int.fdiv a.toInt (2 ^ n)) := by
  have hpos : (0 : Int) ≤ 2 ^ n := Int.le_of_lt (Int.pow_pos (by decide))
  rw [Int.fdiv_eq_ediv_of_nonneg _ hpos]
  show BitVec.ofInt 64 (a.toInt >>> n) = _
  rw [Int.shiftRight_eq_div_pow, Int.natCast_pow]
  rfl

/-- How far a scan of a range runs that its first failing position ends. -/
theorem length_takeWhile_range {p : Nat → Bool} {n k : Nat} (hk : k ≤ n) (hp : ∀ j, j < k → p j = true) (he : k < n → p k = false) :
    ((List.range n).takeWhile p).length = k := by
  obtain ⟨m, rfl⟩ := Nat.exists_eq_add_of_le hk
  rw [List.range_add, List.takeWhile_append_of_pos fun j hj => hp j (List.mem_range.1 hj), List.length_append, List.length_range]
  cases m with
  | zero => rfl
  | succ m =>
    rw [List.range_succ_eq_map, List.map_cons, List.takeWhile_cons_of_neg (by simpa using he (by omega))]
    rfl

/-- The zeros above the highest one of a word (R84). -/
theorem leading_zeros (a : Word) :
    ((List.range 64).takeWhile fun i => !a.getLsbD (63 - i)).length = if a = 0 then 64 else 63 - Nat.log2 a.toNat := by
  by_cases h0 : a = 0
  · subst h0
    rfl
  · have hn : a.toNat ≠ 0 := fun h => h0 (BitVec.eq_of_toNat_eq h)
    have hlog : Nat.log2 a.toNat < 64 := (Nat.log2_lt hn).2 a.isLt
    rw [if_neg h0]
    refine length_takeWhile_range (by omega) (fun j hj => ?_) fun _ => ?_
    · have hlt : a.toNat < 2 ^ (63 - j) := (Nat.log2_lt hn).1 (by omega)
      simp only [BitVec.getLsbD, Nat.testBit_lt_two_pow hlt, Bool.not_false]
    · rw [show 63 - (63 - Nat.log2 a.toNat) = Nat.log2 a.toNat by omega]
      simp only [BitVec.getLsbD, Nat.testBit_log2 hn, Bool.not_true]

/-- Position and length of a bit field are the two fields of IMM (R85). -/
theorem fieldPos_eq (o : OpS) : fieldPos o = bitPos o := by
  unfold fieldPos bitPos
  rw [BitVec.extractLsb'_toNat, Nat.shiftRight_zero]
theorem fieldLen_eq (o : OpS) : fieldLen o = bitLen o := by
  unfold fieldLen bitLen
  rw [BitVec.extractLsb'_toNat, Nat.shiftRight_eq_div_pow]

/-- A field with its top bit as the sign (R85). -/
theorem signed_field (f n : Nat) :
    (f : Int) - (if f.testBit (n - 1) then 2 ^ n else 0) = (f : Int) - 2 ^ n * ((f.testBit (n - 1)).toNat : Int) := by
  cases f.testBit (n - 1) <;> simp

/-- A word with a field of it replaced, as a difference and a sum of numbers (R85). -/
theorem replaced_field (d p n x : Nat) :
    BitVec.ofNat 64 (d - d / 2 ^ p % 2 ^ n * 2 ^ p + x) = BitVec.ofInt 64 ((d : Int) - ((d / 2 ^ p % 2 ^ n * 2 ^ p : Nat) : Int) + (x : Int)) := by
  have hle : d / 2 ^ p % 2 ^ n * 2 ^ p ≤ d :=
    Nat.le_trans (Nat.mul_le_mul_right _ (Nat.mod_le ..)) (Nat.div_mul_le_self ..)
  rw [← Int.ofNat_sub hle, ← Int.natCast_add, BitVec.ofInt_natCast]

/-- `slih` puts IMM above the low half (R86). -/
theorem append_low_half (i : BitVec 32) (d : Word) : i ++ d.extractLsb' 0 32 = BitVec.ofNat 64 (i.toNat * 2 ^ 32 + d.toNat % 2 ^ 32) := by
  have hi : i.toNat < 2 ^ 32 := i.isLt
  have hd : d.toNat % 2 ^ 32 < 2 ^ 32 := Nat.mod_lt _ (by decide)
  refine BitVec.eq_of_toNat_eq ?_
  rw [BitVec.toNat_append, BitVec.extractLsb'_toNat, Nat.shiftRight_zero, ← Nat.shiftLeft_add_eq_or_of_lt hd, Nat.shiftLeft_eq,
    BitVec.toNat_ofNat]
  exact (Nat.mod_eq_of_lt (by omega)).symm

-- ## words that write s[SD]

/-- A scalar word whose COND bit is 1 and that writes s[SD]. -/
theorem scalar_setSd {s : State} {g : Group} {i : Instr} {op : Nat} {r : Enc.RowS} {o : OpS} {f : State → Group → WordRes} {x : Word}
    (he : exec i s = runScalar s i o f) (h : Issues s g i) (hi : Enc.shape i = .s op r o) (hc : g.getC o.cond.toNat = true)
    (hf : f s g = setSd s g o x) :
    ∃ t k, exec i s = .next t ∧ Retired s t g k (g.pc + 8) ∧ k.getS o.sd.toNat = x ∧ SameGroup g k { s := (· = o.sd.toNat) } := by
  obtain ⟨t, k, hn, hr, hk, hs⟩ := scalar_next (m := { s := (· = o.sd.toNat) }) he h hi hc hf (Group.setS_pc ..) (Group.setS_ltime ..)
    (SameGroup.setS _ _ rfl)
  refine ⟨t, k, hn, hr, ?_, hs⟩
  rw [hk.s _ id, Group.getS_setS, if_pos rfl]

/-- What a scalar word of arithmetic, logic, bit counts, bit fields or moves runs under its COND bit. -/
theorem exec_scalarResult {g : Group} {i : Instr} {o : OpS} {x : Word} (hr : scalarResult g i = some (o, x)) (s : State) :
    ∃ f op r, Enc.shape i = .s op r o ∧ exec i s = runScalar s i o f ∧ f s g = setSd s g o x := by
  unfold scalarResult at hr
  split at hr <;> cases hr
  all_goals dsimp only [exec, execSadd, execSsub, execSmul, execSmulh, execSand, execSor, execSxor, execSshl, execSshr, execSsra, execSmin,
    execSmax, execSminu, execSmaxu, execSclz, execSpopc, execSext, execSins, execSsel, execSmov, execSli, execSlih, scalar2]
  all_goals refine ⟨_, _, _, rfl, rfl, congrArg (setSd s g o) ?_⟩
  case h_1.refl => exact (sum_of_toNat ..).symm
  case h_2.refl => exact (difference_of_toNat ..).symm
  case h_3.refl => exact (product_of_toInt ..).symm
  case h_4.refl => exact (high_product ..).symm
  case h_8.refl => exact shiftLeft_eq_mul ..
  case h_9.refl => exact ushiftRight_eq_div ..
  case h_10.refl => exact sshiftRight_eq_fdiv ..
  case h_11.refl | h_12.refl => simp only [BitVec.sle_iff_toInt_le, ge_iff_le]; rfl
  case h_15.refl => exact congrArg _ (leading_zeros _)
  case h_16.refl => exact congrArg _ List.countP_eq_length_filter.symm
  case h_17.refl => rw [signed_field, fieldPos_eq, fieldLen_eq]
  case h_18.refl => rw [replaced_field, fieldPos_eq, fieldLen_eq]
  case h_19.refl => rw [BitVec.extractLsb'_toNat, Nat.shiftRight_zero]
  case h_21.refl => exact (BitVec.ofNat_toNat ..).symm
  case h_22.refl => exact append_low_half ..
  all_goals rfl

/-- What a division word runs under its COND bit: the trap of a zero divisor with the word's OP, else the result (R83). -/
theorem exec_division {g : Group} {i : Instr} {o : OpS} {x : Word} (hr : divisionResult g i = some (o, x)) (s : State) :
    ∃ f op r, Enc.shape i = .s op r o ∧ exec i s = runScalar s i o f ∧
      f s g = if g.opB o = 0 then .trap (mkTrap 5 1 (if i = .sdiv o then 4 else 5)) else setSd s g o x := by
  unfold divisionResult at hr
  split at hr <;> cases hr
  all_goals dsimp only [exec, execSdiv, execSrem, scalarDiv]
  all_goals refine ⟨_, _, _, rfl, rfl, ?_⟩
  · rw [if_pos (rfl : Instr.sdiv o = .sdiv o)]
    rfl
  · rw [if_neg (show Instr.srem o ≠ .sdiv o from nofun), Int.tmod_def]
    rfl

/-- Settles O6: each word runs under its COND bit, and writes the value that the rules give; a division looks at its divisor first. -/
theorem scalarResults : Obligations.ScalarResults := by
  refine ⟨fun s g i o x h hr hc => ?_, fun s g i o x h hr hc => ?_⟩
  · obtain ⟨f, op, r, hi, he, hf⟩ := exec_scalarResult hr s
    exact scalar_setSd he h hi hc hf
  · obtain ⟨f, op, r, hi, he, hf⟩ := exec_division hr s
    exact ⟨fun hb => scalar_setSd he h hi hc (hf.trans (if_neg hb)), fun hb => scalar_traps he h hi hc (hf.trans (if_pos hb))⟩
end Sys2Proof.Machine
end

section
/-! PROOFS. Control transfer: where branches, calls, returns and loops go. -/
namespace Sys2Proof.Machine

-- ## targets

/-- The model's branch target is the address that the rule names (R70, R89). -/
theorem branchTarget_eq (g : Group) (o : OpS) : branchTarget g.pc o.imm = targetOf g o := by
  unfold branchTarget targetOf
  rw [BitVec.ofInt_add, BitVec.ofInt_add, BitVec.ofInt_mul, BitVec.ofInt_natCast, BitVec.ofNat_toNat, BitVec.setWidth_eq, BitVec.mul_comm]
  rfl

/-- The low three bits of an address are its rest by 8. -/
theorem low_bits_zero_iff (t : Word) : t.extractLsb' 0 3 = 0 ↔ t.toNat % 8 = 0 := by
  rw [← BitVec.toNat_inj, BitVec.extractLsb'_toNat, Nat.shiftRight_zero]
  rfl

theorem jump_aligned {t : Word} (h : t.toNat % 8 = 0) (s : State) (g : Group) : jump s g t = .done s g t {} :=
  if_pos ((low_bits_zero_iff t).2 h)

theorem jump_misaligned {t : Word} (h : t.toNat % 8 ≠ 0) (s : State) (g : Group) : jump s g t = .trap (mkTrap 8 2 t.toNat) :=
  if_neg (mt (low_bits_zero_iff t).1 h)

-- ## words that transfer

/-- A scalar word whose COND bit is 1 and that goes to an address of its own, and writes nothing. -/
theorem scalar_goes {s : State} {g : Group} {i : Instr} {op : Nat} {r : Enc.RowS} {o : OpS} {f : State → Group → WordRes} {pc : Word}
    (he : exec i s = runScalar s i o f) (h : Issues s g i) (hi : Enc.shape i = .s op r o) (hc : g.getC o.cond.toNat = true)
    (hf : f s g = .done s g pc {}) : ∃ t k, exec i s = .next t ∧ Retired s t g k pc ∧ SameGroup g k {} := by
  obtain ⟨t, k, hn, hr, -, hs⟩ := runScalar_retires h hi hc hf rfl (SameGroup.refl g {})
  exact ⟨t, k, he.trans hn, hr, hs⟩

/-- A scalar word whose COND bit is 1 and that goes to an address of its own with one scalar register written. -/
theorem scalar_goes_setS {s : State} {g : Group} {i : Instr} {op : Nat} {r : Enc.RowS} {o : OpS} {f : State → Group → WordRes} {pc x : Word}
    {n : Nat} {w : Writes} (he : exec i s = runScalar s i o f) (h : Issues s g i) (hi : Enc.shape i = .s op r o)
    (hc : g.getC o.cond.toNat = true) (hf : f s g = .done s (g.setS n x) pc w) :
    ∃ t k, exec i s = .next t ∧ Retired s t g k pc ∧ k.getS n = x ∧ SameGroup g k { s := (· = n) } := by
  obtain ⟨t, k, hn, hr, hregs, hs⟩ := runScalar_retires (m := { s := (· = n) }) h hi hc hf (Group.setS_ltime ..) (SameGroup.setS _ _ rfl)
  refine ⟨t, k, he.trans hn, hr, ?_, hs⟩
  have hk : k.getS n = (g.setS n x).getS n := by unfold Group.getS; rw [hregs]
  rw [hk, Group.getS_setS, if_pos rfl]

/-- `bcc` reads COND as its operand: it runs with either value, and goes on where the bit is 1 (R90). -/
theorem bcc_retires {s : State} {g : Group} {o : OpS} (h : Issues s g (.bcc o)) :
    ∃ t k, exec (.bcc o) s = .next t ∧ Retired s t g k (if g.getC o.cond.toNat then g.pc + 8 else targetOf g o) ∧ SameGroup g k {} := by
  obtain ⟨t, k, hn, hr, -, hs⟩ := runWord_retires (g' := g) (w := {})
    (f := fun s g => if g.getC o.cond.toNat then .next s g else .done s g (branchTarget g.pc o.imm) {})
    (pc := if g.getC o.cond.toNat then g.pc + 8 else targetOf g o) h
    (by rw [Group.latched_scalar rfl, branchTarget_eq]; split <;> rfl) rfl (SameGroup.refl g {})
  exact ⟨t, k, hn, hr, hs⟩

theorem exec_bra (o : OpS) (s : State) :
    exec (.bra o) s = runScalar s (.bra o) o fun s g => .done s g (branchTarget g.pc o.imm) {} := rfl
theorem exec_call (o : OpS) (s : State) :
    exec (.call o) s = runScalar s (.call o) o fun s g =>
      .done s (g.setS 63 (g.pc + 8)) (branchTarget g.pc o.imm) { regs := [{ kind := 5, num := 63 }] } := rfl
theorem exec_ret (o : OpS) (s : State) : exec (.ret o) s = runScalar s (.ret o) o fun s g => jump s g (g.getS 63) := rfl
theorem exec_jr (o : OpS) (s : State) : exec (.jr o) s = runScalar s (.jr o) o fun s g => jump s g (g.getS o.sa.toNat) := rfl
theorem exec_loop (o : OpS) (s : State) :
    exec (.loop o) s = runScalar s (.loop o) o fun s g =>
      if g.getS o.sa.toNat = 0 then .next s g
      else .done s (g.setS o.sa.toNat (g.getS o.sa.toNat - 1)) (if g.getS o.sa.toNat - 1 = 0 then g.pc + 8 else branchTarget g.pc o.imm)
        { regs := [{ kind := 5, num := o.sa.toNat }] } := rfl

/-- A count of turns that is not 0, less one: its number, and whether one is left (R92). -/
theorem count_down {n : Word} (h : n ≠ 0) : n - 1 = BitVec.ofNat 64 (n.toNat - 1) ∧ (n - 1 = 0 ↔ ¬ 1 < n.toNat) := by
  have h0 : n.toNat ≠ 0 := fun hn => h (BitVec.eq_of_toNat_eq hn)
  have h1 : (n - 1).toNat = n.toNat - 1 := by
    bv_omega
  refine ⟨?_, ?_⟩
  · rw [← h1, BitVec.ofNat_toNat, BitVec.setWidth_eq]
  · rw [← BitVec.toNat_inj, h1]
    show n.toNat - 1 = 0 ↔ _
    omega

/-- `loop` counts its register down to 0 and no further, and transfers while more than one turn was left (R92). -/
theorem loop_retires {s : State} {g : Group} {o : OpS} (h : Issues s g (.loop o)) (hc : g.getC o.cond.toNat = true) :
    ∃ t k, exec (.loop o) s = .next t ∧ Retired s t g k (if 1 < (g.getS o.sa.toNat).toNat then targetOf g o else g.pc + 8) ∧
      k.getS o.sa.toNat = BitVec.ofNat 64 ((g.getS o.sa.toNat).toNat - 1) ∧ SameGroup g k { s := (· = o.sa.toNat) } := by
  by_cases h0 : g.getS o.sa.toNat = 0
  · obtain ⟨t, k, hn, hr, hs⟩ := scalar_goes (exec_loop o s) h rfl hc (if_pos h0)
    refine ⟨t, k, hn, ?_, ?_, hs.mono _⟩
    · rw [h0]
      exact hr
    · rw [hs.s _ id, h0]
      rfl
  · obtain ⟨hv, hz⟩ := count_down h0
    obtain ⟨t, k, hn, hr, hk, hs⟩ := scalar_goes_setS (exec_loop o s) h rfl hc (if_neg h0)
    refine ⟨t, k, hn, ?_, hk.trans hv, hs⟩
    by_cases h1 : 1 < (g.getS o.sa.toNat).toNat
    · rw [if_neg (mt hz.1 (not_not_intro h1)), branchTarget_eq] at hr
      rwa [if_pos h1]
    · rw [if_pos (hz.2 h1)] at hr
      rwa [if_neg h1]

/-- Settles O8: each transfer in turn, with its COND bit 1 or 0; the jumps to a register look at its low bits first. -/
theorem scalarTransfers : Obligations.ScalarTransfers := by
  refine ⟨fun s g o => ⟨fun h hc => ?_, fun h hc => ?_, fun h hc => ?_, bcc_retires, fun h hc => ?_, fun h hc ha => ?_, fun h hc ha => ?_,
    loop_retires⟩, fun s g o hc => ⟨fun h ha => ?_, fun h ha => ?_⟩⟩
  · exact scalar_goes (exec_bra o s) h rfl hc (congrArg (WordRes.done s g · {}) (branchTarget_eq g o))
  · exact scalarConditions.2 s g (.bra o) _ _ o h rfl nofun hc
  · exact scalarConditions.2 s g (.loop o) _ _ o h rfl nofun hc
  · exact scalar_goes_setS (exec_call o s) h rfl hc
      (congrArg (WordRes.done s (g.setS 63 (g.pc + 8)) · { regs := [{ kind := 5, num := 63 }] }) (branchTarget_eq g o))
  · exact scalar_goes (exec_ret o s) h rfl hc (jump_aligned ha s g)
  · exact scalar_goes (exec_jr o s) h rfl hc (jump_aligned ha s g)
  · exact scalar_traps (exec_ret o s) h rfl hc (jump_misaligned ha s g)
  · exact scalar_traps (exec_jr o s) h rfl hc (jump_misaligned ha s g)
end Sys2Proof.Machine
end

section
/-! PROOFS. Memory words at issue: a state, with one partition number listed twice, in which a load that passes its checks does not retire. -/
namespace Sys2Proof.Machine
set_option maxRecDepth 100000

-- ## two partitions of one number

/-- A part in service with one launched group on core 0, with the page tables of log entry 8. -/
def servedPart : State := State.reset.inService.oneGroup

/-- Its group, with one active lane. -/
def loadingGroup : Group := { (servedPart.group? 3).get (by decide) with mask := 1, live := 1 }

/-- `vld v6 ← [s4 + 4 × v5]`, at address 0 since both registers are 0. -/
def loadOfLane : OpM := { pred := 7, fmt := 0, d := 6, a := 5, disp := 0, sb := 4, scl := 2, wid := 2, uc := 0, dz := 0, sco := 0, ord := 0 }

/-- A read of a register row by the sequencer of the group's team. -/
def sequencerRead : ConfAccess :=
  { agent := { servedPart.agentOf loadingGroup with kind := 2 }, counts := loadingGroup.counts, isWrite := false, isRed := false, isAtom := false
    inst := 0, cmd := 0 }

/-- Partition 0 stands twice in the list, first without and then with the group's virtual function, and partition 1 has the virtual
function too. The group's mode is that of the first entry (DET = 0, LOG = RECORD) until its walk logs an event: the line of the root table
was last written by another agent. The logged partition is put in the place of both entries, which leaves the virtual function to partition
1, with DET = 1. The sequencer of the group's team has read the row that the load returns to, a conflict with DET = 1 alone (R299). -/
def twinParts : State :=
  { servedPart with
    groups := [loadingGroup]
    cur := .group 3
    parts := [{ Partition.reset 0 with mode := 4, ps2root := 0x10001 }, servedPart.part 0, { servedPart.part 0 with num := 1, mode := 1 }]
    teams := servedPart.teams.map fun t => { t with mx := [loadingGroup.id.grpid] }
    orders := [(512, { epoch := 0, seq := 0, x := false, rc := 0, w := 0 })]
    conflicts := [(rowLoc 3 6, { accesses := [sequencerRead] })] }

/-- What the word asks for: lane 0 reads four bytes at 0 into v6. -/
def loadPlan : AccessPlan :=
  (memoryWord loadingGroup (.vldG loadOfLane)).getD { req := { kind := .load }, lanes := [], ok := False }

/-- The state that the translation of its address leaves. -/
def walkedParts : State := (twinParts.resolve loadingGroup loadPlan.req loadPlan.lanes [0]).2

theorem twin_issues : Issues twinParts loadingGroup (.vldG loadOfLane) where
  cur := by decide
  free := by decide
  room := fun _ => by decide
  whole := by decide
  checked := fun h => absurd h (by decide)
  unlogged := by decide
  rows := fun h => absurd h (by decide)

theorem twin_passes : Passes twinParts loadingGroup loadPlan [(0, 0)] walkedParts where
  room := by decide
  table := by decide
  unwatched := by decide
  placed := ⟨[0], rfl, rfl, by decide⟩
  group := by decide
  plain := by
    intro p hp off hw
    obtain rfl := List.mem_singleton.1 hp
    exact nomatch show none = some (Window.vf loadingGroup.id.vf, off) from hw

theorem twin_destination : loadPlan.ok :=
  ⟨show _ ≤ _ by decide, fun _ => show _ ≤ _ by decide⟩

/-- The word ends in a trap: its group's LTIME stands. -/
theorem twin_not_retired {t : State} {h : Group} (he : exec (.vldG loadOfLane) twinParts = .next t) (hg : t.group? 3 = some h) : h.ltime = 0 := by
  have hl : (match exec (.vldG loadOfLane) twinParts with
    | .next t => (t.group? 3).map fun h => h.ltime
    | .fault _ | .refused _ => none) = some 0 := by decide
  rw [he] at hl
  simpa [hg] using hl

/-- Refutes O30: its hypotheses hold of a state that lists one partition number twice, where the translation of the word's address turns
DET on; the load then takes the trap of a register-row conflict (R299), which its premise excludes under the DET from before. The
reset state lists each number once; the statement does not ask for it. -/
theorem not_memoryAccesses : ¬ Obligations.MemoryAccesses := by
  rintro ⟨hretires, -⟩
  obtain ⟨t, h, old, new, he, hr, -⟩ :=
    hretires twinParts walkedParts loadingGroup (.vldG loadOfLane) loadPlan [(0, 0)] twin_issues rfl twin_destination twin_passes
  have h0 : h.ltime = 0 := twin_not_retired he hr.group
  have h1 : h.ltime = loadingGroup.ltime + 1 := hr.time
  exact absurd (h0.symm.trans h1) (by decide)

end Sys2Proof.Machine
end
